-- ==== Sys2Proof/Word.lean ====
section
/-! DEFINITION. The word types of the LB9 (R6, R7, R37, R113, R147): bits only where the manual
shifts, masks or stores a value as a word. -/

namespace Sys2Proof

/-- A byte of any memory. -/
abbrev Byte := BitVec 8
/-- A 64-bit scalar or address register value (R113). -/
abbrev Word := BitVec 64
/-- One slot of a bundle (R37). -/
abbrev SlotWord := BitVec 32
/-- A whole bundle (R37). -/
abbrev BundleWord := BitVec 128
/-- The data bits of a vector register, a seed register or a queue entry (R147, R149, R331). -/
abbrev VWord := BitVec 1024
/-- One row of a Mangle slot (R184). -/
abbrev MRow := BitVec 8192
/-- A register index field of a slot (R41). -/
abbrev RegIx := BitVec 5

end Sys2Proof
end

