-- ==== Sys2Proof/Syntax.lean ====
section
/-! DEFINITION. The instruction set of Kuold level 3 as syntax: one constructor of `Instr` per row of the
opcode table. Rows with a word are slot operations and header marks (R41-R50, R72-R81); rows without a
word are the part's events and commands (95_what_each_step_holds). Fields carry what the encoding says. -/

namespace Sys2Proof

/-- The two instruction streams of a runner (R18). -/
inductive Slice | c | a
  deriving DecidableEq, Repr
/-- The two vector slots (R39). -/
inductive VPos | va | vb
  deriving DecidableEq, Repr
/-- The two address-generation slots (R39). -/
inductive AgPos | ag0 | ag1
  deriving DecidableEq, Repr
/-- The decoupling queues, in the order of their queue codes (R76). -/
inductive QName | laq | ldq0 | ldq1 | saq | sdq | ixq | caq | acq
  deriving DecidableEq, Repr
/-- The two queues of the Press (R187). -/
inductive PressQ | fill | compute
  deriving DecidableEq, Repr
/-- The items that acknowledge a pre-emption, in ACKM bit order (R377). -/
inductive AckItem | a | c | va | vb | press | sprinter | relay
  deriving DecidableEq, Repr

/-- A guard: the predicate index PG and whether PN negates it (R43). -/
structure Guard where
  neg : Bool
  p : BitVec 4
  deriving DecidableEq, Repr

/-- Element formats, in format-code order (R46). -/
inductive Fmt
  | s8 | s16 | s32 | s64 | z8 | z16 | z32 | z64
  | f64 | f32 | bf16 | f16 | e5m2 | e4m3 | e3m2 | e2m3
  | e2m1 | qe5m2 | qe4m3 | qe3m2 | qe2m3 | qe2m1 | qs8
  deriving DecidableEq, Repr
/-- Vector operation widths (R45). -/
inductive Width | w256 | w512 | w1024
  deriving DecidableEq, Repr
/-- Rounding modes (R50). -/
inductive Rm | rne | rtz | rup | rdn | rna | sr
  deriving DecidableEq, Repr
/-- Scalar conditions (R75). -/
inductive Cc | eq | ne | ltS | leS | gtS | geS | ltZ | leZ | gtZ | geZ
  deriving DecidableEq, Repr
/-- Branch conditions (R75). -/
inductive Bc | eqz | nez | ltz | gez | gtz | lez
  deriving DecidableEq, Repr
/-- Vector conditions (R78). -/
inductive VCc | eq | ne | lt | le | gt | ge | uno | ord
  deriving DecidableEq, Repr
/-- Reduction operations (R78). -/
inductive RedOp | add | min | max | and | or | xor
  deriving DecidableEq, Repr
/-- N-of-48 codes (R79). -/
inductive NCode | n12 | n16 | n24
  deriving DecidableEq, Repr
/-- AG access sizes (R80). -/
inductive Size | z8 | z16 | z32 | z64 | w256 | w512 | w1024
  deriving DecidableEq, Repr
/-- Scopes (R306). -/
inductive Scope | run | sqd | die | pkg | sys
  deriving DecidableEq, Repr
/-- Orders (R307). -/
inductive Ord | rlx | acq | rel | ar | sc
  deriving DecidableEq, Repr
/-- Atomic operations (R81). -/
inductive AmoOp | add | and | or | xor | min | max | minz | maxz | swp | cas
  deriving DecidableEq, Repr
/-- Collective reductions (R279). -/
inductive Red | add | min | max
  deriving DecidableEq, Repr

/-! Operand structures. `sl` is the stream the slot stands in where X and AC share an operation (R76). -/

/-- NOP: its stream and slot position 0-3 (R42). -/
structure NopO where
  sl : Slice
  pos : BitVec 2
  g : Guard
  deriving DecidableEq, Repr
/-- A header: its stream and its three extension bytes (R48). -/
structure HdrO where
  sl : Slice
  e1 : BitVec 8
  e2 : BitVec 8
  e3 : BitVec 8
  deriving DecidableEq, Repr
/-- Three registers of the stream's file, or three predicates. -/
structure R3 where
  sl : Slice
  g : Guard
  d : RegIx
  s1 : RegIx
  s2 : RegIx
  deriving DecidableEq, Repr
/-- Destination and one source of the stream's file. -/
structure R2 where
  sl : Slice
  g : Guard
  d : RegIx
  s1 : RegIx
  deriving DecidableEq, Repr
/-- Destination, source and IMM12 (R44). -/
structure RI where
  sl : Slice
  g : Guard
  d : RegIx
  s1 : RegIx
  imm : BitVec 12
  deriving DecidableEq, Repr
/-- Destination, source and a shift count. -/
structure RSh where
  sl : Slice
  g : Guard
  d : RegIx
  s1 : RegIx
  n : BitVec 6
  deriving DecidableEq, Repr
/-- Bit field: position and length − 1. -/
structure RField where
  sl : Slice
  g : Guard
  d : RegIx
  s1 : RegIx
  pos : BitVec 6
  len1 : BitVec 6
  deriving DecidableEq, Repr
/-- LI operands. -/
structure LiO where
  sl : Slice
  g : Guard
  d : RegIx
  imm : BitVec 12
  deriving DecidableEq, Repr
/-- LIH operands: piece k and its immediate. -/
structure LihO where
  sl : Slice
  g : Guard
  d : RegIx
  k : BitVec 5
  imm : BitVec 12
  deriving DecidableEq, Repr
/-- SEL operands: the selecting predicate is `q`. -/
structure SelO where
  sl : Slice
  g : Guard
  d : RegIx
  s1 : RegIx
  s2 : RegIx
  q : BitVec 4
  deriving DecidableEq, Repr
/-- CMP operands. -/
structure CmpO where
  sl : Slice
  g : Guard
  d : RegIx
  s1 : RegIx
  s2 : RegIx
  cc : Cc
  w32 : Bool
  deriving DecidableEq, Repr
/-- CMPI operands. -/
structure CmpiO where
  sl : Slice
  g : Guard
  d : RegIx
  s1 : RegIx
  cc : Cc
  imm : BitVec 8
  deriving DecidableEq, Repr
/-- BR, CALL, LOOPB: a 20-bit bundle offset (R52). -/
structure BrO where
  sl : Slice
  g : Guard
  off : BitVec 20
  deriving DecidableEq, Repr
/-- BRC operands. -/
structure BrcO where
  sl : Slice
  g : Guard
  cond : Bc
  s1 : RegIx
  off : BitVec 12
  deriving DecidableEq, Repr
/-- One source register of the stream's file. -/
structure S1O where
  sl : Slice
  g : Guard
  s1 : RegIx
  deriving DecidableEq, Repr
/-- The register files CHK can test (R74). -/
inductive ChkFile | g | va | vb
  deriving DecidableEq, Repr
/-- CHK operands (R346). -/
structure ChkO where
  g : Guard
  file : ChkFile
  s1 : RegIx
  off : BitVec 12
  deriving DecidableEq, Repr
/-- LOOPSET operands: the trip count and the drain stages (R119). -/
structure LoopsetO where
  sl : Slice
  g : Guard
  s1 : RegIx
  ds : BitVec 3
  deriving DecidableEq, Repr
/-- WAIT operand (R137). -/
structure WaitO where
  sl : Slice
  g : Guard
  n : BitVec 12
  deriving DecidableEq, Repr
/-- XTOV and VTOX operands with a 64-bit element number (R138). -/
structure CopyO where
  g : Guard
  d : RegIx
  s1 : RegIx
  e : BitVec 4
  deriving DecidableEq, Repr
/-- A destination register and one source register of files the constructor names. -/
structure GDS where
  g : Guard
  d : RegIx
  s1 : RegIx
  deriving DecidableEq, Repr
/-- System register read. -/
structure CsrrO where
  g : Guard
  d : RegIx
  n : BitVec 12
  deriving DecidableEq, Repr
/-- System register write. -/
structure CsrwO where
  g : Guard
  s1 : RegIx
  n : BitVec 12
  deriving DecidableEq, Repr
/-- TRAP operand. -/
structure TrapO where
  sl : Slice
  g : Guard
  code : BitVec 5
  deriving DecidableEq, Repr
/-- RFT, DONE, HALT. -/
structure SysO where
  sl : Slice
  g : Guard
  deriving DecidableEq, Repr
/-- Guard only. -/
structure GO where
  g : Guard
  deriving DecidableEq, Repr
/-- One source register. -/
structure GS where
  g : Guard
  s1 : RegIx
  deriving DecidableEq, Repr
/-- One destination register. -/
structure GD where
  g : Guard
  d : RegIx
  deriving DecidableEq, Repr
/-- BRQ operands (R347). -/
structure BrqO where
  g : Guard
  cond : Bc
  off : BitVec 12
  deriving DecidableEq, Repr
/-- QDRAIN operand: false names ldq0, true ldq1 (R349). -/
structure QDrainO where
  g : Guard
  ldq1 : Bool
  deriving DecidableEq, Repr
/-- QSTAT operands (R350). -/
structure QStatO where
  g : Guard
  d : RegIx
  q : QName
  deriving DecidableEq, Repr
/-- EXTR.Q, SHPR, TSTATE, KEYQ operands with a field selector. -/
structure QueryO where
  g : Guard
  d : RegIx
  s1 : RegIx
  sel : BitVec 4
  deriving DecidableEq, Repr

/-- Two sources, with the rounding mode of an RM extension (rne where the operation takes none). -/
structure V3 where
  v : VPos
  g : Guard
  d : RegIx
  s1 : RegIx
  s2 : RegIx
  w : Width
  ty : Fmt
  rm : Rm
  deriving DecidableEq, Repr
/-- Three sources (S3+RM reading, R50). -/
structure V4 where
  v : VPos
  g : Guard
  d : RegIx
  s1 : RegIx
  s2 : RegIx
  t : RegIx
  w : Width
  ty : Fmt
  rm : Rm
  deriving DecidableEq, Repr
/-- One source. -/
structure V2 where
  v : VPos
  g : Guard
  d : RegIx
  s1 : RegIx
  w : Width
  ty : Fmt
  rm : Rm
  deriving DecidableEq, Repr
/-- Destination and source of a stain instruction (W = 10, TY = 0000). -/
structure VDS where
  v : VPos
  g : Guard
  d : RegIx
  s1 : RegIx
  deriving DecidableEq, Repr
/-- Destination only. -/
structure VD where
  v : VPos
  g : Guard
  d : RegIx
  deriving DecidableEq, Repr
/-- Source only. -/
structure VS where
  v : VPos
  g : Guard
  s1 : RegIx
  deriving DecidableEq, Repr
/-- Vector pop of a load data queue. -/
structure VPop where
  v : VPos
  g : Guard
  d : RegIx
  w : Width
  ty : Fmt
  deriving DecidableEq, Repr
/-- Vector compare: `t` is the second source. -/
structure VCmpO where
  v : VPos
  g : Guard
  d : RegIx
  s1 : RegIx
  t : RegIx
  cc : VCc
  w : Width
  ty : Fmt
  deriving DecidableEq, Repr
/-- VCVT: `fmt` is the destination format, `ty` the source. -/
structure VCvtO where
  v : VPos
  g : Guard
  d : RegIx
  s1 : RegIx
  fmt : Fmt
  w : Width
  ty : Fmt
  sat : Bool
  rm : Rm
  deriving DecidableEq, Repr
/-- VCVTEF, VQNT, VDQNT: `fmt` is the S2-field format, `t` the residual or the scales. -/
structure VCv4 where
  v : VPos
  g : Guard
  d : RegIx
  s1 : RegIx
  t : RegIx
  fmt : Fmt
  w : Width
  ty : Fmt
  rm : Rm
  deriving DecidableEq, Repr
/-- VPACKSP: `t` receives the mask. -/
structure VPackO where
  v : VPos
  g : Guard
  d : RegIx
  s1 : RegIx
  t : RegIx
  n : NCode
  w : Width
  ty : Fmt
  deriving DecidableEq, Repr
/-- VRED, VSCAN (with `rm`) and VREDR (with `t`, the last register of the group). -/
structure VRedO where
  v : VPos
  g : Guard
  d : RegIx
  s1 : RegIx
  t : RegIx
  op : RedOp
  w : Width
  ty : Fmt
  rm : Rm
  deriving DecidableEq, Repr
/-- Permutations: `t` is the second source. -/
structure VPermO where
  v : VPos
  g : Guard
  d : RegIx
  s1 : RegIx
  t : RegIx
  w : Width
  ty : Fmt
  deriving DecidableEq, Repr
/-- VLI: a 10-bit constant. -/
structure VLiO where
  v : VPos
  g : Guard
  d : RegIx
  c : BitVec 10
  w : Width
  ty : Fmt
  deriving DecidableEq, Repr

/-- MGFILL: slot and Basin tile number. -/
structure MgFillO where
  g : Guard
  d : RegIx
  tile : BitVec 8
  deriving DecidableEq, Repr
/-- MGSPFILL: slot, data tile, mask tile, N (R79). -/
structure MgSpO where
  g : Guard
  d : RegIx
  tile : BitVec 8
  mask : BitVec 8
  n : NCode
  deriving DecidableEq, Repr
/-- MMA: accumulator, left and right slots, format, ignored placement hint. -/
structure MmaO where
  g : Guard
  d : RegIx
  s1 : RegIx
  s2 : RegIx
  fmt : Fmt
  hint : BitVec 2
  deriving DecidableEq, Repr
/-- MMASP. -/
structure MmaSpO where
  g : Guard
  d : RegIx
  s1 : RegIx
  s2 : RegIx
  fmt : Fmt
  n : NCode
  deriving DecidableEq, Repr
/-- MMAC: `cseq` holds four 2-bit cell-operation codes (R50). -/
structure MmacO where
  g : Guard
  d : RegIx
  s1 : RegIx
  s2 : RegIx
  fmt : Fmt
  hint : BitVec 2
  cseq : BitVec 8
  deriving DecidableEq, Repr
/-- ACLOAD, ACDRAIN, ACSCALE: accumulator and Basin tile. -/
structure AcTileO where
  g : Guard
  ac : RegIx
  tile : BitVec 8
  rm : Rm
  deriving DecidableEq, Repr
/-- ACSTAIN, ACCLEAN: one row, or all. -/
structure AcRowO where
  g : Guard
  d : RegIx
  all : Bool
  row : BitVec 5
  deriving DecidableEq, Repr

/-- LDA, LDA.S: address a[s1] + a[s2]; `ldq1` the target; `hint` ignored (R80). -/
structure AgLdO where
  ag : AgPos
  g : Guard
  s1 : RegIx
  s2 : RegIx
  size : Size
  ldq1 : Bool
  hint : BitVec 3
  deriving DecidableEq, Repr
/-- LDST: count register `d`. -/
structure AgLdStO where
  ag : AgPos
  g : Guard
  d : RegIx
  s1 : RegIx
  s2 : RegIx
  size : Size
  ldq1 : Bool
  hint : BitVec 3
  deriving DecidableEq, Repr
/-- LDX. -/
structure AgLdXO where
  ag : AgPos
  g : Guard
  s1 : RegIx
  size : Size
  ldq1 : Bool
  hint : BitVec 3
  deriving DecidableEq, Repr
/-- STA. -/
structure AgStO where
  ag : AgPos
  g : Guard
  s1 : RegIx
  s2 : RegIx
  size : Size
  deriving DecidableEq, Repr
/-- STST. -/
structure AgStStO where
  ag : AgPos
  g : Guard
  d : RegIx
  s1 : RegIx
  s2 : RegIx
  size : Size
  deriving DecidableEq, Repr
/-- STX. -/
structure AgStXO where
  ag : AgPos
  g : Guard
  s1 : RegIx
  size : Size
  deriving DecidableEq, Repr

/-- TLD, TST: tile, address or first shape row, and the shape-index register when not zero. -/
structure GDSS where
  g : Guard
  d : RegIx
  s1 : RegIx
  s2 : RegIx
  deriving DecidableEq, Repr
/-- Two source registers. -/
structure GSS where
  g : Guard
  s1 : RegIx
  s2 : RegIx
  deriving DecidableEq, Repr
/-- A reducing collective. -/
structure ColO where
  g : Guard
  s1 : RegIx
  s2 : RegIx
  red : Red
  deriving DecidableEq, Repr
/-- Scalar AMO: `res1` sends the result to ldq1. -/
structure AmoO where
  g : Guard
  w32 : Bool
  scope : Scope
  res1 : Bool
  s1 : RegIx
  s2 : RegIx
  op : AmoOp
  ord : Ord
  deriving DecidableEq, Repr
/-- Vector AMO: `res` returns the old values to ldq0. -/
structure AmoVO where
  g : Guard
  w32 : Bool
  scope : Scope
  res : Bool
  s1 : RegIx
  op : AmoOp
  ord : Ord
  deriving DecidableEq, Repr
/-- LDS. -/
structure LdsO where
  g : Guard
  w32 : Bool
  scope : Scope
  res1 : Bool
  s1 : RegIx
  ord : Ord
  deriving DecidableEq, Repr
/-- STS. -/
structure StsO where
  g : Guard
  w32 : Bool
  scope : Scope
  s1 : RegIx
  s2 : RegIx
  ord : Ord
  deriving DecidableEq, Repr
/-- FENCE. -/
structure FenceO where
  g : Guard
  scope : Scope
  ord : Ord
  deriving DecidableEq, Repr
/-- SIG: `add` selects the adding form. -/
structure SigO where
  g : Guard
  scope : Scope
  s1 : RegIx
  s2 : RegIx
  add : Bool
  deriving DecidableEq, Repr

/-! Operands of commands and events. -/

/-- A command packet as accepted (R393, R395), with the queue it came from (1024 times the function that owns the queue, plus its
number). `serial` is, for a LAUNCH, SEQ of the HEATID it received (R401); of other packets, the count of packets accepted before
it. `acc` is its place in the acceptance order, `die` the home die of its queue, whose firmware core accepted it (R391). -/
structure Pkt where
  queue : Nat
  func : Nat
  qid : Nat
  serial : Nat
  acc : Nat
  die : Nat
  opc : Nat
  flags : BitVec 8
  tag : BitVec 32
  cwaddr : Nat
  cwval : Word
  body : List Byte
  deriving DecidableEq, Repr
/-- The boot images as they stand in flash (R439): each image's bytes, manifest digest, SVN and
RAISESVN flag; `sigOk` is what verifying the signature chain gives. -/
structure BootImage where
  bytes : List Byte
  digest : BitVec 256
  svn : Nat
  raise : Bool
  sigOk : Bool
  deriving DecidableEq, Repr
/-- The three images of a boot (R439). -/
structure BootImages where
  hub : BootImage
  die : BootImage
  conf : BootImage
  deriving DecidableEq, Repr
/-- Monitor readings of one sample (R432, R450): quarter degrees Celsius per cluster, per stack, of the hub and per LPDDR package, core-rail
faults per cluster (out of ±5 % for 1 µs or more), half millivolts of each core rail and of the hub's rails, ring oscillator counts per cluster
as last sampled, the module power estimate in watts, and the coolant flow in tenths of a litre a minute. -/
structure Readings where
  cluster : List Int
  stack : List Int
  railBad : List Bool
  power : Nat
  hub : Int
  lpddr : List Int
  coreV : List Nat
  hubV : List Nat
  process : List Nat
  flow : Nat
  deriving DecidableEq, Repr
/-- An SPDM or TDISP message (R437, R442): the function whose mailbox carried it (none through MCTP), the
session it came in, the offered algorithms are acceptable or not, and its content. -/
structure SpdmMsg where
  func : Option Nat
  session : Option Nat
  algOk : Bool
  body : List Byte
  deriving DecidableEq, Repr
/-- What an IDE key management message does (R438). -/
inductive IdeAct | program | goSecure | refresh | retire
  deriving DecidableEq, Repr
/-- An IDE key management message: the SPDM session of the PF that it came in, stream, action, first and last requester. -/
structure IdeKm where
  session : Nat
  stream : Nat
  act : IdeAct
  first : Nat
  last : Nat
  deriving DecidableEq, Repr
/-- A Rigal message on a port (R446): the sender's MODID and M, and what checking its content gives. -/
structure RigalMsg where
  port : Nat
  modid : Nat
  m : BitVec 256
  ok : Bool
  body : List Byte
  deriving DecidableEq, Repr
/-- A peer's request on a lease entry (R296, R445). -/
structure LeaseReq where
  port : Nat
  entry : Nat
  line : Nat
  write : Bool
  seqNo : Nat
  data : List Byte
  deriving DecidableEq, Repr
/-- What a peer's reply brings over a port: the module's number of the request it answers, and data and tags (R296, R297). -/
structure LeaseRep where
  port : Nat
  req : Nat
  data : List Byte
  deriving DecidableEq, Repr
/-- What a peer's notice about a lease says (R255, R256). -/
inductive PeerNoteKind | agree | revoke | early
  deriving DecidableEq, Repr
/-- A notice from a peer's firmware about lease entry `entry`. -/
structure PeerNote where
  entry : Nat
  kind : PeerNoteKind
  deriving DecidableEq, Repr

/-- One constructor per row of the opcode table. -/
inductive Instr
  /-- No operation in any slot (R42). -/
  | nop (o : NopO)
  /-- Header marks (R48-R51). -/
  | header (o : HdrO)
  /-- Header marks (R48-R51). -/
  | leg (o : HdrO)
  /-- Header marks (R48-R51). -/
  | exchange (o : HdrO)
  /-- Header marks (R48-R51). -/
  | patch (o : HdrO)
  /-- Header marks (R48-R51). -/
  | exposed (o : HdrO)
  /-- Header marks (R48-R51). -/
  | interlocked (o : HdrO)
  /-- Header marks (R48-R51). -/
  | hint (o : HdrO)
  /-- Register-register integer arithmetic (R128, R129). -/
  | add (o : R3)
  /-- Register-register integer arithmetic (R128, R129). -/
  | sub (o : R3)
  /-- Register-register integer arithmetic (R128, R129). -/
  | and (o : R3)
  /-- Register-register integer arithmetic (R128, R129). -/
  | or (o : R3)
  /-- Register-register integer arithmetic (R128, R129). -/
  | xor (o : R3)
  /-- Register-register integer arithmetic (R128, R129). -/
  | shl (o : R3)
  /-- Register-register integer arithmetic (R128, R129). -/
  | shr (o : R3)
  /-- Register-register integer arithmetic (R128, R129). -/
  | sar (o : R3)
  /-- Register-register integer arithmetic (R128, R129). -/
  | rol (o : R3)
  /-- Register-register integer arithmetic (R128, R129). -/
  | min (o : R3)
  /-- Register-register integer arithmetic (R128, R129). -/
  | max (o : R3)
  /-- Register-register integer arithmetic (R128, R129). -/
  | minz (o : R3)
  /-- Register-register integer arithmetic (R128, R129). -/
  | maxz (o : R3)
  /-- Register-register integer arithmetic (R128, R129). -/
  | mul (o : R3)
  /-- Register-register integer arithmetic (R128, R129). -/
  | mulh (o : R3)
  /-- Register-register integer arithmetic (R128, R129). -/
  | mulhz (o : R3)
  /-- Register-register integer arithmetic (R128, R129). -/
  | div (o : R3)
  /-- Register-register integer arithmetic (R128, R129). -/
  | divz (o : R3)
  /-- Register-register integer arithmetic (R128, R129). -/
  | rem (o : R3)
  /-- Register-register integer arithmetic (R128, R129). -/
  | remz (o : R3)
  /-- Unary integer operations (R130). -/
  | mov (o : R2)
  /-- Unary integer operations (R130). -/
  | not (o : R2)
  /-- Unary integer operations (R130). -/
  | clz (o : R2)
  /-- Unary integer operations (R130). -/
  | ctz (o : R2)
  /-- Unary integer operations (R130). -/
  | popc (o : R2)
  /-- Unary integer operations (R130). -/
  | bswap (o : R2)
  /-- Pops of the load data queues into a g register (R333). -/
  | movFromLdq0 (o : GD)
  /-- Pops of the load data queues into a g register (R333). -/
  | movFromLdq1 (o : GD)
  /-- Immediate arithmetic (R131). -/
  | addi (o : RI)
  /-- Immediate arithmetic (R131). -/
  | andi (o : RI)
  /-- Immediate arithmetic (R131). -/
  | ori (o : RI)
  /-- Immediate arithmetic (R131). -/
  | xori (o : RI)
  /-- Shifts by a constant (R131). -/
  | shli (o : RSh)
  /-- Shifts by a constant (R131). -/
  | shri (o : RSh)
  /-- Shifts by a constant (R131). -/
  | sari (o : RSh)
  /-- Bit-field extract and insert (R131). -/
  | extr (o : RField)
  /-- Bit-field extract and insert (R131). -/
  | ins (o : RField)
  /-- Load immediate (R131). -/
  | li (o : LiO)
  /-- Load immediate high (R131). -/
  | lih (o : LihO)
  /-- Select (R132). -/
  | sel (o : SelO)
  /-- Scalar compare (R133). -/
  | cmp (o : CmpO)
  /-- Scalar compare with an immediate (R133). -/
  | cmpi (o : CmpiO)
  /-- Predicate logic (R134). -/
  | pand (o : R3)
  /-- Predicate logic (R134). -/
  | por (o : R3)
  /-- Predicate logic (R134). -/
  | pxor (o : R3)
  /-- Unary predicate logic (R134). -/
  | pnot (o : R2)
  /-- Unary predicate logic (R134). -/
  | pmov (o : R2)
  /-- Direct branches (R120, R135). -/
  | br (o : BrO)
  /-- Direct branches (R120, R135). -/
  | call (o : BrO)
  /-- Direct branches (R120, R135). -/
  | loopb (o : BrO)
  /-- Conditional branch (R135). -/
  | brc (o : BrcO)
  /-- Register branches (R136). -/
  | brr (o : S1O)
  /-- Register call (R136). -/
  | callr (o : R2)
  /-- Return (R136). -/
  | ret (o : S1O)
  /-- Poison check branch (R346). -/
  | chk (o : ChkO)
  /-- Loop set-up (R119). -/
  | loopset (o : LoopsetO)
  /-- Wait (R137). -/
  | wait (o : WaitO)
  /-- Cross-file element copies (R138). -/
  | xtovVa (o : CopyO)
  /-- Cross-file element copies (R138). -/
  | xtovVb (o : CopyO)
  /-- Cross-file element copies (R138). -/
  | vtoxVa (o : CopyO)
  /-- Cross-file element copies (R138). -/
  | vtoxVb (o : CopyO)
  /-- Whole-register and cross-slice copies (R138, R139). -/
  | vatovb (o : GDS)
  /-- Whole-register and cross-slice copies (R138, R139). -/
  | vbtova (o : GDS)
  /-- Whole-register and cross-slice copies (R138, R139). -/
  | xtoa (o : GDS)
  /-- Whole-register and cross-slice copies (R138, R139). -/
  | atox (o : GDS)
  /-- System register read of the C slice (R127). -/
  | csrr (o : CsrrO)
  /-- System register write of the C slice (R127). -/
  | csrw (o : CsrwO)
  /-- System register read of the A slice (R127). -/
  | acsrr (o : CsrrO)
  /-- System register write of the A slice (R127). -/
  | acsrw (o : CsrwO)
  /-- Software trap (R142). -/
  | trap (o : TrapO)
  /-- System control (R143-R145). -/
  | rft (o : SysO)
  /-- System control (R143-R145). -/
  | done (o : SysO)
  /-- System control (R143-R145). -/
  | halt (o : SysO)
  /-- Rewind request and chosen stop point (R373, R379). -/
  | rwnd (o : GO)
  /-- Rewind request and chosen stop point (R373, R379). -/
  | preemptAck (o : GO)
  /-- Scalar queue push of the C slice (R334). -/
  | pushc (o : GS)
  /-- Scalar queue pop of the C slice (R333). -/
  | popa (o : GD)
  /-- Branch on a queue value (R347). -/
  | brq (o : BrqO)
  /-- Scalar queue push of the A slice (R334). -/
  | qpush (o : GS)
  /-- Queue drain (R349). -/
  | qdrain (o : QDrainO)
  /-- Queue status (R350). -/
  | qstat (o : QStatO)
  /-- Table queries (R226, R229, R233, R260). -/
  | extrQ (o : QueryO)
  /-- Table queries (R226, R229, R233, R260). -/
  | shpr (o : QueryO)
  /-- Table queries (R226, R229, R233, R260). -/
  | tstate (o : QueryO)
  /-- Table queries (R226, R229, R233, R260). -/
  | keyq (o : QueryO)
  /-- Vector arithmetic and logic (R157). -/
  | vadd (o : V3)
  /-- Vector arithmetic and logic (R157). -/
  | vaddsat (o : V3)
  /-- Vector arithmetic and logic (R157). -/
  | vsub (o : V3)
  /-- Vector arithmetic and logic (R157). -/
  | vsubsat (o : V3)
  /-- Vector arithmetic and logic (R157). -/
  | vmul (o : V3)
  /-- Vector arithmetic and logic (R157). -/
  | vmullo (o : V3)
  /-- Vector arithmetic and logic (R157). -/
  | vmulhi (o : V3)
  /-- Vector arithmetic and logic (R157). -/
  | vmulhiz (o : V3)
  /-- Fused multiply-add (R157). -/
  | vfma (o : V4)
  /-- Fused multiply-add (R157). -/
  | vfms (o : V4)
  /-- Fused multiply-add (R157). -/
  | vfnma (o : V4)
  /-- Vector arithmetic and logic (R157-R159). -/
  | vdiv (o : V3)
  /-- Vector arithmetic and logic (R157-R159). -/
  | vmin (o : V3)
  /-- Vector arithmetic and logic (R157-R159). -/
  | vmax (o : V3)
  /-- Vector arithmetic and logic (R157-R159). -/
  | vcopysign (o : V3)
  /-- Vector arithmetic and logic (R157-R159). -/
  | vavg (o : V3)
  /-- Vector arithmetic and logic (R157-R159). -/
  | vand (o : V3)
  /-- Vector arithmetic and logic (R157-R159). -/
  | vor (o : V3)
  /-- Vector arithmetic and logic (R157-R159). -/
  | vxor (o : V3)
  /-- Vector arithmetic and logic (R157-R159). -/
  | vshl (o : V3)
  /-- Vector arithmetic and logic (R157-R159). -/
  | vshr (o : V3)
  /-- Vector arithmetic and logic (R157-R159). -/
  | vsar (o : V3)
  /-- Vector unary group (R160). -/
  | vmov (o : V2)
  /-- Vector unary group (R160). -/
  | vabs (o : V2)
  /-- Vector unary group (R160). -/
  | vneg (o : V2)
  /-- Vector unary group (R160). -/
  | vnot (o : V2)
  /-- Vector unary group (R160). -/
  | vpopc (o : V2)
  /-- Vector unary group (R160). -/
  | vclz (o : V2)
  /-- Vector unary group (R160). -/
  | vsqrt (o : V2)
  /-- Stain instructions (R161). -/
  | vstain (o : VDS)
  /-- Stain instructions (R161). -/
  | vclean (o : VDS)
  /-- Stain instructions (R161). -/
  | vstst (o : VDS)
  /-- Seed read (R162). -/
  | vseedr (o : VD)
  /-- Seed write and queue pushes (R162, R163). -/
  | vseedw (o : VS)
  /-- Seed write and queue pushes (R162, R163). -/
  | vpushSdq (o : VS)
  /-- Seed write and queue pushes (R162, R163). -/
  | vpushIxq (o : VS)
  /-- Vector pops of the load data queues (R333). -/
  | vmovFromLdq0 (o : VPop)
  /-- Vector pops of the load data queues (R333). -/
  | vmovFromLdq1 (o : VPop)
  /-- Special functions (R164, R165). -/
  | vexp2 (o : V2)
  /-- Special functions (R164, R165). -/
  | vlog2 (o : V2)
  /-- Special functions (R164, R165). -/
  | vrcp (o : V2)
  /-- Special functions (R164, R165). -/
  | vrsq (o : V2)
  /-- Special functions (R164, R165). -/
  | vsin (o : V2)
  /-- Special functions (R164, R165). -/
  | vcos (o : V2)
  /-- Special functions (R164, R165). -/
  | vtanh (o : V2)
  /-- Vector compares (R166, R167). -/
  | vcmp (o : VCmpO)
  /-- Vector compares (R166, R167). -/
  | vcmpm (o : VCmpO)
  /-- Vector select (R168). -/
  | vsel (o : V4)
  /-- Conversion (R169). -/
  | vcvt (o : VCvtO)
  /-- Error-feedback conversion, quantisation, dequantisation (R170-R172). -/
  | vcvtef (o : VCv4)
  /-- Error-feedback conversion, quantisation, dequantisation (R170-R172). -/
  | vqnt (o : VCv4)
  /-- Error-feedback conversion, quantisation, dequantisation (R170-R172). -/
  | vdqnt (o : VCv4)
  /-- Sparse packing (R173). -/
  | vpacksp (o : VPackO)
  /-- Reductions and scans (R174, R175). -/
  | vred (o : VRedO)
  /-- Reductions and scans (R174, R175). -/
  | vscan (o : VRedO)
  /-- Reductions and scans (R174, R175). -/
  | vredr (o : VRedO)
  /-- Permutations (R176). -/
  | vperm (o : VPermO)
  /-- Permutations (R176). -/
  | vshuf (o : VPermO)
  /-- Permutations (R176). -/
  | vbcast (o : VPermO)
  /-- Permutations (R176). -/
  | vext (o : VPermO)
  /-- Permutations (R176). -/
  | vins (o : VPermO)
  /-- Permutations (R176). -/
  | vrot (o : VPermO)
  /-- Permutations (R176). -/
  | vcompress (o : VPermO)
  /-- Permutations (R176). -/
  | vexpand (o : VPermO)
  /-- Permutations (R176). -/
  | vzip (o : VPermO)
  /-- Permutations (R176). -/
  | vunzip (o : VPermO)
  /-- Vector constant (R177). -/
  | vli (o : VLiO)
  /-- Mangle slot claim and release (R193). -/
  | mgclaim (o : GD)
  /-- Mangle slot claim and release (R193). -/
  | mgrel (o : GD)
  /-- Mangle fill (R194). -/
  | mgfill (o : MgFillO)
  /-- Sparse Mangle fill (R195). -/
  | mgspfill (o : MgSpO)
  /-- Matrix multiply-accumulate (R197). -/
  | mma (o : MmaO)
  /-- Sparse matrix multiply-accumulate (R197). -/
  | mmasp (o : MmaSpO)
  /-- Matrix operation with cell operations (R198). -/
  | mmac (o : MmacO)
  /-- Accumulator clear (R201). -/
  | acz (o : GD)
  /-- Accumulator load (R202). -/
  | acload (o : AcTileO)
  /-- Accumulator drain (R203). -/
  | acdrain (o : AcTileO)
  /-- Accumulator scale (R204). -/
  | acscale (o : AcTileO)
  /-- Accumulator stains (R205). -/
  | acstain (o : AcRowO)
  /-- Accumulator stains (R205). -/
  | acclean (o : AcRowO)
  /-- Engine synchronisation and status (R207, R208). -/
  | esync (o : GO)
  /-- Engine synchronisation and status (R207, R208). -/
  | estatPress (o : GO)
  /-- Engine synchronisation and status (R207, R208). -/
  | estatSprinter (o : GO)
  /-- Engine synchronisation and status (R207, R208). -/
  | estatRelay (o : GO)
  /-- AG-slot loads (R337). -/
  | lda (o : AgLdO)
  /-- AG-slot loads (R337). -/
  | ldaS (o : AgLdO)
  /-- Strided load (R337). -/
  | ldst (o : AgLdStO)
  /-- Indexed load (R337). -/
  | ldx (o : AgLdXO)
  /-- AG-slot store (R340). -/
  | sta (o : AgStO)
  /-- Strided store (R340). -/
  | stst (o : AgStStO)
  /-- Indexed store (R340). -/
  | stx (o : AgStXO)
  /-- Tile load and store (R273). -/
  | tld (o : GDSS)
  /-- Tile load and store (R273). -/
  | tst (o : GDSS)
  /-- Tile copies and fill (R276). -/
  | tmov (o : GSS)
  /-- Tile copies and fill (R276). -/
  | tcopy (o : GSS)
  /-- Tile copies and fill (R276). -/
  | tfill (o : GSS)
  /-- Tile zero and tile wait (R276, R277). -/
  | tzero (o : GS)
  /-- Tile zero and tile wait (R276, R277). -/
  | twait (o : GS)
  /-- All-reduce (R279). -/
  | calr (o : ColO)
  /-- All-gather (R279). -/
  | caga (o : GSS)
  /-- Reduce-scatter (R279). -/
  | crsc (o : ColO)
  /-- All-to-all and broadcast (R279). -/
  | ca2a (o : GSS)
  /-- All-to-all and broadcast (R279). -/
  | cbcs (o : GSS)
  /-- Scalar atomic (R319). -/
  | amo (o : AmoO)
  /-- Vector atomic (R320). -/
  | amoVector (o : AmoVO)
  /-- Strong load (R318). -/
  | lds (o : LdsO)
  /-- Strong store (R318). -/
  | sts (o : StsO)
  /-- Fence (R321). -/
  | fence (o : FenceO)
  /-- Squad barrier (R322). -/
  | bars (o : GO)
  /-- Barrier objects (R325, R326). -/
  | barinit (o : GSS)
  /-- Barrier objects (R325, R326). -/
  | bararr (o : GS)
  /-- Barrier objects (R325, R326). -/
  | barinv (o : GS)
  /-- Signal (R323). -/
  | sig (o : SigO)
  /-- Tile definition (R224). -/
  | tdef (o : GSS)
  /-- Tile release (R225). -/
  | tfree (o : GS)
  /-- Sealing (R262, R263). -/
  | seal (o : GSS)
  /-- Sealing (R262, R263). -/
  | unseal (o : GSS)
  /-- Tenant scrub and key rotation (R264, R259). -/
  | scrub (o : GO)
  /-- Tenant scrub and key rotation (R264, R259). -/
  | keyrot (o : GO)
  /-- Key load (R258). -/
  | keyld (o : GSS)
  /-- Partition writes (R245). -/
  | pwquota (o : GSS)
  /-- Partition writes (R245). -/
  | pwpleat (o : GSS)
  /-- Partition writes (R245). -/
  | pwlap (o : GSS)
  /-- Partition writes (R245). -/
  | pwlease (o : GSS)
  /-- Partition writes (R245). -/
  | pwgran (o : GSS)
  /-- Partition writes (R245). -/
  | pwweight (o : GSS)
  /-- A table operation of runner r completes (R246, R224). -/
  | tableWriteComplete (r : Nat)
  /-- Unlanded result n of a slice of runner r lands (R56). -/
  | resultLands (r : Nat) (sl : Slice) (n : Nat)
  /-- Re-injected entry n of a slice of runner r lands (R363). -/
  | ifqReinjection (r : Nat) (sl : Slice) (n : Nat)
  /-- The WAIT of a slice of runner r expires (R137). -/
  | waitElapsed (r : Nat) (sl : Slice)
  /-- Pushes and pops of queue q of runner r due by now become visible to the other slice (R332). -/
  | queueEntryVisible (r : Nat) (q : QName)
  /-- The QDRAIN of runner r takes effect (R349). -/
  | qdrainTakesEffect (r : Nat)
  /-- The SAQ head of runner r is matched (R341). -/
  | storeMatch (r : Nat)
  /-- Runner r re-enters its leg (R371). -/
  | rewindReentry (r : Nat)
  /-- Runner r's not-present hold ends (R236). -/
  | notPresentHoldRelease (r : Nat)
  /-- Runner r acknowledges the clearing of P in extent x (R236). -/
  | extentAcknowledge (r x : Nat)
  /-- Squad q passes its exchange (R375). -/
  | exchangePass (q : Nat)
  /-- Squad q completes its BARS (R322). -/
  | barsComplete (q : Nat)
  /-- Runner r's strong access at the head of its path, or the one allowed to pass ahead, is performed (R305). -/
  | strongAccessPerform (r n : Nat)
  /-- A pending barrier arrival of runner r is performed or discarded (R326). -/
  | barrierArrival (r : Nat)
  /-- A data slot of channel ch serves its request (R291). -/
  | dataSlot (ch : Nat)
  /-- Data of request n arrives (R292). -/
  | dataArrival (n : Nat)
  /-- A lap boundary of channel ch (R421). -/
  | lapBoundary (ch : Nat)
  /-- A mending slot of channel ch (R421). -/
  | mendingSlot (ch : Nat)
  /-- Row (bank, row) of channel ch is precharged (R420). -/
  | rowPrecharge (ch bank row : Nat)
  /-- Owner o's key sweep completes (R259). -/
  | sweepComplete (o : Nat)
  /-- Stack k's data rate changes (R294). -/
  | dataRateChange (k : Nat)
  /-- Stack k's retraining ends (R294). -/
  | retrainingDone (k : Nat)
  /-- A Press command of runner r starts (R187). -/
  | pressCommandStart (r : Nat) (q : PressQ)
  /-- A K-block of runner r's matrix command commits (R197). -/
  | kBlockCommit (r : Nat)
  /-- A Press command of runner r completes (R188). -/
  | pressCommandComplete (r : Nat) (q : PressQ)
  /-- Runner r's Sprinter takes its head command (R271). -/
  | sprinterCommandStart (r : Nat)
  /-- A chunk of runner r's Sprinter commits (R467). -/
  | sprinterChunkCommit (r : Nat)
  /-- Runner r's Sprinter command completes (R271). -/
  | sprinterCommandComplete (r : Nat)
  /-- A collective of squad q with this member mask starts (R280). -/
  | collectiveStart (q : Nat) (mask : Word)
  /-- A step of squad q's collective with this member mask completes (R282). -/
  | collectiveStep (q : Nat) (mask : Word)
  /-- A patch copy of a slice of runner r completes (R239). -/
  | patchCopyComplete (r : Nat) (sl : Slice)
  /-- Runner r finishes (R144). -/
  | runnerFinish (r : Nat)
  /-- Queue n's interrupt timer expires (R417). -/
  | eventInterruptTimer (n : Nat)
  /-- An item of runner r acknowledges pre-emption (R378). -/
  | preemptAcknowledge (r : Nat) (it : AckItem)
  /-- Writing of runner r's context image finishes (R382). -/
  | contextSaveComplete (r : Nat)
  /-- Firmware finishes zeroing runner r (R265). -/
  | runnerRelease (r : Nat)
  /-- Firmware core d visits hardware queue slot k of its die (R391). -/
  | pollingSlot (d k : Nat)
  /-- Firmware core d advances its accepted long commands (R391). -/
  | backgroundStep (d : Nat)
  /-- Fault service of the WAIT of queue n times out (R399). -/
  | waitFaultTimeout (n : Nat)
  /-- A scheduling round of the Starter (R404). -/
  | schedulingRound
  /-- A fairness window begins (R402). -/
  | fairnessWindow
  /-- Lease entry i reaches its deadline (R256). -/
  | leaseDeadline (i : Nat)
  /-- Command NOP (R395). -/
  | nopPacket (p : Pkt)
  /-- Command LAUNCH (R400). -/
  | launch (p : Pkt)
  /-- Command WAIT (R398). -/
  | waitPacket (p : Pkt)
  /-- Command SIGNAL (R398). -/
  | signal (p : Pkt)
  /-- Command BARRIER_PKT (R398). -/
  | barrierPkt (p : Pkt)
  /-- Command MAP (R410). -/
  | map (p : Pkt)
  /-- Command UNMAP (R235). -/
  | unmap (p : Pkt)
  /-- Command MIGRATE (R410). -/
  | migrate (p : Pkt)
  /-- Command LEASE (R410). -/
  | lease (p : Pkt)
  /-- Command REVOKE (R410). -/
  | revoke (p : Pkt)
  /-- Command RESETQ (R408). -/
  | resetq (p : Pkt)
  /-- Command CTXSAVE (R413). -/
  | ctxsave (p : Pkt)
  /-- Command CTXLOAD (R413). -/
  | ctxload (p : Pkt)
  /-- Command WSETLOAD (R411). -/
  | wsetload (p : Pkt)
  /-- Command WSETSWITCH (R412). -/
  | wsetswitch (p : Pkt)
  /-- Command AUDITCFG (R425). -/
  | auditcfg (p : Pkt)
  /-- Command METERREAD (R424). -/
  | meterread (p : Pkt)
  /-- Command KEYWRAP (R415). -/
  | keywrap (p : Pkt)
  /-- Command QOPEN (R389). -/
  | qopen (p : Pkt)
  /-- Command QCLOSE (R409). -/
  | qclose (p : Pkt)
  /-- Command LEND (R407). -/
  | lend (p : Pkt)
  /-- Command PART (R396). -/
  | part (p : Pkt)
  /-- Command VFSTOP (R414). -/
  | vfstop (p : Pkt)
  /-- Command VFGO (R414). -/
  | vfgo (p : Pkt)
  /-- Command number n, which took time, completes (R397). -/
  | commandComplete (n : Nat)
  /-- A doorbell write of function f, queue q (R388). -/
  | doorbellWrite (f q : Nat) (v : BitVec 32)
  /-- CQCTL.EN of function f is written 1 (R435). -/
  | cqctlEnable (f : Nat)
  /-- CQCTL.EN of function f is written 0 (R435). -/
  | cqctlDisable (f : Nat)
  /-- PCAP is written (R435). -/
  | pcapWrite (v : Word)
  /-- HBMRATE is written (R449). -/
  | hbmrateWrite (v : Word)
  /-- The EINJ register at index k is written (R286). -/
  | einjWrite (k : Nat) (v : Word)
  /-- Another function register is written (R435): function, offset, bytes. -/
  | registerWrite (f off : Nat) (v : List Byte)
  /-- The monitors are sampled (R432). -/
  | monitorSample (m : Readings)
  /-- The power estimate has stayed above the cap (R432). -/
  | powerOverrun
  /-- Coolant flow is lost (R450). -/
  | flowLoss
  /-- Idle runner r is power-gated (R430). -/
  | runnerPowerGate (r : Nat)
  /-- Runner r's self-test finishes (R430). -/
  | selfTestComplete (r : Nat) (pass : Bool)
  /-- Audit runner k of die d takes a store entry (R428). -/
  | auditReplay (d k : Nat)
  /-- A replay on audit runner k of die d is compared (R428). -/
  | auditReplayComplete (d k : Nat)
  /-- Cold reset with these boot images (R439). -/
  | coldReset (b : BootImages)
  /-- The firmware cores are released (R450). -/
  | firmwareRelease (flowOk : Bool)
  /-- A PCI Express completion for request n (R434). -/
  | hostCompletion (n : Nat) (ok : Bool) (data : List Byte)
  /-- TDISP LOCK_INTERFACE (R437). -/
  | lockInterface (m : SpdmMsg)
  /-- TDISP START_INTERFACE (R437). -/
  | startInterface (m : SpdmMsg)
  /-- TDISP STOP_INTERFACE (R437). -/
  | stopInterface (m : SpdmMsg)
  /-- TDISP GET_DEVICE_INTERFACE_STATE (R437). -/
  | getDeviceInterfaceState (m : SpdmMsg)
  /-- TDISP GET_DEVICE_INTERFACE_REPORT (R437). -/
  | getDeviceInterfaceReport (m : SpdmMsg)
  /-- IDE key management (R438). -/
  | ideKeyManagement (k : IdeKm)
  /-- An IDE integrity failure of stream n (R438). -/
  | ideIntegrityFailure (n : Nat)
  /-- SPDM request (R442, R443). -/
  | getVersion (m : SpdmMsg)
  /-- SPDM request (R442, R443). -/
  | getCapabilities (m : SpdmMsg)
  /-- SPDM request (R442, R443). -/
  | negotiateAlgorithms (m : SpdmMsg)
  /-- SPDM request (R442, R443). -/
  | getDigests (m : SpdmMsg)
  /-- SPDM request (R442, R443). -/
  | getCertificate (m : SpdmMsg)
  /-- SPDM request (R442, R443). -/
  | challenge (m : SpdmMsg)
  /-- SPDM request (R442, R443). -/
  | getMeasurements (m : SpdmMsg)
  /-- SPDM request (R442, R443). -/
  | keyExchange (m : SpdmMsg)
  /-- SPDM request (R442, R443). -/
  | finish (m : SpdmMsg)
  /-- SPDM request (R442, R443). -/
  | keyUpdate (m : SpdmMsg)
  /-- SPDM request (R442, R443). -/
  | heartbeat (m : SpdmMsg)
  /-- SPDM request (R442, R443). -/
  | endSession (m : SpdmMsg)
  /-- SPDM request (R442, R443). -/
  | spdmUnsupportedRequest (m : SpdmMsg)
  /-- UALink port n trains with the module at its far end (R446). -/
  | portTrained (n : Nat) (peer : Nat)
  /-- UALink port n goes down (R445). -/
  | portDown (n : Nat)
  /-- Rigal step 1 message (R446). -/
  | rigalIdentity (m : RigalMsg)
  /-- Rigal step 2, encapsulation key (R446). -/
  | rigalEncapsulationKey (m : RigalMsg)
  /-- Rigal step 2, ciphertext (R446). -/
  | rigalCiphertext (m : RigalMsg)
  /-- Rigal step 3, transcript signature (R446). -/
  | rigalSignature (m : RigalMsg)
  /-- Rigal rekey (R446). -/
  | rigalRekey (m : RigalMsg)
  /-- A peer's lease request arrives at the lessor (R296). -/
  | leaseRequest (q : LeaseReq)
  /-- A far-tier reply for request n arrives at the lessee on a port, with the ciphertext and tags that its reads bring (R297). -/
  | leaseReply (m : LeaseRep) (ok : Bool)
  /-- A soft error strikes runner r (R370). -/
  | softError (r : Nat) (replayOk : Bool)
  /-- A peer module's notice about a lease (R255). -/
  | peerNotice (q : PeerNote)
  /-- Function f is enabled or disabled (R388). -/
  | functionEnable (f : Nat) (on : Bool)
  deriving DecidableEq, Repr

end Sys2Proof
end

