-- ==== Sys2Proof/WellFormed.lean ====
section
/-! DEFINITION. Which slot instructions have an encoding: the field rules of the opcode maps (R73-R81) and of
the operations' own entries. Events and commands carry no word; a packet command's fields are checked when the
packet is accepted (R393), so they are well formed here. -/

namespace Sys2Proof

/-- The signed integer types (R77). -/
def Fmt.isIS : Fmt → Bool
  | .s8 | .s16 | .s32 | .s64 => true
  | _ => false
/-- The unsigned integer types (R77). -/
def Fmt.isIZ : Fmt → Bool
  | .z8 | .z16 | .z32 | .z64 => true
  | _ => false
/-- The integer types (R77). -/
def Fmt.isI (f : Fmt) : Bool := f.isIS || f.isIZ
/-- The arithmetic floating types (R77). -/
def Fmt.isF : Fmt → Bool
  | .f64 | .f32 | .bf16 | .f16 => true
  | _ => false
/-- The narrow floating types a TY field can name (R77). -/
def Fmt.isF8 : Fmt → Bool
  | .e5m2 | .e4m3 | .e3m2 | .e2m3 => true
  | _ => false
/-- The types a four-bit TY field can name (R45). -/
def Fmt.isTy (f : Fmt) : Bool := f.isI || f.isF || f.isF8
/-- The block-scaled formats (R91). -/
def Fmt.isQ : Fmt → Bool
  | .qe5m2 | .qe4m3 | .qe3m2 | .qe2m3 | .qe2m1 | .qs8 => true
  | _ => false
/-- f32, bf16, f16: the unscaled side of VQNT and VDQNT (R171, R172). -/
def Fmt.isQSrc : Fmt → Bool
  | .f32 | .bf16 | .f16 => true
  | _ => false
/-- The formats of N-of-48 sparsity (R79, R173). -/
def Fmt.isSparse : Fmt → Bool
  | .bf16 | .f16 | .e5m2 | .e4m3 | .s8 => true
  | _ => false
/-- The operand formats of MMA and MMAC (R79). -/
def Fmt.isMma (f : Fmt) : Bool := f.isF || f.isF8 || f.isQ || f == .e2m1 || f == .s8

/-- The rounding modes VDQNT, VRED, VSCAN, ACDRAIN and ACSCALE accept (R95, R203, R204). -/
def Rm.notSr : Rm → Bool
  | .sr => false
  | _ => true
/-- The rounding modes VCVTEF accepts (R95). -/
def Rm.isEf : Rm → Bool
  | .rne | .rtz | .rna => true
  | _ => false

/-- A mode other than RNE only with F types (R77, R157). -/
def rmFits (ty : Fmt) (rm : Rm) : Bool := ty.isF || rm == .rne

/-- Elements per operation must be whole blocks of 32 (R171): f32 needs w1024, the 16-bit types w512 or more. -/
def quantWidth (ty : Fmt) (w : Width) : Bool :=
  match ty, w with
  | .f32, .w1024 | .bf16, .w512 | .bf16, .w1024 | .f16, .w512 | .f16, .w1024 => true
  | _, _ => false

/-- VPACKSP packs at least one group of 48 (R173). -/
def packWidth (ty : Fmt) (w : Width) : Bool :=
  match w with
  | .w1024 => true
  | .w512 => ty == .e5m2 || ty == .e4m3 || ty == .s8
  | .w256 => false

/-- The reductions and, or, xor need integer types; a mode other than RNE needs add on F types (R78, R174). -/
def redFits (op : RedOp) (ty : Fmt) (rm : Rm) : Bool :=
  match op with
  | .add => rmFits ty rm
  | .min | .max => rm == .rne
  | .and | .or | .xor => ty.isI && rm == .rne

/-- AG sizes of LDX, STX, LDST, STST (R80). -/
def Size.isSmall : Size → Bool
  | .z8 | .z16 | .z32 | .z64 => true
  | _ => false

/-- The system registers CSRR and CSRW reach (R121). -/
def sysOfC (n : BitVec 12) : Bool :=
  [0x000, 0x002, 0x004, 0x005, 0x006, 0x008, 0x009, 0x00C, 0x00D, 0x011, 0x012, 0x013,
    0x018, 0x019, 0x01A, 0x01B].contains n.toNat
/-- The system registers ACSRR and ACSRW reach (R121). -/
def sysOfA (n : BitVec 12) : Bool :=
  [0x001, 0x003, 0x004, 0x005, 0x007, 0x00A, 0x00B, 0x00E, 0x010, 0x011, 0x014, 0x015,
    0x018, 0x019, 0x01A, 0x01B].contains n.toNat

/-- A bit field lies inside 64 bits: pos + len ≤ 64 (R131). DEDUCED, log entry 62. -/
def RField.fits (o : RField) : Bool := o.pos.toNat + o.len1.toNat + 1 ≤ 64
/-- LIH names piece 0-5, and piece 5 has four bits (R131). DEDUCED, log entry 62. -/
def LihO.fits (o : LihO) : Bool := o.k.toNat < 5 || (o.k.toNat == 5 && o.imm.toNat < 16)

/-- The operand rules of every constructor. -/
def Instr.wellFormed : Instr → Bool
  | .extr o | .ins o => o.fits
  | .lih o => o.fits
  | .csrr o => sysOfC o.n
  | .csrw o => sysOfC o.n
  | .acsrr o => sysOfA o.n
  | .acsrw o => sysOfA o.n
  | .extrQ o => o.sel.toNat < 4
  | .shpr o => o.sel.toNat < 11
  | .tstate o => o.sel.toNat < 10
  | .keyq o => o.sel.toNat < 8
  | .vadd o | .vsub o => (o.ty.isI || o.ty.isF) && rmFits o.ty o.rm
  | .vaddsat o | .vsubsat o | .vmullo o => o.ty.isI && o.rm == .rne
  | .vmul o | .vdiv o => o.ty.isF
  | .vmulhi o | .vsar o => o.ty.isIS && o.rm == .rne
  | .vmulhiz o | .vshr o => o.ty.isIZ && o.rm == .rne
  | .vfma o | .vfms o | .vfnma o => o.ty.isF
  | .vmin o | .vmax o => (o.ty.isI || o.ty.isF) && o.rm == .rne
  | .vcopysign o => o.ty.isF && o.rm == .rne
  | .vavg o | .vand o | .vor o | .vxor o | .vshl o => o.ty.isI && o.rm == .rne
  | .vmov o => o.ty.isTy && o.rm == .rne
  | .vabs o | .vneg o => (o.ty.isIS || o.ty.isF) && o.rm == .rne
  | .vnot o | .vpopc o | .vclz o => o.ty.isI && o.rm == .rne
  | .vsqrt o => o.ty.isF
  | .vmovFromLdq0 o | .vmovFromLdq1 o => o.ty.isTy
  | .vexp2 o | .vlog2 o | .vrcp o | .vrsq o | .vsin o | .vcos o | .vtanh o =>
      (o.ty == .f32 || o.ty == .f16) && o.rm == .rne
  | .vcmp o | .vcmpm o => o.ty.isF || (o.ty.isI && o.cc != .uno && o.cc != .ord)
  | .vsel o => o.ty.isTy && o.rm == .rne
  | .vcvt o => o.ty.isTy && !o.fmt.isQ
  | .vcvtef o => o.ty.isF && (o.fmt.isF || o.fmt.isF8) && o.rm.isEf
  | .vqnt o => o.ty.isQSrc && o.fmt.isQ && quantWidth o.ty o.w
  | .vdqnt o => o.ty.isQSrc && o.fmt.isQ && quantWidth o.ty o.w && o.rm.notSr
  | .vpacksp o => o.ty.isSparse && packWidth o.ty o.w
  | .vred o | .vscan o => (o.ty.isI || o.ty.isF) && redFits o.op o.ty o.rm && o.rm.notSr && o.t == o.d
  | .vredr o => (o.ty.isI || o.ty.isF) && redFits o.op o.ty .rne && o.rm == .rne
  | .vperm o | .vshuf o | .vbcast o | .vext o | .vins o | .vrot o | .vcompress o | .vexpand o | .vzip o
  | .vunzip o => o.ty.isTy
  | .vli o => o.ty.isI || o.ty.isF
  | .mma o => o.fmt.isMma
  | .mmasp o => o.fmt.isSparse
  | .mmac o => o.fmt.isMma
  | .acload o => o.rm == .rne
  | .acdrain o | .acscale o => o.rm.notSr
  | .acstain o | .acclean o => !o.all || o.row == 0
  | .ldst o => o.size.isSmall
  | .ldx o => o.size.isSmall
  | .stst o => o.size.isSmall
  | .stx o => o.size.isSmall
  | .amoVector o => o.op != .cas
  | .lds o => o.ord == .rlx || o.ord == .acq || o.ord == .sc
  | .sts o => o.ord == .rlx || o.ord == .rel || o.ord == .sc
  | .fence o => o.ord != .rlx
  | _ => true

end Sys2Proof
end

