-- ==== Sys2Proof/Decode.lean ====
section
/-! DEFINITION. Decoding of slots and bundles (R37-R50, R72-R81), total on any bits, rejecting by the reason of
R353; then the encoder, from the same encoding tables. One word means different operations in different slot
classes and streams (R38), so a slot is decoded for its stream and position. -/

namespace Sys2Proof

/-- Why an encoding is not an instruction: the DETAIL reasons of ILLEGAL_BUNDLE (R353). -/
inductive Illegal
  | major | minor | mark | delay | width | format | ext | unused | other
  deriving DecidableEq, Repr

/-- The reason code recorded in DETAIL[3:0] (R353). -/
def Illegal.code : Illegal → Nat
  | .major => 1 | .minor => 2 | .mark => 3 | .delay => 4 | .width => 5 | .format => 6 | .ext => 7
  | .unused => 8 | .other => 10

/-! Codes of the named fields. -/

/-- The five-bit format code (R46). -/
def Fmt.code : Fmt → Nat
  | .s8 => 0 | .s16 => 1 | .s32 => 2 | .s64 => 3 | .z8 => 4 | .z16 => 5 | .z32 => 6 | .z64 => 7
  | .f64 => 8 | .f32 => 9 | .bf16 => 10 | .f16 => 11 | .e5m2 => 12 | .e4m3 => 13 | .e3m2 => 14
  | .e2m3 => 15 | .e2m1 => 16 | .qe5m2 => 17 | .qe4m3 => 18 | .qe3m2 => 19 | .qe2m3 => 20
  | .qe2m1 => 21 | .qs8 => 22
/-- The format a code names; 0b10111-0b11111 are reserved (R46). -/
def Fmt.ofCode : Nat → Option Fmt
  | 0 => some .s8 | 1 => some .s16 | 2 => some .s32 | 3 => some .s64 | 4 => some .z8 | 5 => some .z16
  | 6 => some .z32 | 7 => some .z64 | 8 => some .f64 | 9 => some .f32 | 10 => some .bf16
  | 11 => some .f16 | 12 => some .e5m2 | 13 => some .e4m3 | 14 => some .e3m2 | 15 => some .e2m3
  | 16 => some .e2m1 | 17 => some .qe5m2 | 18 => some .qe4m3 | 19 => some .qe3m2 | 20 => some .qe2m3
  | 21 => some .qe2m1 | 22 => some .qs8 | _ => none
/-- The W field (R45). -/
def Width.code : Width → Nat
  | .w256 => 0 | .w512 => 1 | .w1024 => 2
def Width.ofCode : Nat → Option Width
  | 0 => some .w256 | 1 => some .w512 | 2 => some .w1024 | _ => none
/-- The RM field (R50). -/
def Rm.code : Rm → Nat
  | .rne => 0 | .rtz => 1 | .rup => 2 | .rdn => 3 | .rna => 4 | .sr => 5
def Rm.ofCode : Nat → Option Rm
  | 0 => some .rne | 1 => some .rtz | 2 => some .rup | 3 => some .rdn | 4 => some .rna | 5 => some .sr
  | _ => none
/-- The scalar condition field (R75). -/
def Cc.code : Cc → Nat
  | .eq => 0 | .ne => 1 | .ltS => 2 | .leS => 3 | .gtS => 4 | .geS => 5 | .ltZ => 6 | .leZ => 7
  | .gtZ => 8 | .geZ => 9
def Cc.ofCode : Nat → Option Cc
  | 0 => some .eq | 1 => some .ne | 2 => some .ltS | 3 => some .leS | 4 => some .gtS | 5 => some .geS
  | 6 => some .ltZ | 7 => some .leZ | 8 => some .gtZ | 9 => some .geZ | _ => none
/-- The branch condition field (R75). -/
def Bc.code : Bc → Nat
  | .eqz => 0 | .nez => 1 | .ltz => 2 | .gez => 3 | .gtz => 4 | .lez => 5
def Bc.ofCode : Nat → Option Bc
  | 0 => some .eqz | 1 => some .nez | 2 => some .ltz | 3 => some .gez | 4 => some .gtz | 5 => some .lez
  | _ => none
/-- The vector condition code (R78). -/
def VCc.code : VCc → Nat
  | .eq => 0 | .ne => 1 | .lt => 2 | .le => 3 | .gt => 4 | .ge => 5 | .uno => 6 | .ord => 7
def VCc.ofCode : Nat → Option VCc
  | 0 => some .eq | 1 => some .ne | 2 => some .lt | 3 => some .le | 4 => some .gt | 5 => some .ge
  | 6 => some .uno | 7 => some .ord | _ => none
/-- The reduction op code S2[2:0] (R78). -/
def RedOp.code : RedOp → Nat
  | .add => 0 | .min => 1 | .max => 2 | .and => 3 | .or => 4 | .xor => 5
def RedOp.ofCode : Nat → Option RedOp
  | 0 => some .add | 1 => some .min | 2 => some .max | 3 => some .and | 4 => some .or | 5 => some .xor
  | _ => none
/-- The N code (R79). -/
def NCode.code : NCode → Nat
  | .n12 => 0 | .n16 => 1 | .n24 => 2
def NCode.ofCode : Nat → Option NCode
  | 0 => some .n12 | 1 => some .n16 | 2 => some .n24 | _ => none
/-- The AG size code (R80). -/
def Size.code : Size → Nat
  | .z8 => 0 | .z16 => 1 | .z32 => 2 | .z64 => 3 | .w256 => 4 | .w512 => 5 | .w1024 => 6
def Size.ofCode : Nat → Option Size
  | 0 => some .z8 | 1 => some .z16 | 2 => some .z32 | 3 => some .z64 | 4 => some .w256 | 5 => some .w512
  | 6 => some .w1024 | _ => none
/-- The scope code (R81, R306). -/
def Scope.code : Scope → Nat
  | .run => 0 | .sqd => 1 | .die => 2 | .pkg => 3 | .sys => 4
def Scope.ofCode : Nat → Option Scope
  | 0 => some .run | 1 => some .sqd | 2 => some .die | 3 => some .pkg | 4 => some .sys | _ => none
/-- The order code (R81, R307). -/
def Ord.code : Ord → Nat
  | .rlx => 0 | .acq => 1 | .rel => 2 | .ar => 3 | .sc => 4
def Ord.ofCode : Nat → Option Ord
  | 0 => some .rlx | 1 => some .acq | 2 => some .rel | 3 => some .ar | 4 => some .sc | _ => none
/-- The AMO op code (R81). -/
def AmoOp.code : AmoOp → Nat
  | .add => 0 | .and => 1 | .or => 2 | .xor => 3 | .min => 4 | .max => 5 | .minz => 6 | .maxz => 7
  | .swp => 8 | .cas => 9
def AmoOp.ofCode : Nat → Option AmoOp
  | 0 => some .add | 1 => some .and | 2 => some .or | 3 => some .xor | 4 => some .min | 5 => some .max
  | 6 => some .minz | 7 => some .maxz | 8 => some .swp | 9 => some .cas | _ => none
/-- The collective reduction code (R279). -/
def Red.code : Red → Nat
  | .add => 0 | .min => 1 | .max => 2
def Red.ofCode : Nat → Option Red
  | 0 => some .add | 1 => some .min | 2 => some .max | _ => none
/-- The file field of CHK (R74). -/
def ChkFile.code : ChkFile → Nat
  | .g => 0 | .va => 1 | .vb => 2
def ChkFile.ofCode : Nat → Option ChkFile
  | 0 => some .g | 1 => some .va | 2 => some .vb | _ => none
/-- The queue code (R76). -/
def QName.code : QName → Nat
  | .laq => 0 | .ldq0 => 1 | .ldq1 => 2 | .saq => 3 | .sdq => 4 | .ixq => 5 | .caq => 6 | .acq => 7
def QName.ofCode : Nat → Option QName
  | 0 => some .laq | 1 => some .ldq0 | 2 => some .ldq1 | 3 => some .saq | 4 => some .sdq | 5 => some .ixq
  | 6 => some .caq | 7 => some .acq | _ => none

/-! Fields of a slot (R41). -/

def fOp (w : SlotWord) : Nat := (w.extractLsb' 27 5).toNat
def fGuard (w : SlotWord) : Guard := ⟨w.getLsbD 26, w.extractLsb' 22 4⟩
def fD (w : SlotWord) : RegIx := w.extractLsb' 17 5
def fS1 (w : SlotWord) : RegIx := w.extractLsb' 12 5
def fS2 (w : SlotWord) : RegIx := w.extractLsb' 7 5
def fF7 (w : SlotWord) : BitVec 7 := w.extractLsb' 0 7
def fImm (w : SlotWord) : BitVec 12 := w.extractLsb' 0 12
/-- Bits [hi:lo] as a number. -/
def fBits (w : SlotWord) (hi lo : Nat) : Nat := (w.extractLsb' lo (hi - lo + 1)).toNat

/-- Goes on when the condition holds, and rejects with the reason when it does not. -/
def need {α : Type} (b : Bool) (r : Illegal) (k : Except Illegal α) : Except Illegal α :=
  if b then k else .error r
/-- Goes on with a decoded field, and rejects with the reason when the code is unassigned. -/
def needSome {α β : Type} (x : Option α) (r : Illegal) (k : α → Except Illegal β) : Except Illegal β :=
  match x with
  | some a => k a
  | none => .error r

/-- A slot whose opcode takes no extension byte (R50). -/
def noExt {α : Type} (ext : Option (BitVec 8)) (k : Except Illegal α) : Except Illegal α :=
  need (ext.getD 0 == 0) .ext k
/-- The RM reading (R50); `ok` is the set of modes the opcode accepts. -/
def extRm {α : Type} (ext : Option (BitVec 8)) (ok : Rm → Bool) (k : Rm → Except Illegal α) :
    Except Illegal α :=
  need ((ext.getD 0).extractLsb' 3 5 == 0) .ext
    (needSome (Rm.ofCode ((ext.getD 0).extractLsb' 0 3).toNat) .ext fun rm => need (ok rm) .ext (k rm))
/-- The S3+RM reading: without a header the third register is the one numbered D and RM is RNE (R50). -/
def extS3Rm {α : Type} (ext : Option (BitVec 8)) (d : RegIx) (ok : Rm → Bool)
    (k : RegIx → Rm → Except Illegal α) : Except Illegal α :=
  match ext with
  | none => need (ok .rne) .ext (k d .rne)
  | some b => needSome (Rm.ofCode (b.extractLsb' 0 3).toNat) .ext fun rm =>
      need (ok rm) .ext (k (b.extractLsb' 3 5) rm)

def anyRm (_ : Rm) : Bool := true
def onlyRne (rm : Rm) : Bool := rm == .rne

/-- Bits [hi:lo] must be zero (R73). -/
def zeroBits {α : Type} (w : SlotWord) (hi lo : Nat) (k : Except Illegal α) : Except Illegal α :=
  need (fBits w hi lo == 0) .unused k

/-- NOP in any class and position (R42). -/
def decodeNop (sl : Slice) (pos : BitVec 2) (ext : Option (BitVec 8)) (w : SlotWord) :
    Except Illegal Instr :=
  zeroBits w 21 0 (noExt ext (.ok (.nop ⟨sl, pos, fGuard w⟩)))

/-- The operations X and AC share (R74, R76): `none` where the map of the stream decides. DEDUCED, log entry 62. -/
def decodeShared (sl : Slice) (w : SlotWord) : Option (Except Illegal Instr) :=
  let g := fGuard w
  let d := fD w
  let s1 := fS1 w
  let s2 := fS2 w
  let r3 : R3 := ⟨sl, g, d, s1, s2⟩
  let r2 : R2 := ⟨sl, g, d, s1⟩
  let ri : RI := ⟨sl, g, d, s1, fImm w⟩
  let rf : RField := ⟨sl, g, d, s1, w.extractLsb' 6 6, w.extractLsb' 0 6⟩
  let br : BrO := ⟨sl, g, w.extractLsb' 0 20⟩
  match fOp w with
  | 1 => some <| match (fF7 w).toNat with
    | 0 => .ok (.add r3) | 1 => .ok (.sub r3) | 2 => .ok (.and r3) | 3 => .ok (.or r3)
    | 4 => .ok (.xor r3) | 5 => .ok (.shl r3) | 6 => .ok (.shr r3) | 7 => .ok (.sar r3)
    | 8 => .ok (.rol r3) | 9 => .ok (.min r3) | 10 => .ok (.max r3) | 11 => .ok (.minz r3)
    | 12 => .ok (.maxz r3) | _ => .error .minor
  | 2 => some <| match (fF7 w).toNat with
    | 0 => .ok (.mul r3) | 1 => .ok (.mulh r3) | 2 => .ok (.mulhz r3) | 3 => .ok (.div r3)
    | 4 => .ok (.divz r3) | 5 => .ok (.rem r3) | 6 => .ok (.remz r3) | _ => .error .minor
  | 4 => some (.ok (.addi ri))
  | 5 => some (.ok (.andi ri))
  | 6 => some (.ok (.ori ri))
  | 7 => some (.ok (.xori ri))
  | 8 => some <| need (fBits w 9 6 == 0) .other <|
    let o : RSh := ⟨sl, g, d, s1, w.extractLsb' 0 6⟩
    match fBits w 11 10 with
    | 0 => .ok (.shli o) | 1 => .ok (.shri o) | 2 => .ok (.sari o) | _ => .error .minor
  | 9 => some (need rf.fits .other (.ok (.extr rf)))
  | 10 => some (need rf.fits .other (.ok (.ins rf)))
  | 11 => some (zeroBits w 16 12 (.ok (.li ⟨sl, g, d, fImm w⟩)))
  | 12 => some <| let o : LihO := ⟨sl, g, d, s1, fImm w⟩
    need (decide (s1.toNat < 6)) .minor (need o.fits .other (.ok (.lih o)))
  | 13 => some (zeroBits w 6 4 (.ok (.sel ⟨sl, g, d, s1, s2, w.extractLsb' 0 4⟩)))
  | 14 => some (needSome (Cc.ofCode (fBits w 6 3)) .minor fun cc =>
      zeroBits w 1 0 (.ok (.cmp ⟨sl, g, d, s1, s2, cc, w.getLsbD 2⟩)))
  | 15 => some (needSome (Cc.ofCode (fBits w 11 8)) .minor fun cc =>
      .ok (.cmpi ⟨sl, g, d, s1, cc, w.extractLsb' 0 8⟩))
  | 16 => some <| match (fF7 w).toNat with
    | 0 => .ok (.pand r3) | 1 => .ok (.por r3) | 2 => .ok (.pxor r3)
    | 3 => zeroBits w 11 7 (.ok (.pnot r2)) | 4 => zeroBits w 11 7 (.ok (.pmov r2))
    | _ => .error .minor
  | 17 => some (zeroBits w 21 20 (.ok (.br br)))
  | 18 => some (zeroBits w 21 20 (.ok (.call br)))
  | 19 => some (zeroBits w 21 20 (.ok (.loopb br)))
  | 20 => some (needSome (Bc.ofCode (fBits w 19 17)) .minor fun c =>
      zeroBits w 21 20 (.ok (.brc ⟨sl, g, c, s1, fImm w⟩)))
  | 21 => some <| match (fF7 w).toNat with
    | 0 => zeroBits w 21 17 (zeroBits w 11 7 (.ok (.brr ⟨sl, g, s1⟩)))
    | 1 => zeroBits w 11 7 (.ok (.callr r2))
    | 2 => zeroBits w 21 17 (zeroBits w 11 7 (.ok (.ret ⟨sl, g, s1⟩)))
    | _ => .error .minor
  | 23 => some (zeroBits w 21 17 (need (fBits w 11 3 == 0) .other
      (.ok (.loopset ⟨sl, g, s1, w.extractLsb' 0 3⟩))))
  | 24 => some (zeroBits w 21 12 (.ok (.wait ⟨sl, g, fImm w⟩)))
  | _ => none

/-- Major 3 of X and AC (R130, R333): the two pop forms only in X. -/
def decodeUnary (sl : Slice) (w : SlotWord) : Except Illegal Instr :=
  let o : R2 := ⟨sl, fGuard w, fD w, fS1 w⟩
  match (fF7 w).toNat with
  | 0 => zeroBits w 11 7 (.ok (.mov o)) | 1 => zeroBits w 11 7 (.ok (.not o))
  | 2 => zeroBits w 11 7 (.ok (.clz o)) | 3 => zeroBits w 11 7 (.ok (.ctz o))
  | 4 => zeroBits w 11 7 (.ok (.popc o)) | 5 => zeroBits w 11 7 (.ok (.bswap o))
  | 6 => match sl with
    | .c => zeroBits w 16 7 (.ok (.movFromLdq0 ⟨fGuard w, fD w⟩))
    | .a => .error .minor
  | 7 => match sl with
    | .c => zeroBits w 16 7 (.ok (.movFromLdq1 ⟨fGuard w, fD w⟩))
    | .a => .error .minor
  | _ => .error .minor

/-- Cross-file copies of X major 25 (R75, R138). -/
def decodeCopies (w : SlotWord) : Except Illegal Instr :=
  let g := fGuard w
  let c : CopyO := ⟨g, fD w, fS1 w, w.extractLsb' 0 4⟩
  let o : GDS := ⟨g, fD w, fS1 w⟩
  zeroBits w 11 7 <| match fBits w 6 4 with
  | 0 => .ok (.xtovVa c) | 1 => .ok (.xtovVb c) | 2 => .ok (.vtoxVa c) | 3 => .ok (.vtoxVb c)
  | 4 => zeroBits w 3 0 (.ok (.vatovb o)) | 5 => zeroBits w 3 0 (.ok (.vbtova o))
  | 6 => zeroBits w 3 0 (.ok (.xtoa o)) | _ => .error .minor

/-- The X slot (R74); major 31 is the header, handled by `decodeHeader`. -/
def decodeX (w : SlotWord) : Except Illegal Instr :=
  let g := fGuard w
  match decodeShared .c w with
  | some r => r
  | none => match fOp w with
    | 0 => decodeNop .c 0 none w
    | 3 => decodeUnary .c w
    | 22 => needSome (ChkFile.ofCode (fBits w 18 17)) .minor fun f =>
        zeroBits w 21 19 (.ok (.chk ⟨g, f, fS1 w, fImm w⟩))
    | 25 => decodeCopies w
    | 26 => need (sysOfC (fImm w)) .minor (zeroBits w 16 12 (.ok (.csrr ⟨g, fD w, fImm w⟩)))
    | 27 => need (sysOfC (fImm w)) .minor (zeroBits w 21 17 (.ok (.csrw ⟨g, fS1 w, fImm w⟩)))
    | 28 => zeroBits w 21 17 <| zeroBits w 11 7 <| match (fF7 w).toNat with
      | 1 => .ok (.trap ⟨.c, g, fS1 w⟩)
      | 2 => zeroBits w 16 12 (.ok (.rft ⟨.c, g⟩)) | 3 => zeroBits w 16 12 (.ok (.done ⟨.c, g⟩))
      | 4 => zeroBits w 16 12 (.ok (.halt ⟨.c, g⟩)) | 5 => zeroBits w 16 12 (.ok (.rwnd ⟨g⟩))
      | 6 => zeroBits w 16 12 (.ok (.preemptAck ⟨g⟩)) | _ => .error .minor
    | 29 => match fBits w 11 0 with
      | 0 => zeroBits w 21 17 (.ok (.pushc ⟨g, fS1 w⟩))
      | 1 => zeroBits w 16 12 (.ok (.popa ⟨g, fD w⟩))
      | _ => if (fF7 w).toNat < 2 then .error .unused else .error .minor
    | _ => .error .major

/-- The AC slot (R76). -/
def decodeAC (w : SlotWord) : Except Illegal Instr :=
  let g := fGuard w
  match decodeShared .a w with
  | some r => r
  | none => match fOp w with
    | 0 => decodeNop .a 0 none w
    | 3 => decodeUnary .a w
    | 22 => needSome (Bc.ofCode (fBits w 19 17)) .minor fun c =>
        zeroBits w 21 20 (zeroBits w 16 12 (.ok (.brq ⟨g, c, fImm w⟩)))
    | 25 => zeroBits w 11 0 (.ok (.atox ⟨g, fD w, fS1 w⟩))
    | 26 => need (sysOfA (fImm w)) .minor (zeroBits w 16 12 (.ok (.acsrr ⟨g, fD w, fImm w⟩)))
    | 27 => need (sysOfA (fImm w)) .minor (zeroBits w 21 17 (.ok (.acsrw ⟨g, fS1 w, fImm w⟩)))
    | 28 => zeroBits w 21 17 <| zeroBits w 11 7 <| match (fF7 w).toNat with
      | 1 => .ok (.trap ⟨.a, g, fS1 w⟩)
      | 2 => zeroBits w 16 12 (.ok (.rft ⟨.a, g⟩)) | 3 => zeroBits w 16 12 (.ok (.done ⟨.a, g⟩))
      | 4 => zeroBits w 16 12 (.ok (.halt ⟨.a, g⟩)) | _ => .error .minor
    | 29 => zeroBits w 11 7 <| match (fF7 w).toNat with
      | 0 => zeroBits w 21 17 (.ok (.qpush ⟨g, fS1 w⟩))
      | 1 => zeroBits w 21 17 (match (fS1 w).toNat with
        | 1 => .ok (.qdrain ⟨g, false⟩) | 2 => .ok (.qdrain ⟨g, true⟩) | _ => .error .minor)
      | 2 => needSome (QName.ofCode (fS1 w).toNat) .minor fun q => .ok (.qstat ⟨g, fD w, q⟩)
      | _ => .error .minor
    | 30 =>
      let o : QueryO := ⟨g, fD w, fS1 w, w.extractLsb' 0 4⟩
      zeroBits w 11 7 <| match fBits w 6 4 with
      | 0 => need (decide (o.sel.toNat < 4)) .minor (.ok (.extrQ o))
      | 1 => need (decide (o.sel.toNat < 11)) .minor (.ok (.shpr o))
      | 2 => need (decide (o.sel.toNat < 10)) .minor (.ok (.tstate o))
      | 3 => need (decide (o.sel.toNat < 8)) .minor (.ok (.keyq o))
      | _ => .error .minor
    | _ => .error .major

/-- The SAT bit of F7 (R45). -/
def fSat (w : SlotWord) : Bool := w.getLsbD 0
/-- Rejects SAT = 1 where the opcode has no saturating form (R45). -/
def noSat {α : Type} (w : SlotWord) (k : Except Illegal α) : Except Illegal α := need (!fSat w) .minor k
/-- F7 must be 0x40: W = 10, TY = 0000 (R160). -/
def stainF7 {α : Type} (w : SlotWord) (k : Except Illegal α) : Except Illegal α :=
  need (fF7 w == 0x40) .minor k

/-- Major 17, the unary group (R78, R160). -/
def decodeVUnary (v : VPos) (ext : Option (BitVec 8)) (w : SlotWord) (wd : Width) (ty : Fmt) :
    Except Illegal Instr :=
  let g := fGuard w
  let d := fD w
  let s1 := fS1 w
  let o : V2 := ⟨v, g, d, s1, wd, ty, .rne⟩
  match (fS2 w).toNat with
  | 0 => noSat w (noExt ext (.ok (.vmov o)))
  | 1 => need (ty.isIS || ty.isF) .format (noSat w (noExt ext (.ok (.vabs o))))
  | 2 => need (ty.isIS || ty.isF) .format (noSat w (noExt ext (.ok (.vneg o))))
  | 3 => need ty.isI .format (noSat w (noExt ext (.ok (.vnot o))))
  | 4 => need ty.isI .format (noSat w (noExt ext (.ok (.vpopc o))))
  | 5 => need ty.isI .format (noSat w (noExt ext (.ok (.vclz o))))
  | 6 => need ty.isF .format (noSat w (extRm ext anyRm fun rm => .ok (.vsqrt ⟨v, g, d, s1, wd, ty, rm⟩)))
  | 7 => stainF7 w (noExt ext (.ok (.vstain ⟨v, g, d, s1⟩)))
  | 8 => stainF7 w (noExt ext (.ok (.vclean ⟨v, g, d, s1⟩)))
  | 9 => stainF7 w (noExt ext (.ok (.vstst ⟨v, g, d, s1⟩)))
  | 10 => stainF7 w (zeroBits w 16 12 (noExt ext (.ok (.vseedr ⟨v, g, d⟩))))
  | 11 => stainF7 w (zeroBits w 21 17 (noExt ext (.ok (.vseedw ⟨v, g, s1⟩))))
  | 12 => stainF7 w (zeroBits w 21 17 (noExt ext (.ok (.vpushSdq ⟨v, g, s1⟩))))
  | 13 => stainF7 w (zeroBits w 21 17 (noExt ext (.ok (.vpushIxq ⟨v, g, s1⟩))))
  | 14 => noSat w (zeroBits w 16 12 (noExt ext (.ok (.vmovFromLdq0 ⟨v, g, d, wd, ty⟩))))
  | 15 => noSat w (zeroBits w 16 12 (noExt ext (.ok (.vmovFromLdq1 ⟨v, g, d, wd, ty⟩))))
  | _ => .error .minor

/-- Major 18, the special functions (R164). -/
def decodeVSpecial (v : VPos) (ext : Option (BitVec 8)) (w : SlotWord) (wd : Width) (ty : Fmt) :
    Except Illegal Instr :=
  let o : V2 := ⟨v, fGuard w, fD w, fS1 w, wd, ty, .rne⟩
  let chk (i : Instr) : Except Illegal Instr :=
    need (ty == .f32 || ty == .f16) .format (noSat w (noExt ext (.ok i)))
  match (fS2 w).toNat with
  | 0 => chk (.vexp2 o) | 1 => chk (.vlog2 o) | 2 => chk (.vrcp o) | 3 => chk (.vrsq o)
  | 4 => chk (.vsin o) | 5 => chk (.vcos o) | 6 => chk (.vtanh o) | _ => .error .minor

/-- Major 28, the permutations (R176). -/
def decodeVPerm (v : VPos) (ext : Option (BitVec 8)) (w : SlotWord) (wd : Width) (ty : Fmt) :
    Except Illegal Instr :=
  let chk (f : VPermO → Instr) : Except Illegal Instr :=
    noSat w (extS3Rm ext (fD w) onlyRne fun t _ => .ok (f ⟨v, fGuard w, fD w, fS1 w, t, wd, ty⟩))
  match (fS2 w).toNat with
  | 0 => chk .vperm | 1 => chk .vshuf | 2 => chk .vbcast | 3 => chk .vext | 4 => chk .vins
  | 5 => chk .vrot | 6 => chk .vcompress | 7 => chk .vexpand | 8 => chk .vzip | 9 => chk .vunzip
  | _ => .error .minor

/-- Major 27, reductions and scans (R78, R174, R175). -/
def decodeVRed (v : VPos) (ext : Option (BitVec 8)) (w : SlotWord) (wd : Width) (ty : Fmt) :
    Except Illegal Instr :=
  let g := fGuard w
  let d := fD w
  let s1 := fS1 w
  needSome (RedOp.ofCode (fBits w 9 7)) .minor fun op =>
    let okTy := (ty.isI || ty.isF) && (redFits op ty .rne)
    match fBits w 11 10 with
    | 0 => need okTy .format (noSat w (extRm ext (fun rm => rm.notSr && redFits op ty rm) fun rm =>
        .ok (.vred ⟨v, g, d, s1, d, op, wd, ty, rm⟩)))
    | 1 => need okTy .format (noSat w (extRm ext (fun rm => rm.notSr && redFits op ty rm) fun rm =>
        .ok (.vscan ⟨v, g, d, s1, d, op, wd, ty, rm⟩)))
    | 2 => need okTy .format (noSat w (extS3Rm ext d onlyRne fun t _ =>
        .ok (.vredr ⟨v, g, d, s1, t, op, wd, ty, .rne⟩)))
    | _ => .error .minor

/-- The VA and VB slots (R77). DESIGN CHOICE, log entry 77. -/
def decodeV (v : VPos) (ext : Option (BitVec 8)) (w : SlotWord) : Except Illegal Instr :=
  let g := fGuard w
  let d := fD w
  let s1 := fS1 w
  let s2 := fS2 w
  let pos : BitVec 2 := match v with
    | .va => 1
    | .vb => 2
  let major := fOp w
  if major = 0 then decodeNop .c pos ext w
  else if major ≥ 30 then .error .major
  else needSome (Width.ofCode (fBits w 6 5)) .width fun wd =>
    needSome (Fmt.ofCode (fBits w 4 1)) .format fun ty =>
    let plain (ok : Bool) (f : V3 → Instr) : Except Illegal Instr :=
      need ok .format (noSat w (noExt ext (.ok (f ⟨v, g, d, s1, s2, wd, ty, .rne⟩))))
    let fma (f : V4 → Instr) : Except Illegal Instr :=
      need ty.isF .format (noSat w (extS3Rm ext d anyRm fun t rm => .ok (f ⟨v, g, d, s1, s2, t, wd, ty, rm⟩)))
    let addSub (f fs : V3 → Instr) : Except Illegal Instr :=
      need (ty.isI || ty.isF) .format <|
        if fSat w then need ty.isI .minor (extRm ext onlyRne fun rm => .ok (fs ⟨v, g, d, s1, s2, wd, ty, rm⟩))
        else extRm ext (rmFits ty) fun rm => .ok (f ⟨v, g, d, s1, s2, wd, ty, rm⟩)
    let cmp (f : VCmpO → Instr) : Except Illegal Instr :=
      needSome (VCc.ofCode s2.toNat) .minor fun cc =>
        need (ty.isF || (ty.isI && cc != .uno && cc != .ord)) .format
          (noSat w (extS3Rm ext d onlyRne fun t _ => .ok (f ⟨v, g, d, s1, t, cc, wd, ty⟩)))
    match major with
    | 1 => addSub .vadd .vaddsat
    | 2 => addSub .vsub .vsubsat
    | 3 => need (ty.isI || ty.isF) .format (noSat w (extRm ext (rmFits ty) fun rm =>
        let o : V3 := ⟨v, g, d, s1, s2, wd, ty, rm⟩
        .ok (if ty.isF then .vmul o else .vmullo o)))
    | 4 => if ty.isIS then plain true .vmulhi else plain ty.isIZ .vmulhiz
    | 5 => fma .vfma
    | 6 => fma .vfms
    | 7 => fma .vfnma
    | 8 => need ty.isF .format (noSat w (extRm ext anyRm fun rm => .ok (.vdiv ⟨v, g, d, s1, s2, wd, ty, rm⟩)))
    | 9 => plain (ty.isI || ty.isF) .vmin
    | 10 => plain (ty.isI || ty.isF) .vmax
    | 11 => if ty.isF then plain true .vcopysign else plain ty.isI .vavg
    | 12 => plain ty.isI .vand
    | 13 => plain ty.isI .vor
    | 14 => plain ty.isI .vxor
    | 15 => plain ty.isI .vshl
    | 16 => if ty.isIZ then plain true .vshr else plain ty.isIS .vsar
    | 17 => decodeVUnary v ext w wd ty
    | 18 => decodeVSpecial v ext w wd ty
    | 19 => cmp .vcmp
    | 20 => cmp .vcmpm
    | 21 => noSat w (extS3Rm ext d onlyRne fun t rm => .ok (.vsel ⟨v, g, d, s1, s2, t, wd, ty, rm⟩))
    | 22 => needSome (Fmt.ofCode s2.toNat) .format fun f => need (!f.isQ) .format
        (extRm ext anyRm fun rm => .ok (.vcvt ⟨v, g, d, s1, f, wd, ty, fSat w, rm⟩))
    | 23 => needSome (Fmt.ofCode s2.toNat) .format fun f => need (ty.isF && (f.isF || f.isF8)) .format
        (noSat w (extS3Rm ext d Rm.isEf fun t rm => .ok (.vcvtef ⟨v, g, d, s1, t, f, wd, ty, rm⟩)))
    | 24 => needSome (Fmt.ofCode s2.toNat) .format fun f => need (ty.isQSrc && f.isQ) .format
        (need (quantWidth ty wd) .width
          (noSat w (extS3Rm ext d anyRm fun t rm => .ok (.vqnt ⟨v, g, d, s1, t, f, wd, ty, rm⟩))))
    | 25 => needSome (Fmt.ofCode s2.toNat) .format fun f => need (ty.isQSrc && f.isQ) .format
        (need (quantWidth ty wd) .width
          (noSat w (extS3Rm ext d Rm.notSr fun t rm => .ok (.vdqnt ⟨v, g, d, s1, t, f, wd, ty, rm⟩))))
    | 26 => needSome (NCode.ofCode s2.toNat) .minor fun n => need ty.isSparse .format
        (need (packWidth ty wd) .width
          (noSat w (extS3Rm ext d onlyRne fun t _ => .ok (.vpacksp ⟨v, g, d, s1, t, n, wd, ty⟩))))
    | 27 => decodeVRed v ext w wd ty
    | 28 => decodeVPerm v ext w wd ty
    | _ => need (ty.isI || ty.isF) .format
        (noSat w (noExt ext (.ok (.vli ⟨v, g, d, w.extractLsb' 7 10, wd, ty⟩))))

/-- The M slot (R79). -/
def decodeM (ext : Option (BitVec 8)) (w : SlotWord) : Except Illegal Instr :=
  let g := fGuard w
  let d := fD w
  let s1 := fS1 w
  let s2 := fS2 w
  let tile : BitVec 8 := w.extractLsb' 0 8
  let fmt (ok : Fmt → Bool) (k : Fmt → Except Illegal Instr) : Except Illegal Instr :=
    needSome (Fmt.ofCode (fBits w 6 2)) .format fun f => need (ok f) .format (k f)
  match fOp w with
  | 0 => decodeNop .c 3 ext w
  | 1 => zeroBits w 16 0 (noExt ext (.ok (.mgclaim ⟨g, d⟩)))
  | 2 => zeroBits w 16 0 (noExt ext (.ok (.mgrel ⟨g, d⟩)))
  | 3 => zeroBits w 16 8 (noExt ext (.ok (.mgfill ⟨g, d, tile⟩)))
  | 4 => zeroBits w 16 12 <| match ext with
    | none => .ok (.mgspfill ⟨g, d, tile, (w.extractLsb' 8 4).setWidth 8, .n12⟩)
    | some b => need (b.extractLsb' 6 2 == 0) .unused
        (needSome (NCode.ofCode (b.extractLsb' 4 2).toNat) .minor fun n =>
          .ok (.mgspfill ⟨g, d, tile, (b.extractLsb' 0 4) ++ (w.extractLsb' 8 4), n⟩))
  | 5 => fmt Fmt.isMma fun f => noExt ext (.ok (.mma ⟨g, d, s1, s2, f, w.extractLsb' 0 2⟩))
  | 6 => fmt Fmt.isSparse fun f => needSome (NCode.ofCode (fBits w 1 0)) .minor fun n =>
      noExt ext (.ok (.mmasp ⟨g, d, s1, s2, f, n⟩))
  | 7 => fmt Fmt.isMma fun f => .ok (.mmac ⟨g, d, s1, s2, f, w.extractLsb' 0 2, ext.getD 0⟩)
  | 8 => zeroBits w 16 0 (noExt ext (.ok (.acz ⟨g, d⟩)))
  | 9 => zeroBits w 16 8 (noExt ext (.ok (.acload ⟨g, d, tile, .rne⟩)))
  | 10 => zeroBits w 21 17 (zeroBits w 11 8 (extRm ext Rm.notSr fun rm => .ok (.acdrain ⟨g, s1, tile, rm⟩)))
  | 11 => zeroBits w 16 8 (extRm ext Rm.notSr fun rm => .ok (.acscale ⟨g, d, tile, rm⟩))
  | 12 => zeroBits w 16 6 <|
    let o : AcRowO := ⟨g, d, w.getLsbD 5, w.extractLsb' 0 5⟩
    need (!o.all || o.row == 0) .unused (noExt ext (.ok (.acstain o)))
  | 13 => zeroBits w 16 6 <|
    let o : AcRowO := ⟨g, d, w.getLsbD 5, w.extractLsb' 0 5⟩
    need (!o.all || o.row == 0) .unused (noExt ext (.ok (.acclean o)))
  | 14 => zeroBits w 21 0 (noExt ext (.ok (.esync ⟨g⟩)))
  | 15 => zeroBits w 21 2 <| noExt ext <| match fBits w 1 0 with
    | 0 => .ok (.estatPress ⟨g⟩) | 1 => .ok (.estatSprinter ⟨g⟩) | 2 => .ok (.estatRelay ⟨g⟩)
    | _ => .error .minor
  | _ => .error .major

/-- The AG0 and AG1 slots (R80). -/
def decodeAG (ag : AgPos) (ext : Option (BitVec 8)) (w : SlotWord) : Except Illegal Instr :=
  let g := fGuard w
  let d := fD w
  let s1 := fS1 w
  let s2 := fS2 w
  let q := w.getLsbD 3
  let h : BitVec 3 := w.extractLsb' 0 3
  let pos : BitVec 2 := match ag with
    | .ag0 => 1
    | .ag1 => 2
  let size (ok : Size → Bool) (k : Size → Except Illegal Instr) : Except Illegal Instr :=
    needSome (Size.ofCode (fBits w 6 4)) .minor fun z => need (ok z) .minor (k z)
  let all (_ : Size) : Bool := true
  match fOp w with
  | 0 => decodeNop .a pos ext w
  | 1 => size all fun z => zeroBits w 21 17 (noExt ext (.ok (.lda ⟨ag, g, s1, s2, z, q, h⟩)))
  | 2 => size all fun z => zeroBits w 21 17 (noExt ext (.ok (.ldaS ⟨ag, g, s1, s2, z, q, h⟩)))
  | 3 => size Size.isSmall fun z => noExt ext (.ok (.ldst ⟨ag, g, d, s1, s2, z, q, h⟩))
  | 4 => size Size.isSmall fun z =>
      zeroBits w 21 17 (zeroBits w 11 7 (noExt ext (.ok (.ldx ⟨ag, g, s1, z, q, h⟩))))
  | 5 => size all fun z => zeroBits w 21 17 (zeroBits w 3 0 (noExt ext (.ok (.sta ⟨ag, g, s1, s2, z⟩))))
  | 6 => size Size.isSmall fun z => zeroBits w 3 0 (noExt ext (.ok (.stst ⟨ag, g, d, s1, s2, z⟩)))
  | 7 => size Size.isSmall fun z =>
      zeroBits w 21 17 (zeroBits w 11 7 (zeroBits w 3 0 (noExt ext (.ok (.stx ⟨ag, g, s1, z⟩)))))
  | _ => .error .major

/-- The AT slot (R81). -/
def decodeAT (ext : Option (BitVec 8)) (w : SlotWord) : Except Illegal Instr :=
  let g := fGuard w
  let d := fD w
  let s1 := fS1 w
  let s2 := fS2 w
  let f7 := (fF7 w).toNat
  let ss : GSS := ⟨g, s1, s2⟩
  let s : GS := ⟨g, s1⟩
  let dss : GDSS := ⟨g, d, s1, s2⟩
  let dz (k : Except Illegal Instr) : Except Illegal Instr := zeroBits w 21 17 k
  let s2z (k : Except Illegal Instr) : Except Illegal Instr := zeroBits w 11 7 k
  let scope (k : Scope → Except Illegal Instr) : Except Illegal Instr :=
    needSome (Scope.ofCode (fBits w 20 18)) .minor k
  let ord (ok : Ord → Bool) (k : Ord → Except Illegal Instr) : Except Illegal Instr :=
    needSome (Ord.ofCode (fBits w 2 0)) .minor fun o => need (ok o) .minor (k o)
  let w32 := w.getLsbD 21
  let res := w.getLsbD 17
  if fOp w = 0 then decodeNop .a 3 ext w
  else if fOp w > 17 then .error .major
  else noExt ext <| match fOp w with
  | 1 => need (f7 == 0) .unused (.ok (.tld dss))
  | 2 => need (f7 == 0) .unused (.ok (.tst dss))
  | 3 => match f7 with
    | 0 => dz (.ok (.tmov ss)) | 1 => dz (.ok (.tcopy ss)) | 2 => dz (.ok (.tfill ss))
    | 3 => dz (s2z (.ok (.tzero s))) | _ => .error .minor
  | 4 => dz (zeroBits w 11 0 (.ok (.twait s)))
  | 5 => dz <| match fBits w 6 4 with
    | 0 => needSome (Red.ofCode (fBits w 3 2)) .minor fun r =>
        zeroBits w 1 0 (.ok (.calr ⟨g, s1, s2, r⟩))
    | 1 => zeroBits w 3 0 (.ok (.caga ss))
    | 2 => needSome (Red.ofCode (fBits w 3 2)) .minor fun r =>
        zeroBits w 1 0 (.ok (.crsc ⟨g, s1, s2, r⟩))
    | 3 => zeroBits w 3 0 (.ok (.ca2a ss))
    | 4 => zeroBits w 3 0 (.ok (.cbcs ss))
    | _ => .error .minor
  | 6 => needSome (AmoOp.ofCode (fBits w 6 3)) .minor fun op => ord (fun _ => true) fun o => scope fun sc =>
      .ok (.amo ⟨g, w32, sc, res, s1, s2, op, o⟩)
  | 7 => needSome (AmoOp.ofCode (fBits w 6 3)) .minor fun op => need (op != .cas) .minor
      (ord (fun _ => true) fun o => scope fun sc => s2z (.ok (.amoVector ⟨g, w32, sc, res, s1, op, o⟩)))
  | 8 => ord (fun o => o == .rlx || o == .acq || o == .sc) fun o => scope fun sc =>
      zeroBits w 11 3 (.ok (.lds ⟨g, w32, sc, res, s1, o⟩))
  | 9 => ord (fun o => o == .rlx || o == .rel || o == .sc) fun o => scope fun sc =>
      need (!res) .minor (zeroBits w 6 3 (.ok (.sts ⟨g, w32, sc, s1, s2, o⟩)))
  | 10 => ord (fun o => o != .rlx) fun o => scope fun sc =>
      zeroBits w 21 21 (zeroBits w 17 3 (.ok (.fence ⟨g, sc, o⟩)))
  | 11 => zeroBits w 21 0 (.ok (.bars ⟨g⟩))
  | 12 => match f7 with
    | 0 => dz (.ok (.barinit ss)) | 1 => dz (s2z (.ok (.bararr s))) | 2 => dz (s2z (.ok (.barinv s)))
    | _ => .error .minor
  | 13 => scope fun sc => zeroBits w 21 21 (zeroBits w 17 17 (zeroBits w 6 1
      (.ok (.sig ⟨g, sc, s1, s2, w.getLsbD 0⟩))))
  | 14 => match f7 with
    | 0 => dz (.ok (.tdef ss)) | 1 => dz (s2z (.ok (.tfree s))) | _ => .error .minor
  | 15 => match f7 with
    | 0 => dz (.ok (.seal ss)) | 1 => dz (.ok (.unseal ss)) | 2 => zeroBits w 21 7 (.ok (.scrub ⟨g⟩))
    | _ => .error .minor
  | 16 => match f7 with
    | 0 => zeroBits w 21 7 (.ok (.keyrot ⟨g⟩)) | 1 => dz (.ok (.keyld ss)) | _ => .error .minor
  | _ => match f7 with
    | 0 => dz (.ok (.pwquota ss)) | 1 => dz (.ok (.pwpleat ss)) | 2 => dz (.ok (.pwlap ss))
    | 3 => dz (.ok (.pwlease ss)) | 4 => dz (.ok (.pwgran ss)) | 5 => dz (.ok (.pwweight ss))
    | _ => .error .minor

/-- A header (R48-R51): MARK 110 is reserved. -/
def decodeHeader (sl : Slice) (w : SlotWord) : Except Illegal Instr :=
  let h : HdrO := ⟨sl, w.extractLsb' 16 8, w.extractLsb' 8 8, w.extractLsb' 0 8⟩
  match fBits w 26 24 with
  | 0 => .ok (.header h) | 1 => .ok (.leg h) | 2 => .ok (.exchange h) | 3 => .ok (.patch h)
  | 4 => .ok (.exposed h) | 5 => .ok (.interlocked h) | 6 => .error .mark | _ => .ok (.hint h)

/-- Whether a word in position S0 is a header (R48). -/
def isHeader (w : SlotWord) : Bool := fOp w == 31

/-- The slot at position `pos` of a bundle of stream `sl` (R39), with its extension byte. DESIGN CHOICE, log entry 77. -/
def decodeSlot (sl : Slice) (pos : BitVec 2) (ext : Option (BitVec 8)) (w : SlotWord) :
    Except Illegal Instr :=
  if pos = 0 then
    if isHeader w then decodeHeader sl w
    else match sl with
      | .c => decodeX w
      | .a => decodeAC w
  else match sl with
    | .c => if pos = 1 then decodeV .va ext w else if pos = 2 then decodeV .vb ext w else decodeM ext w
    | .a => if pos = 1 then decodeAG .ag0 ext w else if pos = 2 then decodeAG .ag1 ext w else decodeAT ext w

/-- Slot `pos` of a bundle (R37). -/
def bundleSlot (b : BundleWord) (pos : BitVec 2) : SlotWord := b.extractLsb' (32 * pos.toNat) 32
/-- The extension byte of slot `pos`, when the bundle has a header (R48). -/
def bundleExt (b : BundleWord) (pos : BitVec 2) : Option (BitVec 8) :=
  let h := bundleSlot b 0
  if isHeader h then some (h.extractLsb' (24 - 8 * pos.toNat) 8) else none

/-- The four decoded slots of a bundle, S0 first (R37-R41). -/
def decodeBundle (sl : Slice) (b : BundleWord) : List (Except Illegal Instr) :=
  [0, 1, 2, 3].map fun (p : BitVec 2) => decodeSlot sl p (bundleExt b p) (bundleSlot b p)

/-- A bundle of the four slot words, S0 in the low bits (R37). -/
def bundleOf (w0 w1 w2 w3 : SlotWord) : BundleWord := (w3 ++ w2) ++ (w1 ++ w0)

/-- Stream and position in which a bare slot word is read when nothing says which: the first class, in the
order X, AC, VA, M, AG0, AT, whose map assigns it (log entry 8). DESIGN CHOICE, log entry 8. -/
def tableClass (w : SlotWord) : Option (Slice × BitVec 2) :=
  [(Slice.c, (0 : BitVec 2)), (.a, 0), (.c, 1), (.c, 3), (.a, 1), (.a, 3)].find? fun c =>
    match decodeSlot c.1 c.2 none w with
    | .ok _ => true
    | .error _ => false

/-- The instruction this decoder reads from a table word: 32 bits are one slot (log entry 8). DESIGN CHOICE, log entry 8. -/
def decodeTableWord (nbits w : Nat) : Option Instr :=
  if nbits = 32 ∧ w < 2 ^ 32 then
    match tableClass (BitVec.ofNat 32 w) with
    | some (sl, pos) => (decodeSlot sl pos none (BitVec.ofNat 32 w)).toOption
    | none => none
  else none

/-! The encoder. -/

/-- A slot word with its place: stream, position, extension byte when a header is needed (R50, R65). -/
structure Enc where
  sl : Slice
  pos : BitVec 2
  ext : Option (BitVec 8)
  word : SlotWord
  deriving DecidableEq, Repr

/-- The fields of R41 laid side by side. -/
def slotWord (op : Nat) (g : Guard) (d s1 s2 : RegIx) (f7 : BitVec 7) : SlotWord :=
  BitVec.ofNat 5 op ++ BitVec.ofBool g.neg ++ g.p ++ d ++ s1 ++ s2 ++ f7
/-- As `slotWord` with IMM12 in place of S2 and F7 (R44). -/
def slotImm (op : Nat) (g : Guard) (d s1 : RegIx) (imm : BitVec 12) : SlotWord :=
  BitVec.ofNat 5 op ++ BitVec.ofBool g.neg ++ g.p ++ d ++ s1 ++ imm
/-- A direct branch: bits [21:20] zero, the offset in [19:0] (R52). -/
def slotBr (op : Nat) (g : Guard) (off : BitVec 20) : SlotWord :=
  BitVec.ofNat 5 op ++ BitVec.ofBool g.neg ++ g.p ++ (0 : BitVec 2) ++ off
/-- F7 of a vector slot: W, TY, SAT (R45). -/
def f7V (w : Width) (ty : Fmt) (sat : Bool) : BitVec 7 :=
  BitVec.ofNat 2 w.code ++ BitVec.ofNat 4 ty.code ++ BitVec.ofBool sat
/-- An RM extension byte, left out when it is RNE (R50). -/
def rmExt (rm : Rm) : Option (BitVec 8) :=
  if rm = .rne then none else some (BitVec.ofNat 8 rm.code)
/-- An S3+RM extension byte, left out when T is D and RM is RNE (R50). -/
def s3Ext (d t : RegIx) (rm : Rm) : Option (BitVec 8) :=
  if t = d ∧ rm = .rne then none else some (t ++ BitVec.ofNat 3 rm.code)
/-- The slot position of a vector slot (R39). -/
def VPos.pos : VPos → BitVec 2
  | .va => 1 | .vb => 2
/-- The slot position of an AG slot (R39). -/
def AgPos.pos : AgPos → BitVec 2
  | .ag0 => 1 | .ag1 => 2

def encHdr (m : Nat) (o : HdrO) : Option Enc :=
  some ⟨o.sl, 0, none, BitVec.ofNat 5 31 ++ BitVec.ofNat 3 m ++ o.e1 ++ o.e2 ++ o.e3⟩
def encR3 (op f : Nat) (o : R3) : Option Enc :=
  some ⟨o.sl, 0, none, slotWord op o.g o.d o.s1 o.s2 (BitVec.ofNat 7 f)⟩
def encR2 (op f : Nat) (o : R2) : Option Enc :=
  some ⟨o.sl, 0, none, slotWord op o.g o.d o.s1 0 (BitVec.ofNat 7 f)⟩
def encRI (op : Nat) (o : RI) : Option Enc := some ⟨o.sl, 0, none, slotImm op o.g o.d o.s1 o.imm⟩
def encSh (k : Nat) (o : RSh) : Option Enc :=
  some ⟨o.sl, 0, none, slotImm 8 o.g o.d o.s1 (BitVec.ofNat 2 k ++ (0 : BitVec 4) ++ o.n)⟩
def encField (op : Nat) (o : RField) : Option Enc :=
  some ⟨o.sl, 0, none, slotImm op o.g o.d o.s1 (o.pos ++ o.len1)⟩
def encBr (op : Nat) (o : BrO) : Option Enc := some ⟨o.sl, 0, none, slotBr op o.g o.off⟩
def encCopy (k : Nat) (o : CopyO) : Option Enc :=
  some ⟨.c, 0, none, slotWord 25 o.g o.d o.s1 0 (BitVec.ofNat 3 k ++ o.e)⟩
def encQuery (k : Nat) (o : QueryO) : Option Enc :=
  some ⟨.a, 0, none, slotWord 30 o.g o.d o.s1 0 (BitVec.ofNat 3 k ++ o.sel)⟩
def encV3 (op : Nat) (sat : Bool) (o : V3) : Option Enc :=
  some ⟨.c, o.v.pos, rmExt o.rm, slotWord op o.g o.d o.s1 o.s2 (f7V o.w o.ty sat)⟩
def encV4 (op : Nat) (o : V4) : Option Enc :=
  some ⟨.c, o.v.pos, s3Ext o.d o.t o.rm, slotWord op o.g o.d o.s1 o.s2 (f7V o.w o.ty false)⟩
def encV2 (op m : Nat) (o : V2) : Option Enc :=
  some ⟨.c, o.v.pos, rmExt o.rm, slotWord op o.g o.d o.s1 (BitVec.ofNat 5 m) (f7V o.w o.ty false)⟩
def encVStain (m : Nat) (v : VPos) (g : Guard) (d s1 : RegIx) : Option Enc :=
  some ⟨.c, v.pos, none, slotWord 17 g d s1 (BitVec.ofNat 5 m) 0x40⟩
def encVCmp (op : Nat) (o : VCmpO) : Option Enc :=
  some ⟨.c, o.v.pos, s3Ext o.d o.t .rne,
    slotWord op o.g o.d o.s1 (BitVec.ofNat 5 o.cc.code) (f7V o.w o.ty false)⟩
def encVCv4 (op : Nat) (o : VCv4) : Option Enc :=
  some ⟨.c, o.v.pos, s3Ext o.d o.t o.rm,
    slotWord op o.g o.d o.s1 (BitVec.ofNat 5 o.fmt.code) (f7V o.w o.ty false)⟩
def encVRed (k : Nat) (o : VRedO) (e : Option (BitVec 8)) : Option Enc :=
  some ⟨.c, o.v.pos, e, slotWord 27 o.g o.d o.s1 (BitVec.ofNat 2 k ++ BitVec.ofNat 3 o.op.code) (f7V o.w o.ty false)⟩
def encVPerm (m : Nat) (o : VPermO) : Option Enc :=
  some ⟨.c, o.v.pos, s3Ext o.d o.t .rne, slotWord 28 o.g o.d o.s1 (BitVec.ofNat 5 m) (f7V o.w o.ty false)⟩
def encM (op : Nat) (ext : Option (BitVec 8)) (g : Guard) (d s1 s2 : RegIx) (f7 : BitVec 7) : Option Enc :=
  some ⟨.c, 3, ext, slotWord op g d s1 s2 f7⟩
def encMImm (op : Nat) (ext : Option (BitVec 8)) (g : Guard) (d s1 : RegIx) (imm : BitVec 12) : Option Enc :=
  some ⟨.c, 3, ext, slotImm op g d s1 imm⟩
def encAg (ag : AgPos) (op : Nat) (g : Guard) (d s1 s2 : RegIx) (z : Size) (q : Bool) (h : BitVec 3) : Option Enc :=
  some ⟨.a, ag.pos, none, slotWord op g d s1 s2 (BitVec.ofNat 3 z.code ++ BitVec.ofBool q ++ h)⟩
def encAt (op : Nat) (g : Guard) (d s1 s2 : RegIx) (f7 : Nat) : Option Enc :=
  some ⟨.a, 3, none, slotWord op g d s1 s2 (BitVec.ofNat 7 f7)⟩
/-- The D field of a memory-ordering operation: width, scope, result bit (R81). -/
def dMem (w32 : Bool) (s : Scope) (r : Bool) : RegIx :=
  BitVec.ofBool w32 ++ BitVec.ofNat 3 s.code ++ BitVec.ofBool r

/-- The words of a slot instruction; none for commands and events, which have no word. -/
def encode : Instr → Option Enc
  | .nop o => some ⟨o.sl, o.pos, none, slotWord 0 o.g 0 0 0 0⟩
  | .header o => encHdr 0 o | .leg o => encHdr 1 o | .exchange o => encHdr 2 o | .patch o => encHdr 3 o
  | .exposed o => encHdr 4 o | .interlocked o => encHdr 5 o | .hint o => encHdr 7 o
  | .add o => encR3 1 0 o | .sub o => encR3 1 1 o | .and o => encR3 1 2 o | .or o => encR3 1 3 o
  | .xor o => encR3 1 4 o | .shl o => encR3 1 5 o | .shr o => encR3 1 6 o | .sar o => encR3 1 7 o
  | .rol o => encR3 1 8 o | .min o => encR3 1 9 o | .max o => encR3 1 10 o | .minz o => encR3 1 11 o
  | .maxz o => encR3 1 12 o
  | .mul o => encR3 2 0 o | .mulh o => encR3 2 1 o | .mulhz o => encR3 2 2 o | .div o => encR3 2 3 o
  | .divz o => encR3 2 4 o | .rem o => encR3 2 5 o | .remz o => encR3 2 6 o
  | .mov o => encR2 3 0 o | .not o => encR2 3 1 o | .clz o => encR2 3 2 o | .ctz o => encR2 3 3 o
  | .popc o => encR2 3 4 o | .bswap o => encR2 3 5 o
  | .movFromLdq0 o => encR2 3 6 ⟨.c, o.g, o.d, 0⟩ | .movFromLdq1 o => encR2 3 7 ⟨.c, o.g, o.d, 0⟩
  | .addi o => encRI 4 o | .andi o => encRI 5 o | .ori o => encRI 6 o | .xori o => encRI 7 o
  | .shli o => encSh 0 o | .shri o => encSh 1 o | .sari o => encSh 2 o
  | .extr o => encField 9 o | .ins o => encField 10 o
  | .li o => encRI 11 ⟨o.sl, o.g, o.d, 0, o.imm⟩
  | .lih o => encRI 12 ⟨o.sl, o.g, o.d, o.k, o.imm⟩
  | .sel o => encR3 13 o.q.toNat ⟨o.sl, o.g, o.d, o.s1, o.s2⟩
  | .cmp o => some ⟨o.sl, 0, none, slotWord 14 o.g o.d o.s1 o.s2
      (BitVec.ofNat 4 o.cc.code ++ BitVec.ofBool o.w32 ++ (0 : BitVec 2))⟩
  | .cmpi o => some ⟨o.sl, 0, none, slotImm 15 o.g o.d o.s1 (BitVec.ofNat 4 o.cc.code ++ o.imm)⟩
  | .pand o => encR3 16 0 o | .por o => encR3 16 1 o | .pxor o => encR3 16 2 o
  | .pnot o => encR2 16 3 o | .pmov o => encR2 16 4 o
  | .br o => encBr 17 o | .call o => encBr 18 o | .loopb o => encBr 19 o
  | .brc o => some ⟨o.sl, 0, none, slotImm 20 o.g (BitVec.ofNat 5 o.cond.code) o.s1 o.off⟩
  | .brr o => encR2 21 0 ⟨o.sl, o.g, 0, o.s1⟩ | .callr o => encR2 21 1 o
  | .ret o => encR2 21 2 ⟨o.sl, o.g, 0, o.s1⟩
  | .chk o => some ⟨.c, 0, none, slotImm 22 o.g (BitVec.ofNat 5 o.file.code) o.s1 o.off⟩
  | .loopset o => some ⟨o.sl, 0, none, slotImm 23 o.g 0 o.s1 (o.ds.setWidth 12)⟩
  | .wait o => some ⟨o.sl, 0, none, slotImm 24 o.g 0 0 o.n⟩
  | .xtovVa o => encCopy 0 o | .xtovVb o => encCopy 1 o | .vtoxVa o => encCopy 2 o | .vtoxVb o => encCopy 3 o
  | .vatovb o => encCopy 4 ⟨o.g, o.d, o.s1, 0⟩ | .vbtova o => encCopy 5 ⟨o.g, o.d, o.s1, 0⟩
  | .xtoa o => encCopy 6 ⟨o.g, o.d, o.s1, 0⟩
  | .atox o => some ⟨.a, 0, none, slotWord 25 o.g o.d o.s1 0 0⟩
  | .csrr o => encRI 26 ⟨.c, o.g, o.d, 0, o.n⟩ | .csrw o => encRI 27 ⟨.c, o.g, 0, o.s1, o.n⟩
  | .acsrr o => encRI 26 ⟨.a, o.g, o.d, 0, o.n⟩ | .acsrw o => encRI 27 ⟨.a, o.g, 0, o.s1, o.n⟩
  | .trap o => encR2 28 1 ⟨o.sl, o.g, 0, o.code⟩
  | .rft o => encR2 28 2 ⟨o.sl, o.g, 0, 0⟩ | .done o => encR2 28 3 ⟨o.sl, o.g, 0, 0⟩
  | .halt o => encR2 28 4 ⟨o.sl, o.g, 0, 0⟩
  | .rwnd o => encR2 28 5 ⟨.c, o.g, 0, 0⟩ | .preemptAck o => encR2 28 6 ⟨.c, o.g, 0, 0⟩
  | .pushc o => encR2 29 0 ⟨.c, o.g, 0, o.s1⟩ | .popa o => encR2 29 1 ⟨.c, o.g, o.d, 0⟩
  | .brq o => some ⟨.a, 0, none, slotImm 22 o.g (BitVec.ofNat 5 o.cond.code) 0 o.off⟩
  | .qpush o => encR2 29 0 ⟨.a, o.g, 0, o.s1⟩
  | .qdrain o => encR2 29 1 ⟨.a, o.g, 0, if o.ldq1 then 2 else 1⟩
  | .qstat o => encR2 29 2 ⟨.a, o.g, o.d, BitVec.ofNat 5 o.q.code⟩
  | .extrQ o => encQuery 0 o | .shpr o => encQuery 1 o | .tstate o => encQuery 2 o | .keyq o => encQuery 3 o
  | .vadd o => encV3 1 false o | .vaddsat o => encV3 1 true o | .vsub o => encV3 2 false o
  | .vsubsat o => encV3 2 true o | .vmul o => encV3 3 false o | .vmullo o => encV3 3 false o
  | .vmulhi o => encV3 4 false o | .vmulhiz o => encV3 4 false o
  | .vfma o => encV4 5 o | .vfms o => encV4 6 o | .vfnma o => encV4 7 o
  | .vdiv o => encV3 8 false o | .vmin o => encV3 9 false o | .vmax o => encV3 10 false o
  | .vcopysign o => encV3 11 false o | .vavg o => encV3 11 false o | .vand o => encV3 12 false o
  | .vor o => encV3 13 false o | .vxor o => encV3 14 false o | .vshl o => encV3 15 false o
  | .vshr o => encV3 16 false o | .vsar o => encV3 16 false o
  | .vmov o => encV2 17 0 o | .vabs o => encV2 17 1 o | .vneg o => encV2 17 2 o | .vnot o => encV2 17 3 o
  | .vpopc o => encV2 17 4 o | .vclz o => encV2 17 5 o | .vsqrt o => encV2 17 6 o
  | .vstain o => encVStain 7 o.v o.g o.d o.s1 | .vclean o => encVStain 8 o.v o.g o.d o.s1
  | .vstst o => encVStain 9 o.v o.g o.d o.s1 | .vseedr o => encVStain 10 o.v o.g o.d 0
  | .vseedw o => encVStain 11 o.v o.g 0 o.s1 | .vpushSdq o => encVStain 12 o.v o.g 0 o.s1
  | .vpushIxq o => encVStain 13 o.v o.g 0 o.s1
  | .vmovFromLdq0 o => encV2 17 14 ⟨o.v, o.g, o.d, 0, o.w, o.ty, .rne⟩
  | .vmovFromLdq1 o => encV2 17 15 ⟨o.v, o.g, o.d, 0, o.w, o.ty, .rne⟩
  | .vexp2 o => encV2 18 0 o | .vlog2 o => encV2 18 1 o | .vrcp o => encV2 18 2 o | .vrsq o => encV2 18 3 o
  | .vsin o => encV2 18 4 o | .vcos o => encV2 18 5 o | .vtanh o => encV2 18 6 o
  | .vcmp o => encVCmp 19 o | .vcmpm o => encVCmp 20 o
  | .vsel o => encV4 21 o
  | .vcvt o => some ⟨.c, o.v.pos, rmExt o.rm,
      slotWord 22 o.g o.d o.s1 (BitVec.ofNat 5 o.fmt.code) (f7V o.w o.ty o.sat)⟩
  | .vcvtef o => encVCv4 23 o | .vqnt o => encVCv4 24 o | .vdqnt o => encVCv4 25 o
  | .vpacksp o => some ⟨.c, o.v.pos, s3Ext o.d o.t .rne,
      slotWord 26 o.g o.d o.s1 (BitVec.ofNat 5 o.n.code) (f7V o.w o.ty false)⟩
  | .vred o => encVRed 0 o (rmExt o.rm) | .vscan o => encVRed 1 o (rmExt o.rm)
  | .vredr o => encVRed 2 o (s3Ext o.d o.t .rne)
  | .vperm o => encVPerm 0 o | .vshuf o => encVPerm 1 o | .vbcast o => encVPerm 2 o | .vext o => encVPerm 3 o
  | .vins o => encVPerm 4 o | .vrot o => encVPerm 5 o | .vcompress o => encVPerm 6 o
  | .vexpand o => encVPerm 7 o | .vzip o => encVPerm 8 o | .vunzip o => encVPerm 9 o
  | .vli o => some ⟨.c, o.v.pos, none, slotWord 29 o.g o.d (o.c.extractLsb' 5 5) (o.c.extractLsb' 0 5)
      (f7V o.w o.ty false)⟩
  | .mgclaim o => encM 1 none o.g o.d 0 0 0 | .mgrel o => encM 2 none o.g o.d 0 0 0
  | .mgfill o => encMImm 3 none o.g o.d 0 (o.tile.setWidth 12)
  | .mgspfill o => encMImm 4
      (if o.mask.toNat < 16 ∧ o.n = .n12 then none
       else some ((0 : BitVec 2) ++ BitVec.ofNat 2 o.n.code ++ o.mask.extractLsb' 4 4))
      o.g o.d 0 (o.mask.extractLsb' 0 4 ++ o.tile)
  | .mma o => encM 5 none o.g o.d o.s1 o.s2 (BitVec.ofNat 5 o.fmt.code ++ o.hint)
  | .mmasp o => encM 6 none o.g o.d o.s1 o.s2 (BitVec.ofNat 5 o.fmt.code ++ BitVec.ofNat 2 o.n.code)
  | .mmac o => encM 7 (if o.cseq = 0 then none else some o.cseq) o.g o.d o.s1 o.s2
      (BitVec.ofNat 5 o.fmt.code ++ o.hint)
  | .acz o => encM 8 none o.g o.d 0 0 0
  | .acload o => encMImm 9 none o.g o.ac 0 (o.tile.setWidth 12)
  | .acdrain o => encMImm 10 (rmExt o.rm) o.g 0 o.ac (o.tile.setWidth 12)
  | .acscale o => encMImm 11 (rmExt o.rm) o.g o.ac 0 (o.tile.setWidth 12)
  | .acstain o => encMImm 12 none o.g o.d 0 ((0 : BitVec 6) ++ BitVec.ofBool o.all ++ o.row)
  | .acclean o => encMImm 13 none o.g o.d 0 ((0 : BitVec 6) ++ BitVec.ofBool o.all ++ o.row)
  | .esync o => encM 14 none o.g 0 0 0 0 | .estatPress o => encM 15 none o.g 0 0 0 0
  | .estatSprinter o => encM 15 none o.g 0 0 0 1 | .estatRelay o => encM 15 none o.g 0 0 0 2
  | .lda o => encAg o.ag 1 o.g 0 o.s1 o.s2 o.size o.ldq1 o.hint
  | .ldaS o => encAg o.ag 2 o.g 0 o.s1 o.s2 o.size o.ldq1 o.hint
  | .ldst o => encAg o.ag 3 o.g o.d o.s1 o.s2 o.size o.ldq1 o.hint
  | .ldx o => encAg o.ag 4 o.g 0 o.s1 0 o.size o.ldq1 o.hint
  | .sta o => encAg o.ag 5 o.g 0 o.s1 o.s2 o.size false 0
  | .stst o => encAg o.ag 6 o.g o.d o.s1 o.s2 o.size false 0
  | .stx o => encAg o.ag 7 o.g 0 o.s1 0 o.size false 0
  | .tld o => encAt 1 o.g o.d o.s1 o.s2 0 | .tst o => encAt 2 o.g o.d o.s1 o.s2 0
  | .tmov o => encAt 3 o.g 0 o.s1 o.s2 0 | .tcopy o => encAt 3 o.g 0 o.s1 o.s2 1
  | .tfill o => encAt 3 o.g 0 o.s1 o.s2 2 | .tzero o => encAt 3 o.g 0 o.s1 0 3
  | .twait o => encAt 4 o.g 0 o.s1 0 0
  | .calr o => encAt 5 o.g 0 o.s1 o.s2 (4 * o.red.code) | .caga o => encAt 5 o.g 0 o.s1 o.s2 16
  | .crsc o => encAt 5 o.g 0 o.s1 o.s2 (32 + 4 * o.red.code) | .ca2a o => encAt 5 o.g 0 o.s1 o.s2 48
  | .cbcs o => encAt 5 o.g 0 o.s1 o.s2 64
  | .amo o => encAt 6 o.g (dMem o.w32 o.scope o.res1) o.s1 o.s2 (8 * o.op.code + o.ord.code)
  | .amoVector o => encAt 7 o.g (dMem o.w32 o.scope o.res) o.s1 0 (8 * o.op.code + o.ord.code)
  | .lds o => encAt 8 o.g (dMem o.w32 o.scope o.res1) o.s1 0 o.ord.code
  | .sts o => encAt 9 o.g (dMem o.w32 o.scope false) o.s1 o.s2 o.ord.code
  | .fence o => encAt 10 o.g (dMem false o.scope false) 0 0 o.ord.code
  | .bars o => encAt 11 o.g 0 0 0 0
  | .barinit o => encAt 12 o.g 0 o.s1 o.s2 0 | .bararr o => encAt 12 o.g 0 o.s1 0 1
  | .barinv o => encAt 12 o.g 0 o.s1 0 2
  | .sig o => encAt 13 o.g (dMem false o.scope false) o.s1 o.s2 (if o.add then 1 else 0)
  | .tdef o => encAt 14 o.g 0 o.s1 o.s2 0 | .tfree o => encAt 14 o.g 0 o.s1 0 1
  | .seal o => encAt 15 o.g 0 o.s1 o.s2 0 | .unseal o => encAt 15 o.g 0 o.s1 o.s2 1
  | .scrub o => encAt 15 o.g 0 0 0 2
  | .keyrot o => encAt 16 o.g 0 0 0 0 | .keyld o => encAt 16 o.g 0 o.s1 o.s2 1
  | .pwquota o => encAt 17 o.g 0 o.s1 o.s2 0 | .pwpleat o => encAt 17 o.g 0 o.s1 o.s2 1
  | .pwlap o => encAt 17 o.g 0 o.s1 o.s2 2 | .pwlease o => encAt 17 o.g 0 o.s1 o.s2 3
  | .pwgran o => encAt 17 o.g 0 o.s1 o.s2 4 | .pwweight o => encAt 17 o.g 0 o.s1 o.s2 5
  | _ => none

end Sys2Proof
end

