-- ==== Sys2Proof/Config.lean ====
section
/-! DEFINITION. What the part leaves to the device, or to a standard the manual names and does not define: opaque
constants without a body, and what is fixed by fuse. -/

namespace Sys2Proof.Config

/-! Free values. The first argument is the fresh-value counter of the state. -/

/-- Cycles after the first in which a result may land (R56): c + 1 plus this modulo L, for the k-th result in flight of a slot of a runner's
slice that issues in cycle c; no other owner's work moves it (R462). DEDUCED, log entry 10. -/
opaque landing : (run cyc slice slot k : Nat) → Nat
/-- Whether element k of operand `op` of slot `slot` reads the new value of unlanded result n in cycle `cyc` (R56). -/
opaque earlyRead : (n cyc slot op k : Nat) → Bool
/-- How long after w the last abandonment of a rewind that a runner takes in a cycle completes, modulo 65 (R371). -/
opaque abandon : (run cyc : Nat) → Nat
/-- Which of the permitted times within an upper bound an operation takes that is begun in a cycle: `what` is its kind and `who` the runner,
command or stack it is of, so that no other owner's work moves it (R239, R246, R282, R235, R294, R462). DESIGN CHOICE, log entry 44. -/
opaque within : (what who cyc : Nat) → Nat
/-- Bytes of a tile that an abandoned destination command had reached: true reads the new value (R222). -/
opaque reached : (n a : Nat) → Bool
/-- The order the Starter chooses for squads of one heat, and which runner a status names (R29, R145, R394).
DESIGN CHOICE, log entry 45. `what` is the kind of the choice, `who` the runner or heat it is of, `n` a cycle or the fresh-value counter. -/
opaque choice : (what who n : Nat) → Nat
/-- Lines of an ended WSETLOAD, or of one whose chunk fails, that hold the new content (R408, R411). -/
opaque wsetNew : (n line : Nat) → Bool
/-- SEL of a die at cold reset (R425): 1 plus this modulo 2^32 - 1, so never 0. DESIGN CHOICE, log entry 5. -/
opaque selSeed : Nat → Nat
/-- A fresh key of the random bit generator (R259). DESIGN CHOICE, log entry 47. -/
opaque randomKey : Nat → BitVec 256
/-- A hardware fault in a replay (R428): what it flips in the signature. -/
opaque silent : Nat → BitVec 64
/-- Cycles that a replay takes beyond its command's T (R428). -/
opaque replay : Nat → Nat
/-- The syndrome of an error in a word of an on-chip array (R285), which the manual does not give. DESIGN CHOICE, log entry 70. -/
opaque syndrome : (arr inst off : Nat) → BitVec 8
/-- Whether firmware clears an entry of an error log at a background step (R285). DESIGN CHOICE, log entry 71. -/
opaque clearsLog : (n k : Nat) → Bool
/-- The physical address of the 64-byte line that an error of a row's activation field is logged under (R285, R420). DESIGN CHOICE, log entry 103. -/
opaque rowLine : (ch bank row : Nat) → BitVec 64
/-- Whether the parity of a row's activation field fails at a precharge in a cycle (R420). DESIGN CHOICE, log entry 103. -/
opaque parityFails : (ch bank row cyc : Nat) → Bool
/-- Whether tree write-backs or race-record traffic take a mending slot that begins in a cycle (R421). DESIGN CHOICE, log entry 103. -/
opaque writesBack : (ch cyc : Nat) → Bool
/-- Which of some lines a scrub that takes a mending slot reads, none where scrub takes none (R421). DESIGN CHOICE, log entry 103. -/
opaque scrubs : (ch cyc n : Nat) → Option Nat
/-- Whether an uncorrectable error lies in the Fold that a leg boundary takes (R370). DESIGN CHOICE, log entry 105. -/
opaque foldFails : Nat → Bool
/-- The MAC of a leaf block or interior node under the counter that its parent holds for it (R300). DESIGN CHOICE, log entry 102. -/
opaque nodeMac : (parent : Nat) → List Byte → BitVec 56
/-- The coefficient of a configuration block that weighs count k of a meter in its energy, in nanojoules (R423, R439). DESIGN CHOICE, log
entry 46. -/
opaque energyWeight : (conf : List Byte) → (k : Nat) → Nat

/-! Cryptography named by the manual and defined by standards outside it. -/

/-- SHAKE256 with 256 bits of output. DESIGN CHOICE, log entry 42. -/
opaque shake256 : List Byte → BitVec 256
/-- KW unwrapping (NIST SP 800-38F): none when the integrity check fails. DESIGN CHOICE, log entry 42. -/
opaque kwUnwrap : (kek : BitVec 256) → List Byte → Option (BitVec 256)
/-- AES-256 of one block (R299). DESIGN CHOICE, log entry 42. -/
opaque aes256 : (key : BitVec 256) → BitVec 128 → BitVec 128
/-- GHASH of some bytes under a hash key (R299). DESIGN CHOICE, log entry 42. -/
opaque ghash : (h : BitVec 128) → List Byte → BitVec 128
/-- AES-256-GCM encryption: ciphertext and tag. DESIGN CHOICE, log entry 42. -/
opaque gcmSeal : (key : BitVec 256) → (iv aad plain : List Byte) → List Byte × List Byte
/-- AES-256-GCM decryption: none when the tag fails. -/
opaque gcmOpen : (key : BitVec 256) → (iv aad cipher tag : List Byte) → Option (List Byte)
/-- What AES-256-GCM decryption gives without a check of the tag. -/
opaque gcmPlain : (key : BitVec 256) → (iv cipher : List Byte) → List Byte
/-- ML-KEM-1024 decapsulation under the module's key-transport key pair, derived from MR0-MR2 (R441). -/
opaque mlKemDecap : (mrs : List Byte) → List Byte → List Byte
/-- A Falcon-1024 signature in padded format under the attestation key derived from MR0-MR2 (R424, R441). -/
opaque falconSign : (mrs : List Byte) → List Byte → List Byte
/-- The certificate of DeviceID by Plovzal (R441). -/
opaque deviceCert : List Byte
/-- A signature under DeviceID (R441). -/
opaque deviceSign : List Byte → List Byte
/-- The attestation public key derived from MR0-MR2 (R441). -/
opaque attPublic : (mrs : List Byte) → List Byte
/-- SHA3-384. -/
opaque sha3 : List Byte → List Byte
/-- SHAKE256 with 1,024 bits of output. -/
opaque shake1024 : List Byte → BitVec 1024
/-- The shared secret of a Rigal exchange (R446). -/
opaque rigalSecret : (n : Nat) → (ciphertext : List Byte) → List Byte
/-- The key-transport public key derived from MR0-MR2 (R441). -/
opaque ktPublic : (mrs : List Byte) → List Byte
/-- The activation threshold that a configuration block holds (R419, R439). DESIGN CHOICE, log entry 4. -/
opaque threshold : (conf : List Byte) → Nat
/-- The content of an SPDM, TDISP or Rigal message beyond what the manual says (R437, R442, R446). -/
opaque message : (code : Nat) → List Byte → List Byte

/-! Fixed by fuse or ROM. -/

/-- DBGST.MODE is test-enabled (R435). DESIGN CHOICE, log entry 48. -/
opaque testEnabled : Bool
/-- The fused minimum security version (R439). DESIGN CHOICE, log entry 48. -/
opaque fusedSvn : Nat
/-- The boot ROM image (R440). DESIGN CHOICE, log entry 48. -/
opaque bootRom : List Byte
/-- The fused root-key digest (R443). -/
opaque rootDigest : BitVec 256

end Sys2Proof.Config
end

