-- ==== Sys2Proof/Machine/RunnerTypes.lean ====
section
/-! DEFINITION. The types of the state of one runner: registers, streams, queues, engines, the Hamper,
the Fold (R113-R126, R147-R149, R181-R190, R216, R230, R270, R278, R305, R330, R360-R365). -/

namespace Sys2Proof.Machine

/-- A byte memory: address and byte, addresses strictly rising, no entry equal to what an unlisted address
reads as. -/
abbrev Memory := List Host.Cell

/-- A register a result lands in, by its physical place (the FILE codes of R385). -/
inductive Dst
  | g (i : RegIx) | a (i : RegIx) | va (i : RegIx) | vb (i : RegIx)
  | p (i : BitVec 4) | ap (i : BitVec 4) | sda | sdb | sys (n : BitVec 12)
  /-- The rotation base, predicate base, loop counts and p8-p15 written by LOOPSET and LOOPB (R119, R120). -/
  | loop (sl : Slice)
  /-- ESNAP of ESC_P, ESC_S, ESC_L (R208). -/
  | esnapP | esnapS | esnapL
  deriving DecidableEq, Repr

/-- A result that has been issued (R56). `mask` marks its written 64-bit chunks (R360); `ew` is the element width of an
early read; `landed` keeps a landed result until its bound has passed; `reinj` marks an entry of the IFQ (R363);
`cross` a copy into the other slice (R139). -/
structure Pend where
  dst : Dst
  val : VWord
  mask : BitVec 16
  ew : Nat
  stainW : Bool
  stain : Bool
  poisonW : Bool
  poison : Bool
  issue : Nat
  bound : Nat
  land : Nat
  slot : Nat
  seq : Nat
  landed : Bool
  reinj : Bool
  cross : Bool
  deriving DecidableEq, Repr

/-- An entry of an in-flight queue (R360, R362): the result and its delay D. -/
structure IfqE where
  r : Pend
  d : Nat
  deriving DecidableEq, Repr

/-- Pending-branch state (R54): the target when taken, the delay bundles still to issue, and whether it is an RFT. -/
structure Br where
  target : Option Word
  left : Nat
  rft : Bool
  deriving DecidableEq, Repr

/-- A trap shadow (R356): latency mode, guards of slots 1 to 3, pending branch; `marked` that the mark of the trapped bundle has
taken effect and is not applied again at its re-entry (R359). -/
structure Tsh where
  exp : Bool
  guards : BitVec 3
  br : Option Br
  marked : Bool
  deriving DecidableEq, Repr

/-- What one slice holds that the Fold also holds (R117, R121-R123, R365). `wait` is the first cycle in which the
next bundle may issue; in a Fold it is the number of cycles still to wait. `reentry` says that the next bundle is
re-entered, at which slot, with which guards of slots 1 to 3 (R359); `marked` that its mark, or the leg boundary it
makes, has taken effect already (R359, R376); `done` and `acked` that DONE or PREEMPT.ACK has been executed. -/
structure Strm where
  pc : Word
  br : Option Br
  wait : Nat
  reentry : Option (Nat × BitVec 3)
  marked : Bool
  done : Bool
  acked : Bool
  sw : Word
  xpc : Word
  tsh : Option Tsh
  ifq : List IfqE
  preds : BitVec 16
  lc : BitVec 32
  lfc : BitVec 32
  rot : BitVec 4
  prot : BitVec 3
  deriving DecidableEq, Repr

/-- A vector register file with its stain and poison bits (R147). -/
structure VFile where
  d : Vector VWord 32
  stain : BitVec 32
  poison : BitVec 32
  deriving DecidableEq, Repr

/-- AG-slot operations as LAQ and SAQ record them (R385). -/
inductive AgOp | lda | ldaS | ldst | ldx | sta | stst | stx
  deriving DecidableEq, Repr

/-- A load address queue entry (R331). Element k has address `addrs[k]`; `taken` and `arrived` mark the elements whose
request has been served and whose data has come, `held` those that have waited for an earlier write (R339); `elig` is the cycle from which
it may be served. -/
structure LaqE where
  id : Nat
  op : AgOp
  tgt1 : Bool
  size : Size
  ag1 : Bool
  base : Word
  stride : Word
  idx : VWord
  addrs : List Word
  taken : BitVec 128
  held : BitVec 128
  arrived : BitVec 128
  data : VWord
  stain : Bool
  ue : Bool
  elig : Nat
  leg : Nat
  stamp : BitVec 20
  deriving DecidableEq, Repr
/-- A strong-path entry (R305, R385). `elig` is the cycle from which it may take a slot, once allowed; `tries` counts
failed attempts (R466); `lane` is the first lane of a vector AMO not performed; `held` by a RACE (R313); `due` is the cycle in which
the data of its latest slot arrives (R292), `rel` the vector that its release carries once it has been made (R311); `cas` the value that a
CAS request under way to the host compares (R434). -/
structure StrongE where
  id : Nat
  i : Instr
  s1 : Word
  s2 : Word
  s3 : Word
  ix : VWord
  dat : VWord
  stain : Bool
  stamp : BitVec 20
  issue : Nat
  elig : Option Nat
  tries : Nat
  lane : Nat
  acc : VWord
  held : Bool
  barsNo : Nat
  due : Nat
  rel : Option (List (BitVec 20))
  cas : Option Nat
  deriving DecidableEq, Repr

/-- States of a load data queue entry (R331). -/
inductive LdqSt | reserved | filled | fault
  deriving DecidableEq, Repr
/-- An entry of LDQ0 or LDQ1 (R331). `id` names the load or strong access that fills it; `load` is that load, kept so that it
can be performed again (R343, R344), `strong` that strong access after a RACE; `retry` once a trap at its pop asks for
it. -/
structure LdqE where
  id : Nat
  load : Option LaqE
  strong : Option StrongE
  retry : Bool
  st : LdqSt
  data : VWord
  stain : Bool
  poison : Bool
  ue : Bool
  cause : BitVec 8
  detail : BitVec 32
  addr : Word
  ag1 : Bool
  deriving DecidableEq, Repr
/-- An entry of SDQ or IXQ (R331); `shown` when the other slice sees it, from cycle `due` (R332). -/
structure VqE where
  data : VWord
  stain : Bool
  due : Nat
  shown : Bool
  deriving DecidableEq, Repr
/-- An entry of CAQ or ACQ (R331). -/
structure SqE where
  val : Word
  due : Nat
  shown : Bool
  deriving DecidableEq, Repr

/-- The items of R365: the live ones, and the same ones as the Fold holds them. `frozen`: the A slice waits for the C
slice's RFT (R343). -/
structure Leg where
  g : Vector Word 32
  gp : BitVec 32
  a : Vector Word 32
  va : VFile
  vb : VFile
  sda : VWord
  sdb : VWord
  lim : BitVec 7
  cellcfg : Word
  xcause : Word
  xaddr : Word
  xcnt : BitVec 32
  xleg : Bool
  frozen : Bool
  ldq0 : List LdqE
  ldq1 : List LdqE
  sdq : List VqE
  ixq : List VqE
  caq : List SqE
  acq : List SqE
  c : Strm
  s : Strm
  deriving DecidableEq, Repr

/-- The Fold (R364, R365): the items and the in-flight lists of both slices. `ue` is an uncorrectable error in it (R370). -/
structure Fold where
  leg : Leg
  inflC : List IfqE
  inflA : List IfqE
  ue : Bool
  deriving DecidableEq, Repr

/-- A store address queue entry (R331). -/
structure SaqE where
  id : Nat
  op : AgOp
  size : Size
  base : Word
  stride : Word
  idx : VWord
  addrs : List Word
  leg : Nat
  stamp : BitVec 20
  issue : Nat
  deriving DecidableEq, Repr

/-- A scratchpad level (R214). -/
inductive Lvl | basin | tub | vat
  deriving DecidableEq, Repr
/-- A tile-id that passed R214: its level and its index in the window. -/
structure TileId where
  lvl : Lvl
  idx : Nat
  deriving DecidableEq, Repr
/-- Tile states (R216). -/
inductive TState | empty | filling | ready | draining
  deriving DecidableEq, Repr
/-- A defined tile-table entry (R216); an index not listed has V = 0. `resv` marks an index a TDEF has reserved (R224). -/
structure Tile where
  stain : BitVec 256
  base : Nat
  pitch : Nat
  rows : Nat
  fmt : Fmt
  rmap : Bool
  state : TState
  rdr : Nat
  resv : Bool
  deriving DecidableEq, Repr
/-- A tile window (R215): first entry, entry count, first byte, bytes. -/
structure Window where
  first : Nat
  count : Nat
  base : Nat
  size : Nat
  deriving DecidableEq, Repr

/-- What a rewind restores of a tile that a command of the leg named (R222). `rdr` marks a reader count still held; `entry` is the whole
entry as a TDEF or TFREE of the leg found it. -/
structure TileUndo where
  cmd : Nat
  tile : TileId
  state : TState
  stain : BitVec 256
  dest : Bool
  rdr : Bool
  entry : Option (Option Tile)
  deriving DecidableEq, Repr

/-- Kinds of Hamper entry (R385). -/
inductive HamKind | store | tst | seal
  deriving DecidableEq, Repr
/-- A Hamper entry (R364). A store has its element addresses and data, with the base, stride and index vector that made them (R385), and the requests of it still outstanding once it is
being performed; a TST or SEAL its tile and operands. `held` by a RACE until RFT (R313); `cno` is the fresh-value counter at its commit:
commands issued later have numbers from there on (R274); `key` is the sealing entry's key as a SEAL found it at its issue (R266). -/
structure HamE where
  id : Nat
  kind : HamKind
  size : Size
  base : Word
  stride : Word
  idx : VWord
  addrs : List Word
  data : VWord
  i : Instr
  tile : TileId
  addr : Word
  row0 : Word
  nonce : Word
  committed : Bool
  left : Option Nat
  held : Bool
  quar : Bool
  stamp : BitVec 20
  leg : Nat
  issue : Nat
  cno : Nat
  key : BitVec 256
  deriving DecidableEq, Repr

/-- An extent table entry (R230); an index not listed has V = 0. -/
structure Extent where
  pbase : Nat
  len : Nat
  vbase : Nat
  p : Bool
  so : Bool
  w : Bool
  r : Bool
  deriving DecidableEq, Repr

/-- Accumulator bank tags (R181). -/
inductive AcTag | zero | f32 | s32 | f64
  deriving DecidableEq, Repr
/-- One accumulator bank (R181): 1024 elements of 32 bits, row stains, tag. -/
structure AcBank where
  d : List (BitVec 32)
  stain : BitVec 32
  tag : AcTag
  deriving DecidableEq, Repr
/-- Mangle slot states (R184). -/
inductive MgState | free | empty | filling | ready
  deriving DecidableEq, Repr
/-- One Mangle slot (R184): rows, stains, state, descriptor, reader count. -/
structure MgSlot where
  d : List MRow
  stain : BitVec 32
  st : MgState
  fmt : Fmt
  k : Nat
  spn : Option NCode
  rows : Nat
  rmap : Bool
  rd : Nat
  deriving DecidableEq, Repr
/-- A Press command (R187): the operation, the type of the accumulator data it reads or clears, the address and leg of its
bundle, the enables recorded at issue, its start cycle, the K-blocks already committed before this start, and whether it was held, so that an
audit cannot select it (R426). -/
structure PressCmd where
  id : Nat
  i : Instr
  src : AcTag
  pc : Word
  leg : Nat
  quar : Bool
  fei : Bool
  fez : Bool
  feo : Bool
  start : Option Nat
  from0 : Nat
  spoilt : Bool
  deriving DecidableEq, Repr
/-- The class of a held Press command (R208). -/
inductive FpCls | invalid | divzero | overflow
  deriving DecidableEq, Repr

/-- The Press of a runner (R181, R184, R187-R190). `legDone` counts the commands of this leg that completed;
`shadow` is listed by bank, `shtags` holds the tags that commands of the leg replaced at issue, by command number and bank; `mgUndo` the
slots as operations of the leg found them, by operation number, until its boundary is made (R210); `kheld` is the K-block that did
not commit. -/
structure Press where
  ac : Vector AcBank 8
  mg : Vector MgSlot 16
  shadow : List (Nat × AcBank)
  shtags : List (Nat × Nat × AcTag)
  mgUndo : List (Nat × Nat × MgSlot)
  shdw : BitVec 8
  fq : List PressCmd
  cq : List PressCmd
  fqFree : Nat
  cqFree : Nat
  pend : Bool
  held : Option FpCls
  kheld : Nat
  esnap : BitVec 32
  donec : BitVec 16
  step : Nat
  legDone : Nat
  deriving DecidableEq, Repr

/-- A Sprinter queue entry (R270, R385): the operation with its operand values, its tiles, the chunks committed and
written, for BARARR the captured generation, the blob bytes an UNSEAL has read, and for a SEAL the key of its tenant's SEAL entry at its issue
(R266). -/
structure SprCmd where
  id : Nat
  i : Instr
  s1 : Word
  s2 : Word
  sd : Word
  tile : Option TileId
  src : Option TileId
  leg : Nat
  quar : Bool
  start : Option Nat
  chunk : Nat
  from0 : Nat
  issued : Nat
  written : List (Nat × Nat)
  gen : Option (BitVec 32)
  relays : List Nat
  held : Bool
  stop : Bool
  stamp : BitVec 20
  nonce : Word
  ok : Bool
  buf : Memory
  bad : List Nat
  after : Nat
  key : BitVec 256
  deriving DecidableEq, Repr
/-- The Sprinter (R270, R283). `hamper` entries that committed enter at the tail. -/
structure Sprinter where
  q : List SprCmd
  esnap : BitVec 32
  donec : BitVec 16
  usr : BitVec 3
  stale : Bool
  legDone : Nat
  deriving DecidableEq, Repr
/-- A Relay queue entry (R278): operation, tile, mask, its number for this mask, the cycle its current step completes in; `rows` are the
tile's rows with their stain bits as the collective started (R280). -/
structure RelCmd where
  id : Nat
  i : Instr
  tile : TileId
  mask : Word
  seqNo : Nat
  quar : Bool
  started : Bool
  due : Nat
  rows : List (List Byte × Bool)
  deriving DecidableEq, Repr
/-- A runner's Relay port (R278, R283). -/
structure Relay where
  q : List RelCmd
  seqs : List (Nat × Nat)
  esnap : BitVec 32
  donec : BitVec 16
  step : Nat
  err : BitVec 3
  stale : Bool
  deriving DecidableEq, Repr

/-- An A-slice table operation that holds the slice until it completes (R224, R246): TDEF, the PW forms, KEYLD, KEYROT,
SCRUB. `guards`, `br` and `marked` are those of its bundle; `img` is what of the image has been read, `need` its length; `done` the cycle
in which it completes, `applied` that the write has been made and its pre-emptions go on (R266), `tries` the reads that failed, `bad` that
the read under way has met a failed line, `stamp` that of its read (R311), `saves` the squads whose pre-emption a PWQUOTA waits for. -/
structure TabOp where
  id : Nat
  i : Instr
  s1 : Word
  s2 : Word
  pc : Word
  issue : Nat
  guards : BitVec 3
  br : Option Br
  marked : Bool
  img : List Byte
  need : Nat
  applied : Bool
  tries : Nat
  bad : Bool
  done : Option Nat
  stamp : BitVec 20
  saves : List Nat
  deriving DecidableEq, Repr

/-- A trap to be taken or held (R357, R313): the cause word, address, slot to resume; `freeze` when the A slice is frozen
from its taking (R343). -/
structure PTrap where
  cause : BitVec 8
  detail : BitVec 32
  slot : Nat
  resume : Nat
  xaddr : Word
  freeze : Bool
  deriving DecidableEq, Repr

/-- Why a slice does not issue. -/
inductive SlRun
  /-- Issuing bundles. -/
  | run
  /-- Never released, or released. -/
  | off
  /-- Stopped for pre-emption (R378). -/
  | stopped
  /-- Stopped at a trapped bundle with a held trap (R357). -/
  | trapHeld
  deriving DecidableEq, Repr

/-- A patch table entry (R238). -/
structure Patch where
  len : Nat
  next : Option Nat
  deriving DecidableEq, Repr
/-- A copy of a patch into the half that was idle at its start (R239): the patch, its completion cycle, and whether that is half 1. -/
structure PatchCopy where
  patch : Nat
  fin : Nat
  half1 : Bool
  deriving DecidableEq, Repr
/-- The instruction memory of a slice (R18, R237-R239): the patch in each half, the half executing, the bytes of each half,
the code sections of the object by patch number, the table and a copy in progress. -/
structure IMem where
  half0 : Option Nat
  half1 : Option Nat
  bytes0 : Memory
  bytes1 : Memory
  active1 : Bool
  code : List (Nat × Memory)
  tab : List (Nat × Patch)
  copy : Option PatchCopy
  deriving DecidableEq, Repr

/-- What one slice holds beyond the Fold items: run state, unlanded results, pending or held trap, instruction memory,
handler vector; `taken` is the latest trap taken, its cycle and the registers with which it would have been held (R357). -/
structure SliceX where
  st : SlRun
  pend : List Pend
  trap : Option PTrap
  im : IMem
  vector : Option Word
  taken : Option (Nat × PTrap × Strm)
  deriving DecidableEq, Repr

/-- A rewind in progress: its cause, the cycle of re-entry (R371), the loads performed again before it (R344). -/
structure Rewind where
  cause : Nat
  at_ : Nat
  redo : List Nat
  deriving DecidableEq, Repr

/-- The whole of one runner. -/
structure Runner where
  num : Nat
  squad : Option Nat
  owner : Nat
  heatid : Word
  squadid : Word
  leg : Leg
  fold : Fold
  legNo : Nat
  /-- The fresh-value counter as the leg began: what has a number from there on belongs to the leg (R366). -/
  legSeq : Nat
  cx : SliceX
  ax : SliceX
  /-- Cycle of a leg boundary that an operation of an earlier bundle makes (R366). -/
  legEnd : Option Nat
  /-- Pops not yet seen by the other slice, with the cycle from which they are (R332). -/
  freed : List (QName × Nat)
  laq : List LaqE
  saq : List SaqE
  lod : BitVec 32
  qdrain : Option (Bool × Nat)
  hamper : List HamE
  hamFull : Bool
  strong : List StrongE
  bars : Nat
  av : Vector (BitVec 20) 64
  /-- The vector of the last release fence, and what relaxed reads have read for an acquire fence (R308, R311); empty: none. -/
  frel : List (BitVec 20)
  facq : List (BitVec 20)
  extents : List (Nat × Extent)
  tubWin : Window
  vatWin : Window
  shapes : List (Nat × List Byte)
  tiles : List (Nat × Tile)
  undo : List TileUndo
  basin : Memory
  press : Press
  spr : Sprinter
  relay : Relay
  tabop : Option TabOp
  rwcnt : Nat
  rwcause : Nat
  rewind : Option Rewind
  /-- Extents whose presence a not-present hold waits for (R236). -/
  holdNp : List Nat
  /-- The exchange this runner has reached: the slice of its bundle, and when (R375). -/
  exchAt : Option (Slice × Nat)
  ackm : BitVec 7
  packpc : Option Word
  /-- Pre-emption requested (R377). -/
  preempt : Bool
  stopReq : Bool
  slipst : BitVec 64
  popst : BitVec 64
  rewinds : Vector (BitVec 32) 4
  softrep : BitVec 32
  /-- LOD when the runner was placed, and the cycle from which it has held no squad (R422, R430). -/
  lodFrom : BitVec 32
  idleAt : Nat
  gated : Bool
  withdrawn : Bool
  deriving DecidableEq, Repr

end Sys2Proof.Machine
end

