-- ==== Sys2Proof/Machine/ModuleTypes.lean ====
section
/-! DEFINITION. The types of the state outside the runners: memories and their protection, calendars, the tables of
owners, leases and keys, queues, heats and squads, the auditor, and the boundary (08-12, 15-17). -/

namespace Sys2Proof.Machine

/-- The protection state of one 64-byte line (R299-R301): owner and generation of its key, the counter it is encrypted under (the major
counter of its leaf when it was, and its minor counter), whether its check bits or tag fail, and whether it is its check bits (`ecc`). -/
structure Line where
  owner : Nat
  gen : Bool
  major : Nat
  minor : Nat
  failed : Bool
  ecc : Bool
  deriving DecidableEq, Repr
/-- A race record (R310). -/
structure Race where
  rmask : BitVec 64
  rs : BitVec 20
  ws : BitVec 20
  w : BitVec 6
  wstr : Bool
  wv : Bool
  deriving DecidableEq, Repr
/-- A granule with a race record: of physical memory, of a cluster's Tub or of a die's Vat. -/
inductive Granule | phys (n : Nat) | tub (cl n : Nat) | vat (die n : Nat)
  deriving DecidableEq, Repr
/-- An error log entry (R285) with its order of arrival. -/
structure LogE where
  addr : Word
  owner : Nat
  run : Nat
  arr : Nat
  syn : BitVec 8
  cnt : Nat
  inj : Bool
  ue : Bool
  deriving DecidableEq, Repr
/-- A failed word of an on-chip array (R284, R465): array code, instance, word offset, injected, uncorrectable or not; `tag`: a Vat line
whose integrity tag fails. -/
structure FailW where
  arr : Nat
  inst : Nat
  off : Nat
  inj : Bool
  ue : Bool
  tag : Bool
  deriving DecidableEq, Repr

/-- What a memory request is for (R290, R291). -/
inductive ReqFor
  /-- Elements of a load of runner `run`. -/
  | load (run id : Nat) (els : List Nat)
  /-- A block of chunk k of a Sprinter command. -/
  | chunk (run id k : Nat)
  /-- A strong access. -/
  | strong (run id : Nat)
  /-- A descriptor or image read of a table operation. -/
  | table (run : Nat)
  /-- Elements of a committed Hamper store. -/
  | store (run id : Nat) (els : List Nat)
  /-- A peer's request on a LESSOR entry. -/
  | lease (entry line seqNo : Nat)
  /-- A release by firmware for an owner, held until its earlier writes have been performed (R394, R417). -/
  | held (owner : Nat)
  /-- A firmware transfer for an owner, of the command with number `tag` (0: of none); one that brings no bytes of its own only takes its
  slot, its bytes are accounted where firmware acts. -/
  | fw (tag owner : Nat)
  deriving DecidableEq, Repr
/-- A link's answer to a request: good, an error, or a reply whose tag or counter check fails (R297, R298, R301). -/
inductive LinkAns | good | error | forged
  deriving DecidableEq, Repr
/-- An outstanding request (R291, R292): `chan` none for the far tier and the host window; `start` once it has its slot; `els` are the
pieces of physical memory it reads or writes, from `pa` on over `len` bytes; `reply` is a link's answer that has come (R296, R298); `mend`:
it takes a mending slot (R302). -/
structure Req where
  id : Nat
  run : Nat
  chan : Option Nat
  pa : Nat
  va : Word
  len : Nat
  els : List (Nat × Nat)
  write : Bool
  data : List Byte
  elig : Nat
  order : Nat
  use : ReqFor
  start : Option Nat
  arrive : Option Nat
  reply : Option LinkAns
  fail : Bool
  mend : Bool
  deriving DecidableEq, Repr
/-- A calendar (R253, R290, R293, R420): position owners and holders (others unowned, unheld), owner changes due at the next
lap boundary or at release, an inserted mending lap, a retraining stop, rows with activations, rows whose parity failed, mitigations
owed, rows that are not precharged until an entry of MITQ frees. -/
structure Chan where
  own : List (Nat × Nat)
  hold : List (Nat × Nat)
  due : List (Nat × Nat)
  mend : Option Nat
  stop : Bool
  act : List ((Nat × Nat) × Nat)
  badpar : List (Nat × Nat)
  mitq : List (Nat × Nat)
  stalled : List (Nat × Nat)
  deriving DecidableEq, Repr

/-- The memories (10, 11, 12). `lines` holds the protection of lines by number, those of the Vats from 2^52 on (`vatLine`). `rels` holds, by squad and 4-byte word, the vector released with the value there (R311). Counter trees (R300)
are numbered 0 to 11 for the stacks, 12 to 15 for the Vats, 16 for the near tier, 17 + i for LESSEE entry i: `major` holds the leaves' major
counters, by tree and leaf, `nodes` how many writes are counted under a block of a tree, by tree, level (0: leaves) and index, `roots` the
roots, `reenc` leaves whose lines are still to be re-encrypted; `fills` counts how often the lines of a page not listed have been written
with it (R289), `filled` how often all of its lines have.
`tileLog` holds the tile entries as they were before the issues of the current cycle (R217, R226): by array, instance and index. -/
structure MemSys where
  phys : Memory
  lines : List (Nat × Line)
  major : List ((Nat × Nat) × Nat)
  nodes : List ((Nat × Nat × Nat) × Nat)
  roots : List (Nat × Nat)
  reenc : List (Nat × Nat)
  fills : List ((Nat × Nat) × Nat)
  filled : List ((Nat × Nat) × Nat)
  tileLog : List ((Nat × Nat × Nat) × Option Tile)
  tub : List (Nat × Memory)
  tubTiles : List (Nat × List (Nat × Tile))
  vat : List (Nat × Memory)
  vatTiles : List (Nat × List (Nat × Tile))
  races : List (Granule × Race)
  rels : List ((Nat × Nat) × List (BitVec 20))
  pool : List (Nat × Nat)
  logs : List ((Nat × Nat) × List LogE)
  einj : List (Nat × Word)
  failed : List FailW
  reqs : List Req
  chans : List (Nat × Chan)
  low : BitVec 12
  trip : BitVec 12
  rateDue : List (Nat × Nat)
  retrain : List (Nat × Nat)
  errsum : Nat
  deriving DecidableEq, Repr

/-- Quota modes (R247). -/
inductive QMode | none | fixed | shared
  deriving DecidableEq, Repr
/-- A quota entry (R247). -/
structure Quota where
  rmask : BitVec 256
  qslot : Nat
  maxlease : Nat
  keymax : Nat
  maxrun : Nat
  mode : QMode
  deriving DecidableEq, Repr
/-- A weight entry (R249): the stored weight, the one in force this window, PMAX, the PMAX in force this round (R266). -/
structure Weight where
  w : Nat
  cur : Nat
  pmax : Nat
  pcur : Nat
  deriving DecidableEq, Repr
/-- A granularity entry (R250). -/
structure Gran where
  quantum : Nat
  near : Bool
  deriving DecidableEq, Repr
/-- A valid pleat (R251) with its channel-local base in each of its channels (R288). -/
structure Pleat where
  cmask : BitVec 32
  smask : BitVec 12
  gran : Nat
  owner : Nat
  len : Nat
  pbase : Nat
  bases : List (Nat × Nat)
  deriving DecidableEq, Repr
/-- A message of a LESSEE entry that has not been answered (R296, R297, R445): the request it belongs to, the port it went out on (none: it
waits for one), line or block of the lent range, number, what it writes; of a read the counter state and the address that its tag binds. -/
structure FarMsg where
  req : Nat
  port : Option Nat
  line : Nat
  seqNo : Nat
  write : Bool
  data : List Byte
  want : Line
  addr : Nat
  deriving DecidableEq, Repr
/-- A lease entry that is not FREE (R255); a LESSEE's unanswered messages; of a LESSOR the number of the last write applied to each line,
and the lessee's tree nodes and race records that the lent range's share of the reserved regions holds (R297). -/
structure Lease where
  notice : Nat
  deadline : Nat
  rbase : Nat
  len : Nat
  lbase : Nat
  peer : Nat
  ports : BitVec 16
  owner : Nat
  revoking : Bool
  lessor : Bool
  seqNo : Nat
  applied : List (Nat × Nat)
  noPorts : Bool
  unanswered : List FarMsg
  resv : List (Nat × List Byte)
  deriving DecidableEq, Repr
/-- Key entry kinds (R257). -/
inductive KeyKind | mem | seal | model
  deriving DecidableEq, Repr
/-- A key entry that is not EMPTY (R257). -/
structure KeyE where
  key : BitVec 256
  modelid : Nat
  owner : Nat
  gen : Bool
  kind : KeyKind
  deriving DecidableEq, Repr
/-- Tenant key state (R257) and image counter (R387). -/
structure TKey where
  curgen : Bool
  sweep : Bool
  mem0 : Option Nat
  mem1 : Option Nat
  sealIx : Option Nat
  rotcnt : BitVec 32
  sealctr : Nat
  ctxn : Nat
  deriving DecidableEq, Repr
/-- A valid leaf of a tenant's translation table (R234): page address and size, physical address, bits; `gen` is the generation
its lines were first written under, `swept` the lines a rotation sweep has rewritten since (R259). -/
structure Leaf where
  owner : Nat
  va : Nat
  size : Nat
  pa : Nat
  so : Bool
  p : Bool
  w : Bool
  r : Bool
  gen : Bool
  swept : Nat
  deriving DecidableEq, Repr
/-- A weight set (R411): range and loaded bit. -/
structure WSet where
  base : Nat
  len : Nat
  loaded : Bool
  deriving DecidableEq, Repr
/-- A model of a weight-set table (R411). -/
structure WModel where
  owner : Nat
  model : Nat
  s0 : WSet
  s1 : WSet
  cur : Bool
  deriving DecidableEq, Repr
/-- An owner's audit settings and counts (R425, R426). -/
structure AudCfg where
  fracv : Nat
  polv : Bool
  fracf : Nat
  polf : Bool
  sel : Nat
  skip : Nat
  mis : Nat
  deriving DecidableEq, Repr
/-- An owner's meter (R423): PRESS by format code, BYTES by tier and direction. -/
structure Meter where
  runns : Nat
  press : List (Nat × Nat)
  bytes : List (Nat × Nat)
  lanes : Nat
  lod : Nat
  slipst : Nat
  popst : Nat
  rewind : List (Nat × Nat)
  softrep : Nat
  seq : Nat
  deriving DecidableEq, Repr
/-- The tables of owners (09, 15, 16); an index not listed has its reset value. `quotaNow` is what is in force of `quota`: increases
count from the next scheduling round (R266). -/
structure Tables where
  quota : List (Nat × Quota)
  quotaNow : List (Nat × Quota)
  weight : List (Nat × Weight)
  gran : List (Nat × Gran)
  pleats : List (Nat × Pleat)
  leases : List (Nat × Lease)
  keys : List (Nat × KeyE)
  tkeys : List (Nat × TKey)
  leaves : List Leaf
  wsets : List WModel
  lent : List ((Nat × Nat) × (BitVec 64 × Nat))
  aud : List (Nat × AudCfg)
  meters : List (Nat × Meter)
  ktk : Option (BitVec 256)
  expected : List ((Word × Nat × Nat) × Nat)
  deriving DecidableEq, Repr

/-- A queue descriptor (R389). -/
structure QDesc where
  rbase : Nat
  rsize : Nat
  prio : Nat
  die : Nat
  cmode : Bool
  ecount : Nat
  esize : Nat
  etime : Nat
  rptr : Nat
  evbase : Nat
  ewptr : Nat
  econ : Nat
  vector : Nat
  deriving DecidableEq, Repr
/-- An open queue (R388-R392, R398, R417): `bellIn` is the doorbell seen before the current polling cycle; `blk` the started
WAIT or BARRIER_PKT; `late` completion stores whose page is not present, with status word and fault address. -/
structure Queue where
  func : Nat
  qid : Nat
  d : QDesc
  token : BitVec 16
  read : BitVec 32
  bell : BitVec 32
  bellAt : Nat
  bellIn : BitVec 32
  slot : Option Nat
  parked : Option Nat
  pend : List Pkt
  blk : Option Pkt
  npSince : Option Nat
  late : List (Pkt × Word × Word)
  evW : Nat
  eovf : Nat
  unsig : Nat
  firstUnsig : Option Nat
  stopped : Bool
  serial : Nat
  deriving DecidableEq, Repr
/-- A started command that takes time (R397): the cycle it may complete, its status, runners still to acknowledge,
progress in steps, physical pages set aside, the image read, the key captured (R266); `queued` while its table write waits for earlier
ones (R246), `saves` the squads whose pre-emption it waits for (R266). -/
structure Cmd where
  id : Nat
  pkt : Pkt
  pages : List (Nat × Nat)
  img : List Byte
  key : BitVec 256
  due : Nat
  status : BitVec 8
  detail : BitVec 16
  acks : List Nat
  steps : Nat
  queued : Bool
  saves : List Nat
  deriving DecidableEq, Repr
/-- An extent declaration of an object (R242). -/
structure ExtDecl where
  n : Nat
  r : Bool
  w : Bool
  so : Bool
  split : Bool
  deriving DecidableEq, Repr
/-- A loaded object (R68, R69, R242). -/
structure Obj where
  codeA : List (Nat × Memory)
  codeC : List (Nat × Memory)
  tabA : List (Nat × Patch)
  tabC : List (Nat × Patch)
  entryA : Word
  entryC : Word
  vecA : Option Word
  vecC : Option Word
  data : List Byte
  shapes : List (List Byte)
  tub : Option (Nat × Nat)
  vat : Option (Nat × Nat)
  exts : List ExtDecl
  nrun : Nat
  h : Bool
  deriving DecidableEq, Repr
/-- A launched heat (R28, R401, R413). `detail` is the DETAIL of a fatal cause that ended it (R353). -/
structure Heat where
  id : Word
  owner : Nat
  queue : Nat
  token : BitVec 16
  pkt : Pkt
  obj : Obj
  nsq : Nat
  csw : Word
  slip : BitVec 7
  dies : BitVec 4
  arg : Word
  ranges : List (Nat × Nat × Nat)
  shapes : List (Nat × List Byte)
  wbind : Option (Nat × Bool)
  level : Nat
  paused : Bool
  stale : Bool
  audit : Bool
  ended : Option (Word × Nat)
  detail : Nat
  xaddr : Word
  deriving DecidableEq, Repr
/-- States of a squad (R402, R377). -/
inductive SqState | ready | running | saving | saved
  deriving DecidableEq, Repr
/-- A squad (R25-R28): its runners by index, its state, release sequence (R310), dispatch time, deadline of a request;
generation and swept lines of its Vat window (R259), the QUANTUM in force at its dispatch, the SAVE tier in force when its pre-emption
was asked for (R266), and whether that recalls lent runners (R36). -/
structure Squad where
  id : Nat
  heat : Word
  owner : Nat
  level : Nat
  sqn : Nat
  nrun : Nat
  runners : List Nat
  state : SqState
  srs : BitVec 20
  at_ : Nat
  quantum : Nat
  request : Option Nat
  exch : Option Nat
  hold : Bool
  near : Bool
  recalled : Bool
  vatGen : Bool
  vatSwept : Nat
  deriving DecidableEq, Repr
/-- A saved context image (R382, R383): its header fields, `len` being IMGLEN, and the saved runner. Tub and Vat sections stand in `tub`, `vat`; `races` are the race
records of the windows' granules, counted from the windows' first bytes (R314); `cap` is the capture of a pass that is under way (R427). -/
structure Image where
  owner : Nat
  nonce : Nat
  heat : Word
  sqn : Nat
  idx : Nat
  nrun : Nat
  gen : Bool
  swept : Nat
  split : Nat
  hbase : Nat
  nbase : Nat
  time : Nat
  commit : Nat
  ok : Bool
  len : Nat
  cluster : Nat
  run : Runner
  tub : List (Nat × Tile) × Memory
  vat : List (Nat × Tile) × Memory
  races : List ((Bool × Nat) × Race)
  srs : BitVec 20
  cap : Option (List (Nat × MgSlot) × List (Nat × AcBank))
  deriving DecidableEq, Repr
/-- A stored audit pass (R427, R428), with the policy in force as it completed (R425). -/
structure Pass where
  id : Nat
  run : Nat
  heat : Word
  owner : Nat
  pc : Word
  cmd : PressCmd
  ops : List (Nat × MgSlot)
  banks : List (Nat × AcBank)
  sig : BitVec 64
  due : Nat
  first : Option (Nat × BitVec 64)
  kill : Bool
  deriving DecidableEq, Repr
/-- A record of a heat's event stream not yet written to the ring (R416): heat, kind, bits 63-0 and 127-64. -/
structure Evt where
  heat : Word
  kind : Nat
  lo : Word
  hi : Word
  deriving DecidableEq, Repr
/-- A runner whose image streams out: the cycle in which it is complete, its base, and the bytes that were there when a thermal trip sent
the rest to the near tier (R294). -/
structure Save where
  run : Nat
  due : Nat
  base : Nat
  split : Option Nat
  deriving DecidableEq, Repr
/-- Firmware, Starter, Marshal and auditor (14, 15, 16). -/
structure Fw where
  evq : List Evt
  queues : List (Nat × Queue)
  cmds : List Cmd
  heats : List Heat
  squads : List Squad
  images : List Image
  hseq : List (Nat × BitVec 32)
  defs : List ((Nat × Nat × Nat) × Int)
  ptrs : List ((Nat × Nat) × Nat)
  sel : Vector (BitVec 32) 4
  store : List (Nat × List Pass)
  replays : List ((Nat × Nat) × Pass)
  capture : List (Nat × List (Nat × MgSlot) × List (Nat × AcBank))
  quar : List Nat
  mism : List (Nat × Nat)
  retired : List Nat
  tests : List Nat
  hot : List (Nat × Bool)
  dieHot : List Nat
  powerHold : Bool
  powerOver : Option Nat
  readings : Readings
  flowLost : Bool
  scrubs : List Nat
  clearing : List (Nat × Nat)
  saving : List Save
  releasing : List (Nat × Nat)
  late : List (Pkt × Word × Word)
  deriving DecidableEq, Repr

/-- TDISP states (R437). -/
inductive Tdi | unlocked | locked | run | error
  deriving DecidableEq, Repr
/-- A function's registers (R435, R436). -/
structure Func where
  n : Nat
  enabled : Bool
  cqdesc : List Byte
  cqen : Bool
  stop : Bool
  tdi : Tdi
  msix : List (Nat × Byte)
  pba : List Nat
  bells : List (Nat × BitVec 32)
  deriving DecidableEq, Repr
/-- A secure or keyed IDE stream (R438). -/
structure IdeStream where
  n : Nat
  first : Nat
  last : Nat
  secure : Bool
  deriving DecidableEq, Repr
/-- An SPDM session (R442). -/
structure Spdm where
  id : Nat
  func : Option Nat
  fin : Bool
  deriving DecidableEq, Repr
/-- A Rigal session (R446). -/
structure Rigal where
  peer : Nat
  m : BitVec 256
  ports : BitVec 16
  step : Nat
  initiator : Bool
  isOpen : Bool
  flits : Nat
  flitsIn : Nat
  rekeying : Bool
  script : List Byte
  secret : List Byte
  keys : List (BitVec 256)
  at_ : Nat
  deriving DecidableEq, Repr
/-- A host-window request: memory read or write, or an AtomicOp (R434). -/
inductive HostOp | read | write | fetchAdd | swap | cas
  deriving DecidableEq, Repr
/-- What the module sends out of itself. -/
inductive OutMsg
  | msix (func vec : Nat)
  | spdm (func : Option Nat) (code : Nat) (body : List Byte)
  | rigal (port step : Nat) (body : List Byte)
  | lease (port entry line seqNo : Nat) (write : Bool) (data : List Byte)
  | leaseReply (entry line : Nat) (ok : Bool) (data : List Byte)
  | host (req func addr len : Nat) (op : HostOp) (data : List Byte)
  | peer (entry : Nat) (revoke : Bool)
  deriving DecidableEq, Repr
/-- The boundary (17). -/
structure Boundary where
  funcs : List (Nat × Func)
  ide : List IdeStream
  spdm : List Spdm
  negotiated : List Nat
  portUp : BitVec 16
  rigal : List Rigal
  agreed : List Nat
  modid : BitVec 16
  rgacc : List Byte
  pcap : Nat
  pcapDue : Nat
  hbmReq : BitVec 12
  mr : Vector (BitVec 256) 4
  m : BitVec 256
  minSvn : Nat
  booted : Bool
  refused : Option (BitVec 256)
  released : Bool
  actth : Nat
  conf : List Byte
  out : List OutMsg
  deriving DecidableEq, Repr

/-- How far the bundle being issued has come. -/
inductive Status
  /-- Its slots go on. -/
  | ok
  /-- It waits and is undone. -/
  | wait
  /-- A slot trapped, a rewind was taken or the heat ended: later slots do nothing. -/
  | stopped
  /-- A slot raised ILLEGAL_OPERAND for its operands' values: later slots do nothing (R354). -/
  | illegal
  /-- A check of R63 failed: its trap has been taken and no slot takes effect. -/
  | whole
  /-- A clear present bit was met: the leg has been rewound and no slot takes effect (R354). -/
  | np
  /-- The bundle makes a leg boundary before it goes on (R275). -/
  | bound
  deriving DecidableEq, Repr
/-- The bundle being issued (the model's own): runner, address, status, the guards of slots 1 to 3 once read, whether the
bundle is re-entered (R359), whether a slot ended the leg (R366), whether its mark has taken effect (R359), the branch it holds; `pre` is the runner's cycle, the
fresh-value counter and the Fold items as the cycle began, `cmark` whether its C slice made a boundary in this cycle. -/
structure Cur where
  run : Nat
  pc : Word
  st : Status
  guards : Option (BitVec 3)
  reent : Bool
  endLeg : Bool
  marked : Bool
  br : Option Br
  pre : Option (Nat × Nat × Fold)
  cmark : Bool
  deriving DecidableEq, Repr
/-- The events that the machine makes happen by itself, each the event of `Instr` of the same name; `command` is any command
packet. -/
inductive Act
  | tableWriteComplete (r : Nat)
  | resultLands (r : Nat) (sl : Slice) (n : Nat)
  | ifqReinjection (r : Nat) (sl : Slice) (n : Nat)
  | waitElapsed (r : Nat) (sl : Slice)
  | queueEntryVisible (r : Nat) (q : QName)
  | qdrainTakesEffect (r : Nat)
  | storeMatch (r : Nat)
  | rewindReentry (r : Nat)
  | notPresentHoldRelease (r : Nat)
  | extentAcknowledge (r x : Nat)
  | exchangePass (q : Nat)
  | barsComplete (q : Nat)
  | strongAccessPerform (r n : Nat)
  | barrierArrival (r : Nat)
  | dataSlot (ch : Nat)
  | dataArrival (n : Nat)
  | lapBoundary (ch : Nat)
  | mendingSlot (ch : Nat)
  | rowPrecharge (ch bank row : Nat)
  | sweepComplete (o : Nat)
  | dataRateChange (k : Nat)
  | retrainingDone (k : Nat)
  | pressCommandStart (r : Nat) (q : PressQ)
  | kBlockCommit (r : Nat)
  | pressCommandComplete (r : Nat) (q : PressQ)
  | sprinterCommandStart (r : Nat)
  | sprinterChunkCommit (r : Nat)
  | sprinterCommandComplete (r : Nat)
  | collectiveStart (q : Nat) (mask : Word)
  | collectiveStep (q : Nat) (mask : Word)
  | patchCopyComplete (r : Nat) (sl : Slice)
  | runnerFinish (r : Nat)
  | eventInterruptTimer (n : Nat)
  | preemptAcknowledge (r : Nat) (it : AckItem)
  | contextSaveComplete (r : Nat)
  | runnerRelease (r : Nat)
  | pollingSlot (d k : Nat)
  | backgroundStep (d : Nat)
  | waitFaultTimeout (n : Nat)
  | schedulingRound
  | fairnessWindow
  | leaseDeadline (i : Nat)
  | command (p : Pkt)
  | commandComplete (n : Nat)
  | powerOverrun
  | runnerPowerGate (r : Nat)
  | auditReplay (d k : Nat)
  | auditReplayComplete (d k : Nat)
  deriving DecidableEq, Repr
/-- What is to happen next (the model's own): an input from outside, an event of the machine's own, the issue of a slice's next
bundle, a leg boundary that an operation of an earlier bundle makes, or phase k of the cycle, which says what happens in
it. DEDUCED, log entry 65. -/
inductive Todo
  | ev (i : Instr)
  | act (a : Act)
  | issue (run : Nat) (sl : Slice)
  | boundary (run : Nat)
  | plan (k : Nat)
  deriving DecidableEq, Repr

end Sys2Proof.Machine
end

