-- ==== Sys2Proof/Machine/State.lean ====
section
/-! DEFINITION. The state of the module, why it can stop, and the state after cold reset. -/

namespace Sys2Proof.Machine

/-- The machine's state. `agenda` says what happens next and `inbox` holds inputs from outside with the cycle they come
in; `seq` numbers fresh values; `cur` is the bundle being issued. These four are the model's own (notes/assumptions/2). -/
structure State where
  cycle : Nat
  seq : Nat
  agenda : List Todo
  inbox : List (Nat × Instr)
  cur : Cur
  runners : List Runner
  mem : MemSys
  tabs : Tables
  fw : Fw
  bnd : Boundary
  deriving DecidableEq, Repr

/-- Why the machine stops. No rule of the manual stops the part; a run ends a heat, not the machine. -/
inductive Fault
  /-- Raised by an agenda entry that names no runner of R22: safe, no such runner exists. -/
  | noSuchRunner
  deriving DecidableEq, Repr

/-- Why the model gives an instruction no meaning. -/
inductive Refusal
  /-- Raised by an arm of `exec` without a meaning: safe, nothing can be proved of it. -/
  | notModelled (mnemonic : String)
  deriving DecidableEq, Repr

/-- The registers of a slice at reset (R113-R124 give launch values; before a launch they are zero, log entry 1).
DESIGN CHOICE, log entry 1. -/
def Strm.reset : Strm :=
  { pc := 0, br := none, wait := 0, reentry := none, marked := false, done := false,
    acked := false, sw := 0, xpc := 0, tsh := none, ifq := [], preds := 0, lc := 0, lfc := 0,
    rot := 0, prot := 0 }

/-- A vector file of zeros (R147). -/
def VFile.reset : VFile := { d := Vector.replicate 32 0, stain := 0, poison := 0 }

/-- The Fold items at reset: zero, LIM 1, CELLCFG 0xFF (R190; log entry 1). DESIGN CHOICE, log entry 1. -/
def Leg.reset : Leg :=
  { g := Vector.replicate 32 0, gp := 0, a := Vector.replicate 32 0, va := VFile.reset, vb := VFile.reset,
    sda := 0, sdb := 0, lim := 1, cellcfg := 0xFF, xcause := 0, xaddr := 0, xcnt := 0, xleg := false, frozen := false,
    ldq0 := [], ldq1 := [], sdq := [], ixq := [], caq := [], acq := [], c := Strm.reset, s := Strm.reset }

/-- An empty accumulator bank (R181). -/
def AcBank.reset : AcBank := { d := List.replicate 1024 0, stain := 0, tag := .zero }
/-- A free Mangle slot (R184). -/
def MgSlot.reset : MgSlot :=
  { d := List.replicate 32 0, stain := 0, st := .free, fmt := .s8, k := 0, spn := none, rows := 0, rmap := false, rd := 0 }
/-- The Press at reset (R181, R184, R187). -/
def Press.reset : Press :=
  { ac := Vector.replicate 8 AcBank.reset, mg := Vector.replicate 16 MgSlot.reset, shadow := [], shtags := [], mgUndo := [], shdw := 0,
    fq := [], cq := [], fqFree := 0, cqFree := 0, pend := false, held := none, kheld := 0, esnap := 0, donec := 0,
    step := 0, legDone := 0 }
/-- The Sprinter at reset (R270). -/
def Sprinter.reset : Sprinter := { q := [], esnap := 0, donec := 0, usr := 0, stale := false, legDone := 0 }
/-- The Relay port at reset (R278). -/
def Relay.reset : Relay := { q := [], seqs := [], esnap := 0, donec := 0, step := 0, err := 0, stale := false }
/-- An empty instruction memory (R18). -/
def IMem.reset : IMem :=
  { half0 := none, half1 := none, bytes0 := [], bytes1 := [], active1 := false, code := [], tab := [], copy := none }
/-- A slice that issues nothing. -/
def SliceX.reset : SliceX :=
  { st := .off, pend := [], trap := none, im := IMem.reset, vector := none, taken := none }
/-- No window (R215). -/
def Window.none : Window := { first := 0, count := 0, base := 0, size := 0 }

/-- Runner number `n` holding nothing (R10, R265). DESIGN CHOICE, log entry 1. -/
def Runner.reset (n : Nat) : Runner :=
  { num := n, squad := .none, owner := 0, heatid := 0, squadid := 0, leg := Leg.reset,
    fold := { leg := Leg.reset, inflC := [], inflA := [], ue := false }, legNo := 0, legSeq := 0, cx := SliceX.reset, ax := SliceX.reset,
    legEnd := .none, freed := [], laq := [], saq := [], lod := 0, qdrain := .none, hamper := [],
    hamFull := false, strong := [], bars := 0, av := Vector.replicate 64 0, frel := [], facq := [], extents := [], tubWin := Window.none,
    vatWin := Window.none, shapes := [], tiles := [], undo := [], basin := [], press := Press.reset,
    spr := Sprinter.reset, relay := Relay.reset, tabop := .none, rwcnt := 0, rwcause := 0, rewind := .none, holdNp := [],
    exchAt := .none, ackm := 0, packpc := .none, preempt := false, stopReq := false, slipst := 0, popst := 0,
    rewinds := Vector.replicate 4 0, softrep := 0, lodFrom := 0, idleAt := 0, gated := false, withdrawn := false }

/-- The numbers of the valid runners (R22): 256 dispatchable ones, then the eight audit runners. -/
def runnerNums : List Nat := List.range 256 ++ [0x100, 0x101, 0x140, 0x141, 0x180, 0x181, 0x1C0, 0x1C1]

/-- The memories at cold reset: every byte zero, nothing failed, no calendar position owned or held (R253, R267, R310). -/
def MemSys.reset : MemSys :=
  { phys := [], lines := [], major := [], nodes := [], roots := [], reenc := [], fills := [], filled := [], tileLog := [], tub := [], tubTiles := [], vat := [],
    vatTiles := [], races := [], rels := [], pool := [], logs := [], einj := [], failed := [], reqs := [], chans := [],
    low := 0, trip := 0, rateDue := [], retrain := [], errsum := 0 }

/-- The usable HBM range (R287). -/
def hbmBytes : Nat := 0xB400000000

/-- The tables at cold reset (R247, R249-R251, R255, R257). Pleat 15 covers the usable HBM with channel-local base 0. -/
def Tables.reset : Tables :=
  { quota := [], quotaNow := [], weight := [], gran := [],
    pleats := [(15, { cmask := 0xFFFFFFFF, smask := 0xFFF, gran := 4, owner := 0x7FF, len := hbmBytes, pbase := 0,
                      bases := [] })],
    leases := [], keys := [], tkeys := [], leaves := [], wsets := [], lent := [], aud := [], meters := [],
    ktk := none, expected := [] }

/-- Firmware, Starter and auditor at cold reset; SEL is a free non-zero value (R425, log entry 5). DESIGN CHOICE, log entry 5.
DESIGN CHOICE, log entry 6. -/
def Fw.reset : Fw :=
  { evq := [], queues := [], cmds := [], heats := [], squads := [], images := [], hseq := [], defs := [], ptrs := [],
    sel := Vector.ofFn fun d => BitVec.ofNat 32 (1 + Config.selSeed d.val % 0xFFFFFFFF),
    store := [], replays := [], capture := [], quar := [], mism := [], retired := [], tests := [], hot := [],
    dieHot := [], powerHold := false, powerOver := none,
    readings := { cluster := [], stack := [], railBad := [], power := 0, hub := 0, lpddr := [], coreV := [], hubV := [], process := [], flow := 0 }, flowLost := false, scrubs := [], clearing := [], saving := [], releasing := [], late := [] }

/-- The boundary at cold reset, before the boot ROM has loaded the images (R435-R440; ACTTH 256: log entry 4).
DESIGN CHOICE, log entry 4. -/
def Boundary.reset : Boundary :=
  { funcs := [], ide := [], spdm := [], negotiated := [], portUp := 0, rigal := [], agreed := [], modid := 0, rgacc := [],
    pcap := 2400, pcapDue := 2400, hbmReq := 0, mr := Vector.replicate 4 0, m := 0, minSvn := Config.fusedSvn,
    booted := false, refused := none, released := false, actth := 256, conf := [], out := [] }

/-- No bundle being issued. -/
def Cur.reset : Cur :=
  { run := 0, pc := 0, st := .ok, guards := none, reent := false, endLeg := false, marked := false, br := none, pre := none,
    cmark := false }

/-- The module right after cold reset (R10). -/
def State.reset : State :=
  { cycle := 0, seq := 0, agenda := [], inbox := [], cur := Cur.reset, runners := runnerNums.map Runner.reset,
    mem := MemSys.reset, tabs := Tables.reset, fw := Fw.reset, bnd := Boundary.reset }

end Sys2Proof.Machine
end

