-- ==== Sys2Proof/Machine/Mem.lean ====
section
/-! DEFINITION. Lists by key, bytes and words, and the canonical sparse memory. -/

namespace Sys2Proof.Machine

/-- The value listed under a key. -/
def aget {κ α : Type} [BEq κ] (l : List (κ × α)) (k : κ) : Option α :=
  match l with
  | [] => none
  | (k', v) :: t => if k' == k then some v else aget t k

/-- The list with a key's value replaced, or added at the end. -/
def aput {κ α : Type} [BEq κ] (l : List (κ × α)) (k : κ) (v : α) : List (κ × α) :=
  match l with
  | [] => [(k, v)]
  | (k', v') :: t => if k' == k then (k, v) :: t else (k', v') :: aput t k v

/-- The list without a key. -/
def adel {κ α : Type} [BEq κ] (l : List (κ × α)) (k : κ) : List (κ × α) := l.filter fun e => !(e.1 == k)

/-- The value under a key, or a default. -/
def agetD {κ α : Type} [BEq κ] (l : List (κ × α)) (k : κ) (d : α) : α := (aget l k).getD d

/-- Little-endian number of a list of bytes (R7). -/
def leNat : List Byte → Nat
  | [] => 0
  | b :: t => b.toNat + 256 * leNat t

/-- The low `n` bytes of a number, little-endian (R7). -/
def natLe : Nat → Nat → List Byte
  | 0, _ => []
  | n + 1, v => BitVec.ofNat 8 v :: natLe n (v / 256)

/-- Bytes `o` to `o + n - 1` of a list, as a number. -/
def fieldLe (l : List Byte) (o n : Nat) : Nat := leNat ((l.drop o).take n)

/-- `bits x lo n`: the n bits of x from bit lo. -/
def bits (x lo n : Nat) : Nat := x / 2 ^ lo % 2 ^ n

/-- Bits [lo + n - 1 : lo] of x replaced by the low bits of v. -/
def setBits (x lo n v : Nat) : Nat := x - bits x lo n * 2 ^ lo + v % 2 ^ n * 2 ^ lo

/-- Division rounded up. -/
def ceilDiv (a b : Nat) : Nat := (a + b - 1) / b

/-- What an address not listed reads as: zero (R267, R289; the host window: log entry 3). DESIGN CHOICE, log entry 3.
DESIGN CHOICE, log entry 60. -/
def Memory.default : Byte := 0

/-- The byte at an address. DESIGN CHOICE, log entry 60. -/
def Memory.get : Memory → Nat → Byte
  | [], _ => Memory.default
  | (k, v) :: t, a => if k = a then v else if a < k then Memory.default else Memory.get t a

/-- One byte written; the form stays canonical. -/
def Memory.put : Memory → Nat → Byte → Memory
  | [], a, b => if b = Memory.default then [] else [(a, b)]
  | (k, v) :: t, a, b =>
    if a < k then (if b = Memory.default then (k, v) :: t else (a, b) :: (k, v) :: t)
    else if a = k then (if b = Memory.default then t else (k, b) :: t)
    else (k, v) :: Memory.put t a b

/-- The canonical form: addresses strictly rising, no entry equal to what an unlisted address reads as. -/
def Memory.wf : Memory → Bool
  | [] => true
  | [(_, v)] => v != Memory.default
  | (k, v) :: (k', v') :: t => v != Memory.default && k < k' && Memory.wf ((k', v') :: t)

/-- `n` bytes from an address. -/
def Memory.read (m : Memory) (a : Nat) : Nat → List Byte
  | 0 => []
  | n + 1 => m.get a :: Memory.read m (a + 1) n

/-- A list of bytes written from an address. -/
def Memory.write (m : Memory) (a : Nat) : List Byte → Memory
  | [] => m
  | b :: t => Memory.write (m.put a b) (a + 1) t

/-- `n` zero bytes written from an address. -/
def Memory.zero (m : Memory) (a n : Nat) : Memory := m.filter fun c => !(a ≤ c.1 && c.1 < a + n)

end Sys2Proof.Machine
end

