-- ==== Sys2Proof/Machine/Ops.lean ====
section
/-! DEFINITION. The named operations over runners and registers: renaming, reading, issuing and landing results, the
system registers, taking a trap, ending a heat, and the return from a trap. -/

namespace Sys2Proof.Machine

/-- What a meaning answers. -/
abbrev Out := Host.Outcome State Fault Refusal

/-! ### Runners and slices -/

/-- The runner with a number. -/
def State.rn (s : State) (r : Nat) : Runner := (s.runners.find? fun x => x.num == r).getD (Runner.reset r)
/-- One runner changed. -/
def State.modR (s : State) (r : Nat) (f : Runner → Runner) : State :=
  { s with runners := s.runners.map fun x => if x.num == r then f x else x }
/-- The runner of the bundle being issued. -/
def State.me (s : State) : Runner := s.rn s.cur.run
/-- That runner changed. -/
def State.modMe (s : State) (f : Runner → Runner) : State := s.modR s.cur.run f

/-- A slice's registers in the Fold items. -/
def Leg.st (l : Leg) : Slice → Strm
  | .c => l.c
  | .a => l.s
/-- A slice's registers changed. -/
def Leg.modSt (l : Leg) (sl : Slice) (f : Strm → Strm) : Leg :=
  match sl with
  | .c => { l with c := f l.c }
  | .a => { l with s := f l.s }
/-- A runner's Fold items changed. -/
def Runner.modLeg (x : Runner) (f : Leg → Leg) : Runner := { x with leg := f x.leg }
/-- A slice's registers. -/
def Runner.st (x : Runner) (sl : Slice) : Strm := x.leg.st sl
/-- A slice's registers changed. -/
def Runner.modSt (x : Runner) (sl : Slice) (f : Strm → Strm) : Runner := x.modLeg fun l => l.modSt sl f
/-- What a slice holds beyond the Fold items. -/
def Runner.sx (x : Runner) : Slice → SliceX
  | .c => x.cx
  | .a => x.ax
/-- That changed. -/
def Runner.modX (x : Runner) (sl : Slice) (f : SliceX → SliceX) : Runner :=
  match sl with
  | .c => { x with cx := f x.cx }
  | .a => { x with ax := f x.ax }
/-- The other slice. -/
def otherSlice : Slice → Slice
  | .c => .a
  | .a => .c

/-! ### Status words (R122, R123) -/

/-- EXP: the slice is in exposed mode. -/
def Strm.exposed (t : Strm) : Bool := t.sw.getLsbD 2
/-- HND: a handler of the slice runs. -/
def Strm.hnd (t : Strm) : Bool := t.sw.getLsbD 11
/-- RESUME. -/
def Strm.resume (t : Strm) : Nat := (t.sw.extractLsb' 0 2).toNat
/-- One bit of a status word set or cleared. -/
def setBit (w : Word) (i : Nat) (b : Bool) : Word := if b then w ||| (1 <<< i) else w &&& ~~~((1 : Word) <<< i)
/-- RESUME replaced. -/
def Strm.withResume (t : Strm) (n : Nat) : Strm :=
  { t with sw := (t.sw &&& ~~~(3 : Word)) ||| BitVec.ofNat 64 (n % 4) }
/-- HND replaced. -/
def Strm.withHnd (t : Strm) (b : Bool) : Strm := { t with sw := setBit t.sw 11 b }
/-- EXP replaced. -/
def Strm.withExp (t : Strm) (b : Bool) : Strm := { t with sw := setBit t.sw 2 b }
/-- CSW.AUD (R122). -/
def Runner.aud (x : Runner) : Bool := x.leg.c.sw.getLsbD 6
/-- CSW.QUAR. -/
def Runner.quar (x : Runner) : Bool := x.leg.c.sw.getLsbD 7
/-- CSW.FEI. -/
def Runner.fei (x : Runner) : Bool := x.leg.c.sw.getLsbD 8
/-- CSW.FEZ. -/
def Runner.fez (x : Runner) : Bool := x.leg.c.sw.getLsbD 9
/-- CSW.FEO. -/
def Runner.feo (x : Runner) : Bool := x.leg.c.sw.getLsbD 10
/-- CSW.PRIV: the heat is at H (R33). -/
def Runner.atH (x : Runner) : Bool := x.leg.c.sw.getLsbD 15

/-- A runner that holds a heat. -/
def Runner.active (x : Runner) : Bool := x.cx.st != .off || x.ax.st != .off

/-! ### Renaming (R118) -/

/-- The physical register of a name. -/
def Strm.phys (t : Strm) (i : RegIx) : RegIx :=
  if i.toNat < 16 then i else BitVec.ofNat 5 (16 + (i.toNat - 16 + t.rot.toNat) % 16)
/-- The physical predicate of a name. -/
def Strm.pphys (t : Strm) (i : BitVec 4) : BitVec 4 :=
  if i.toNat < 8 then i else BitVec.ofNat 4 (8 + (i.toNat - 8 + t.prot.toNat) % 8)

/-! ### Register files -/

/-- Element i of a file of 32. -/
def vget {α : Type} (v : Vector α 32) (i : RegIx) : α := v.get ⟨i.toNat, i.isLt⟩
/-- Element i of a file of 32 replaced. -/
def vset {α : Type} (v : Vector α 32) (i : RegIx) (x : α) : Vector α 32 := v.set i.toNat x i.isLt
/-- Bit i of a 32-bit mask. -/
def mget (m : BitVec 32) (i : RegIx) : Bool := m.getLsbD i.toNat
/-- Bit i of a 32-bit mask replaced. -/
def mset (m : BitVec 32) (i : RegIx) (b : Bool) : BitVec 32 :=
  if b then m ||| (1#32 <<< i.toNat) else m &&& ~~~(1#32 <<< i.toNat)

/-- The raw value of a destination: register, seed, predicate, system register 0 (R113, R116, R147, R149). g0, a0 read
zero and p0, ap0 read true (R41). -/
def Leg.raw (l : Leg) : Dst → VWord
  | .g i => if i = 0 then 0 else (vget l.g i).setWidth 1024
  | .a i => if i = 0 then 0 else (vget l.a i).setWidth 1024
  | .va i => vget l.va.d i
  | .vb i => vget l.vb.d i
  | .p i => if i = 0 then 1 else if l.c.preds.getLsbD i.toNat then 1 else 0
  | .ap i => if i = 0 then 1 else if l.s.preds.getLsbD i.toNat then 1 else 0
  | .sda => l.sda
  | .sdb => l.sdb
  | _ => 0
/-- The raw stain of a vector register. -/
def Leg.rawStain (l : Leg) : Dst → Bool
  | .va i => mget l.va.stain i
  | .vb i => mget l.vb.stain i
  | _ => false
/-- The raw poison of a register. -/
def Leg.rawPoison (l : Leg) : Dst → Bool
  | .g i => i != 0 && mget l.gp i
  | .va i => mget l.va.poison i
  | .vb i => mget l.vb.poison i
  | _ => false

/-- The 1024-bit mask of a chunk mask (R360). -/
def chunkMask (m : BitVec 16) : VWord :=
  BitVec.ofNat 1024 ((List.range 16).foldl (fun a k => if m.getLsbD k then a + (2 ^ 64 - 1) * 2 ^ (64 * k) else a) 0)
/-- Bits of `new` where `m` is set, else of `old`. -/
def blend (m new old : VWord) : VWord := (new &&& m) ||| (old &&& ~~~m)

/-- Which bits of an unlanded result an early read sees new: whole elements, each freely (R56). DEDUCED, log entry 11. -/
def earlyMask (p : Pend) (cyc slot op : Nat) : VWord :=
  BitVec.ofNat 1024 ((List.range (ceilDiv 1024 (max 1 p.ew))).foldl
    (fun a k => if Config.earlyRead p.seq cyc slot op k then a + (2 ^ p.ew - 1) * 2 ^ (p.ew * k) else a) 0)

/-- g0, a0, p0 and ap0: what is written to them is discarded, and they read as constants (R41). -/
def isConst : Dst → Bool
  | .g i | .a i => i == 0
  | .p i | .ap i => i == 0
  | _ => false
/-- The results a slice has issued in earlier cycles that are still early for a reader in the current cycle (R56, R363); none of the
bundle's own slots, whose operands are read before any slot writes (R40), and none of a constant (R41). DEDUCED, log entry 11. -/
def Runner.early (x : Runner) (sl : Slice) (now : Nat) (d : Dst) : List Pend :=
  if isConst d then []
  else (x.sx sl).pend.filter fun p => p.dst == d && !p.cross && (p.reinj || decide (p.issue < now)) && decide (now < p.issue + p.bound)

/-- An operand read: the register, with every unlanded result's elements seen old or new freely (R56). A re-injected
result reads as held at capture until it lands (R363). DEDUCED, log entry 11. -/
def State.readV (s : State) (sl : Slice) (slot op : Nat) (d : Dst) : VWord :=
  let x := s.me
  ((x.early sl s.cycle d).filter fun p => !p.landed && !p.reinj).foldl
    (fun v p => blend (earlyMask p s.cycle slot op &&& chunkMask p.mask) p.val v) (x.leg.raw d)
/-- The stain bit of an operand read; it is one element of its own. -/
def State.readStain (s : State) (sl : Slice) (slot op : Nat) (d : Dst) : Bool :=
  let x := s.me
  ((x.early sl s.cycle d).filter fun p => !p.landed && !p.reinj && p.stainW).foldl
    (fun v p => if Config.earlyRead p.seq s.cycle slot op 1024 then p.stain else v) (x.leg.rawStain d)
/-- Which element of an early read a register's poison bit is: a scalar register is one element with its poison (R56), and a vector
register's poison bit is an element of its own (R179). -/
def poisonElem : Dst → Nat
  | .va _ | .vb _ => 1025
  | _ => 0
/-- The poison bit of an operand read. -/
def State.readPoison (s : State) (sl : Slice) (slot op : Nat) (d : Dst) : Bool :=
  let x := s.me
  ((x.early sl s.cycle d).filter fun p => !p.landed && !p.reinj && p.poisonW).foldl
    (fun v p => if Config.earlyRead p.seq s.cycle slot op (poisonElem d) then p.poison else v) (x.leg.rawPoison d)

/-- The physical register a slice's own scalar name means: g in the C slice, a in the A slice. -/
def Runner.scal (x : Runner) (sl : Slice) (i : RegIx) : Dst :=
  match sl with
  | .c => .g (x.leg.c.phys i)
  | .a => .a (x.leg.s.phys i)
/-- The physical predicate a slice's name means. -/
def Runner.pred (x : Runner) (sl : Slice) (i : BitVec 4) : Dst :=
  match sl with
  | .c => .p (x.leg.c.pphys i)
  | .a => .ap (x.leg.s.pphys i)
/-- The physical vector register a name means in a vector slot's file. -/
def Runner.vreg (x : Runner) (v : VPos) (i : RegIx) : Dst :=
  match v with
  | .va => .va (x.leg.c.phys i)
  | .vb => .vb (x.leg.c.phys i)

/-- A scalar operand. -/
def State.rd (s : State) (sl : Slice) (slot op : Nat) (i : RegIx) : Word :=
  (s.readV sl slot op (s.me.scal sl i)).setWidth 64
/-- A predicate operand. -/
def State.rdP (s : State) (sl : Slice) (slot op : Nat) (i : BitVec 4) : Bool :=
  (s.readV sl slot op (s.me.pred sl i)).getLsbD 0

/-! ### System registers (R121) -/

/-- PFILE or APFILE: logical predicates under the base in force (R125). -/
def Strm.pfile (t : Strm) : Nat :=
  (List.range 16).foldl (fun a j => if j == 0 || t.preds.getLsbD (t.pphys (BitVec.ofNat 4 j)).toNat then a + 2 ^ j else a) 0
/-- Predicates written through PFILE or APFILE; bit 0 has no effect. DESIGN CHOICE, log entry 81. -/
def Strm.withPfile (t : Strm) (v : Nat) : Strm :=
  { t with preds := (List.range 16).foldl (fun (a : BitVec 16) j =>
      if j == 0 then a else
        let k := (t.pphys (BitVec.ofNat 4 j)).toNat
        if v.testBit j then a ||| (1#16 <<< k) else a &&& ~~~(1#16 <<< k)) t.preds }

/-- ESC_P (R189). -/
def Press.esc (p : Press) : Nat := p.esnap.toNat * 2 ^ 32 + p.donec.toNat * 2 ^ 16 + p.step % 2 ^ 16
/-- ESC_S (R270). -/
def Sprinter.esc (p : Sprinter) : Nat :=
  p.donec.toNat * 2 ^ 48 + (match p.q with | [] => 0 | c :: _ => c.chunk % 2 ^ 16) * 2 ^ 32 + p.esnap.toNat
/-- ESC_L (R278). -/
def Relay.esc (p : Relay) : Nat := p.donec.toNat * 2 ^ 48 + p.step % 2 ^ 16 * 2 ^ 32 + p.esnap.toNat

/-- The value of a system register, zero-extended (R121). -/
def Runner.csr (x : Runner) (n : BitVec 12) : Word :=
  match n.toNat with
  | 0x000 => x.leg.c.sw
  | 0x001 => x.leg.s.sw
  | 0x002 => x.leg.c.xpc
  | 0x003 => x.leg.s.xpc
  | 0x004 => x.leg.xcause
  | 0x005 => x.leg.xaddr
  | 0x006 => BitVec.ofNat 64 x.leg.c.pfile
  | 0x007 => BitVec.ofNat 64 x.leg.s.pfile
  | 0x008 => x.leg.c.lc.setWidth 64
  | 0x009 => x.leg.c.lfc.setWidth 64
  | 0x00A => x.leg.s.lc.setWidth 64
  | 0x00B => x.leg.s.lfc.setWidth 64
  | 0x00C => x.leg.c.rot.setWidth 64
  | 0x00D => x.leg.c.prot.setWidth 64
  | 0x00E => (x.leg.s.prot ++ x.leg.s.rot).setWidth 64
  | 0x010 => x.leg.lim.setWidth 64
  | 0x011 => x.leg.xcnt.setWidth 64
  | 0x012 => x.leg.cellcfg
  | 0x013 => BitVec.ofNat 64 x.press.esc
  | 0x014 => BitVec.ofNat 64 x.spr.esc
  | 0x015 => BitVec.ofNat 64 x.relay.esc
  | 0x018 => BitVec.ofNat 64 x.owner
  | 0x019 => x.heatid
  | 0x01A => BitVec.ofNat 64 x.num
  | 0x01B => x.squadid
  | _ => 0

/-- The writable bits of a status word: RESUME, and in CSW the enables (R122, R123). -/
def swMask : Slice → Word
  | .c => 0x7C3
  | .a => 0x003
/-- A system register written under R8, R9, R127: read-only and reserved fields keep their values. DESIGN CHOICE, log entry 81. -/
def Runner.setCsr (x : Runner) (n : BitVec 12) (v : Word) : Runner :=
  match n.toNat with
  | 0x000 => x.modSt .c fun t => { t with sw := (v &&& swMask .c) ||| (t.sw &&& ~~~(swMask .c)) }
  | 0x001 => x.modSt .a fun t => { t with sw := (v &&& swMask .a) ||| (t.sw &&& ~~~(swMask .a)) }
  | 0x002 => x.modSt .c fun t => { t with xpc := v &&& ~~~(0xF : Word) }
  | 0x003 => x.modSt .a fun t => { t with xpc := v &&& ~~~(0xF : Word) }
  | 0x006 => x.modSt .c fun t => t.withPfile v.toNat
  | 0x007 => x.modSt .a fun t => t.withPfile v.toNat
  | 0x008 => x.modSt .c fun t => { t with lc := v.setWidth 32 }
  | 0x009 => x.modSt .c fun t => { t with lfc := v.setWidth 32 }
  | 0x00A => x.modSt .a fun t => { t with lc := v.setWidth 32 }
  | 0x00B => x.modSt .a fun t => { t with lfc := v.setWidth 32 }
  | 0x00C => x.modSt .c fun t => { t with rot := v.setWidth 4 }
  | 0x00D => x.modSt .c fun t => { t with prot := v.setWidth 3 }
  | 0x00E => x.modSt .a fun t => { t with rot := v.setWidth 4, prot := v.extractLsb' 4 3 }
  | 0x010 => x.modLeg fun l =>
      let k := (v.extractLsb' 0 7).toNat
      { l with lim := BitVec.ofNat 7 (if k = 0 then 1 else if k > 96 then 96 else k) }
  | 0x012 => x.modLeg fun l => { l with cellcfg := v &&& 0xFF }
  | _ => x

/-! ### Results (R56) -/

/-- A result with no timing yet. -/
def Pend.of (d : Dst) (v : VWord) : Pend :=
  { dst := d, val := v, mask := 0xFFFF, ew := 1024, stainW := false, stain := false, poisonW := false, poison := false,
    issue := 0, bound := 1, land := 0, slot := 0, seq := 0, landed := false, reinj := false, cross := false }

/-- The free landing of the next result of a slot of the runner being stepped. DEDUCED, log entry 10. -/
def State.landing (s : State) (sl : Slice) (slot : Nat) : Nat :=
  Config.landing s.me.num s.cycle (if sl == .c then 0 else 1) slot (s.me.sx sl).pend.length
/-- A result issued in the current cycle with bound L; it lands in a free cycle of c + 1 to c + L, or in c + L when
its entry fixes that (`fixed`). DEDUCED, log entry 10. -/
def State.issueRes (s : State) (sl : Slice) (slot L : Nat) (p : Pend) (fixed : Bool := false) : State :=
  let land := if fixed || decide (L ≤ 1) then s.cycle + L else s.cycle + 1 + s.landing sl slot % L
  let p := { p with issue := s.cycle, bound := L, land := land, slot := slot, seq := s.seq }
  { s.modMe (fun x => x.modX sl fun y => { y with pend := y.pend ++ [p] }) with seq := s.seq + 1 }

/-- A result written to its register (R61: the caller lands results of one cycle in slot and issue order). -/
def Runner.land (x : Runner) (p : Pend) : Runner :=
  match p.dst with
  | .g i => if i = 0 then x else x.modLeg fun l => { l with g := vset l.g i (p.val.setWidth 64), gp := mset l.gp i p.poison }
  | .a i => if i = 0 then x else x.modLeg fun l => { l with a := vset l.a i (p.val.setWidth 64) }
  | .va i => x.modLeg fun l => { l with va :=
      { d := vset l.va.d i (blend (chunkMask p.mask) p.val (vget l.va.d i)),
        stain := if p.stainW then mset l.va.stain i p.stain else l.va.stain,
        poison := if p.poisonW then mset l.va.poison i p.poison else l.va.poison } }
  | .vb i => x.modLeg fun l => { l with vb :=
      { d := vset l.vb.d i (blend (chunkMask p.mask) p.val (vget l.vb.d i)),
        stain := if p.stainW then mset l.vb.stain i p.stain else l.vb.stain,
        poison := if p.poisonW then mset l.vb.poison i p.poison else l.vb.poison } }
  | .p i => if i = 0 then x else x.modSt .c fun t =>
      { t with preds := if p.val.getLsbD 0 then t.preds ||| (1#16 <<< i.toNat) else t.preds &&& ~~~(1#16 <<< i.toNat) }
  | .ap i => if i = 0 then x else x.modSt .a fun t =>
      { t with preds := if p.val.getLsbD 0 then t.preds ||| (1#16 <<< i.toNat) else t.preds &&& ~~~(1#16 <<< i.toNat) }
  | .sda => x.modLeg fun l => { l with sda := p.val }
  | .sdb => x.modLeg fun l => { l with sdb := p.val }
  | .sys n => x.setCsr n (p.val.setWidth 64)
  | .loop sl => x.modSt sl fun t =>
      let m := (p.val.extractLsb' 79 8 : BitVec 8)
      let v := (p.val.extractLsb' 71 8 : BitVec 8)
      let hi := (v &&& m) ||| ((t.preds.extractLsb' 8 8) &&& ~~~m)
      { t with lc := p.val.extractLsb' 0 32, lfc := p.val.extractLsb' 32 32, rot := p.val.extractLsb' 64 4,
               prot := p.val.extractLsb' 68 3, preds := hi ++ (t.preds.extractLsb' 0 8) }
  | .esnapP => { x with press := { x.press with esnap := p.val.setWidth 32 } }
  | .esnapS => { x with spr := { x.spr with esnap := p.val.setWidth 32 } }
  | .esnapL => { x with relay := { x.relay with esnap := p.val.setWidth 32 } }

/-- A scalar result of a slice: `d` is renamed with the bases in force at issue (R118). -/
def State.wrScal (s : State) (sl : Slice) (slot L : Nat) (d : RegIx) (v : Word) (poison : Bool) : State :=
  s.issueRes sl slot L { Pend.of (s.me.scal sl d) (v.setWidth 1024) with poisonW := true, poison := poison }
/-- A predicate result. -/
def State.wrPred (s : State) (sl : Slice) (slot L : Nat) (d : BitVec 4) (b : Bool) : State :=
  s.issueRes sl slot L { Pend.of (s.me.pred sl d) (if b then 1 else 0) with ew := 1024 }

/-! ### Status of heats -/

/-- The completion status word (R394). -/
def statusWord (status cause : Nat) (a : Bool) (run : Nat) (pc : Word) (detail : Nat) : Word :=
  BitVec.ofNat 64 (status % 256 + cause % 256 * 2 ^ 8 + (if a then 2 ^ 16 else 0) + run % 512 * 2 ^ 17
    + bits pc.toNat 4 18 * 2 ^ 26 + detail % 2 ^ 16 * 2 ^ 48)

/-- A runner stopped for good: no further bundle, unlanded results dropped, its uncommitted Hamper entries discarded (R358). -/
def Runner.halt (x : Runner) : Runner :=
  { (x.modX .c fun y => { y with st := .off, pend := [], trap := none }).modX .a
      fun y => { y with st := .off, pend := [], trap := none } with
    hamper := x.hamper.filter (·.committed), rewind := none, legEnd := none, stopReq := true }

/-- A heat ends with a status: the first cycle with such an event fixes it, and within that cycle the choice among
several events is free (R394). The runner whose bundle or event ends it stops at once, the others at the end of the cycle, which
is their next bundle boundary (R145, R358). -/
def State.endHeat (s : State) (who : Option Nat) (id : Word) (status : Word) (xaddr : Word) (detail : Nat := 0) : State :=
  let upd (h : Heat) : Heat :=
    if h.id == id then
      match h.ended with
      | none => { h with ended := some (status, s.cycle), xaddr := xaddr, detail := detail }
      | some (_, c) => if c == s.cycle && Config.choice 0 (who.getD 1024) s.cycle % 2 == 1
          then { h with ended := some (status, s.cycle), xaddr := xaddr, detail := detail } else h
    else h
  { s with
    seq := s.seq + 1
    fw := { s.fw with heats := s.fw.heats.map upd }
    runners := s.runners.map fun x => if x.heatid == id && who == some x.num then x.halt else x }
/-- Every runner of the heats that ended in this cycle stops (R145, R358). -/
def State.stopEnded (s : State) : State :=
  let ended (id : Word) : Bool := s.fw.heats.any fun h => h.id == id && match h.ended with | some (_, c) => c == s.cycle | none => false
  let mine (x : Runner) : Bool :=
    s.fw.squads.any fun q => q.heat == x.heatid && (q.state == .running || q.state == .saving) && q.runners.contains x.num
  { s with runners := s.runners.map fun x => if x.squad.isSome && !x.stopReq && ended x.heatid && mine x then x.halt else x }

/-- A trap with DETAIL naming a field (R353). -/
def PTrap.mk' (cause : Nat) (detail : Nat) (slot : Nat) (xaddr : Word := 0) : PTrap :=
  { cause := BitVec.ofNat 8 cause, detail := BitVec.ofNat 32 detail, slot := slot, resume := slot, xaddr := xaddr, freeze := false }

/-- The XCAUSE word (R124). DEDUCED, log entry 14. -/
def xcauseWord (t : PTrap) (sl : Slice) : Word :=
  BitVec.ofNat 64 (t.cause.toNat + t.slot % 4 * 2 ^ 8 + (if sl == .a then 2 ^ 16 else 0) + t.detail.toNat * 2 ^ 32)

/-- XCAUSE and XADDR of a runner written (R124, R353). -/
def Runner.record (x : Runner) (t : PTrap) (sl : Slice) : Runner :=
  x.modLeg fun l => { l with xcause := xcauseWord t sl, xaddr := t.xaddr }
/-- A fatal cause, or an uncaught trap, of a slice of runner `r` is recorded and ends its heat with FAULT (R353, R358).
DEDUCED, log entry 14. -/
def State.fatalTrap (s : State) (r : Nat) (sl : Slice) (t : PTrap) (pc : Word) : State :=
  (s.modR r fun x => x.record t sl).endHeat (some r) (s.rn r).heatid (statusWord 0x0C t.cause.toNat (sl == .a) r pc 0) t.xaddr
/-- A fatal cause of a slice of runner `r` (R353). -/
def State.fatal (s : State) (r : Nat) (sl : Slice) (cause : Nat) (pc xaddr : Word) (slot : Nat := 0) : State :=
  s.fatalTrap r sl (PTrap.mk' cause 0 slot xaddr) pc

/-! ### Taking a trap (R353-R362) -/

/-- What lands on its own schedule whatever stops the slice: a copy into the other slice, and an ESNAP write of ESTAT (R362). -/
def Pend.own (p : Pend) : Bool :=
  p.cross || match p.dst with
    | .esnapP | .esnapS | .esnapL => true
    | _ => false
/-- The entries captured at a stop in cycle t: every result of the slice not landed by its end, with D := c + L − t, at
least 1; copies and ESNAP writes stay on their own schedule (R362). Each lands in its own r + D, two results of one bundle to one register
among them (R363). DESIGN CHOICE, log entry 86. -/
def captureIfq (pend : List Pend) (t : Nat) : List IfqE :=
  (pend.filter fun p => !p.landed && !p.own && decide (t < p.land)).map
    fun p => { r := { p with reinj := false }, d := max 1 (p.issue + p.bound - t) }
/-- What stays on its own schedule after a capture. -/
def keepPend (pend : List Pend) (t : Nat) : List Pend :=
  pend.filter fun p => p.own || (!p.landed && decide (p.land ≤ t))

/-- Guards of slots 1 to 3 as read at issue (R356). -/
def guardBits (g1 g2 g3 : Bool) : BitVec 3 :=
  BitVec.ofNat 3 ((if g1 then 1 else 0) + (if g2 then 2 else 0) + (if g3 then 4 else 0))

/-- A slice's registers at a trap in cycle t, whether it is held or taken (R356, R357): the trapped bundle, its captured results, its
trap shadow. -/
def Strm.atTrap (st : Strm) (pend : List Pend) (pc : Word) (guards : BitVec 3) (br : Option Br) (marked : Bool) (now : Nat) : Strm :=
  { st with
    ifq := st.ifq ++ captureIfq pend now
    pc := pc
    br := br
    tsh := some { exp := st.exposed, guards := guards, br := br, marked := marked } }
/-- Trap entry (R356) of a slice whose registers `h` are those of the trapped bundle: the pc, the first slot to resume, cause and
address are saved, HND is set, and the handler's first bundle may issue in cycle t + 4. `taken` keeps what R357 needs when the other
slice traps in the same cycle. A WAIT of the bundle's lower slots is over (DESIGN CHOICE, log entry 68). -/
def Runner.enterTrap (x : Runner) (sl : Slice) (t : PTrap) (h : Strm) (vec : Word) (now : Nat) : Runner :=
  let x := x.modX sl fun y => { y with pend := keepPend y.pend now, trap := none, st := .run, taken := some (now, t, h) }
  let x := (x.record t sl).modLeg fun l => { l with frozen := l.frozen || t.freeze }
  x.modSt sl fun _ => { (h.withResume t.resume).withHnd true with
    xpc := h.pc, br := none, pc := vec, wait := now + 4, reentry := none, marked := false }
/-- A trap held while the other slice's handler runs: the slice stops at the trapped bundle (R357). -/
def Runner.holdTrap (x : Runner) (sl : Slice) (t : PTrap) (h : Strm) (now : Nat) : Runner :=
  (x.modX sl fun y => { y with st := .trapHeld, trap := some t, pend := keepPend y.pend now }).modSt sl fun _ => h
/-- The A slice's trap taken in this cycle is held after all, since the C slice traps in the same cycle (R357). -/
def Runner.yieldTrap (x : Runner) (now : Nat) : Runner :=
  match x.ax.taken with
  | some (c, t, h) => if c = now ∧ x.leg.s.hnd then { x.holdTrap .a t h now with ax := { (x.holdTrap .a t h now).ax with taken := none } } else x
  | none => x

/-- Whether the C slice of a runner may still trap in this cycle. -/
def State.cAhead (s : State) (r : Nat) : Bool := s.agenda.any fun t => t == .issue r .c || t == .plan 11
/-- A trap of cycle `now`, of a slice whose registers `h` are those of the trapped bundle, is uncaught or taken (R356). One of the A slice
without a handler waits for the end of the cycle: it is held if the C slice traps in the same cycle (R357). -/
def State.enter (s : State) (r : Nat) (sl : Slice) (t : PTrap) (h : Strm) (now : Nat) : State :=
  let y := (s.rn r).sx sl
  if y.vector.isNone || h.done then
    if sl == .a && s.cAhead r then s.modR r fun x => x.holdTrap .a t h now else s.fatalTrap r sl t h.pc
  else s.modR r fun x => x.enterTrap sl t h (y.vector.getD 0) now
/-- A precise trap of slice `sl` of runner `r` at address `pc` in cycle `now` (R356, R357): uncaught when its own handler runs, held
while the other slice's handler runs, else uncaught or taken. `marked`: the bundle's mark has taken effect. DEDUCED, log entry 14. -/
def State.takeTrapAt (s : State) (now r : Nat) (sl : Slice) (t : PTrap) (pc : Word) (guards : BitVec 3) (br : Option Br)
    (marked : Bool) : State :=
  let s := match sl with | .c => s.modR r fun x => x.yieldTrap now | .a => s
  let x := s.rn r
  let h := (x.st sl).atTrap (x.sx sl).pend pc guards br marked now
  if (x.st sl).hnd then s.fatalTrap r sl t pc
  else if (x.st (otherSlice sl)).hnd then s.modR r fun x => x.holdTrap sl t h now
  else s.enter r sl t h now
/-- A precise trap taken in the current cycle. DEDUCED, log entry 14. -/
def State.takeTrap (s : State) (r : Nat) (sl : Slice) (t : PTrap) (pc : Word) (guards : BitVec 3) (br : Option Br) (marked : Bool) :
    State :=
  s.takeTrapAt s.cycle r sl t pc guards br marked

end Sys2Proof.Machine
end

