-- ==== Sys2Proof/Machine/Flags.lean ====
section
/-! DEFINITION. Conditions and predicates: the values compares, branches and predicate logic compute (R75, R133-R135). -/

namespace Sys2Proof.Machine

/-- A scalar compare of 64-bit values (R133). -/
def ccEval (c : Cc) (x y : Word) : Bool :=
  match c with
  | .eq => x == y
  | .ne => x != y
  | .ltS => x.slt y
  | .leS => x.sle y
  | .gtS => y.slt x
  | .geS => y.sle x
  | .ltZ => x.ult y
  | .leZ => x.ule y
  | .gtZ => y.ult x
  | .geZ => y.ule x

/-- Whether a condition is a signed one. -/
def ccSigned : Cc → Bool
  | .ltS | .leS | .gtS | .geS => true
  | _ => false
/-- Whether a condition is an unsigned one. -/
def ccUnsigned : Cc → Bool
  | .ltZ | .leZ | .gtZ | .geZ => true
  | _ => false

/-- CMP with w32: bits [31:0] compared as signed or unsigned as the condition says (R133). -/
def ccEvalW (c : Cc) (w32 : Bool) (x y : Word) : Bool :=
  if w32 then
    let a : BitVec 32 := x.setWidth 32
    let b : BitVec 32 := y.setWidth 32
    if ccSigned c then ccEval c (a.signExtend 64) (b.signExtend 64) else ccEval c (a.setWidth 64) (b.setWidth 64)
  else ccEval c x y

/-- CMPI's immediate: zero-extended for the .z conditions, sign-extended otherwise (R133). -/
def ccExt (c : Cc) (imm : BitVec 8) : Word := if ccUnsigned c then imm.setWidth 64 else imm.signExtend 64

/-- A branch condition on a signed 64-bit value (R75, R135, R347). -/
def bcEval (c : Bc) (x : Word) : Bool :=
  match c with
  | .eqz => x == 0
  | .nez => x != 0
  | .ltz => x.slt 0
  | .gez => !x.slt 0
  | .gtz => (0 : Word).slt x
  | .lez => !(0 : Word).slt x

/-- Leading zero bits, 64 for zero (R130). -/
def clz64 (x : Word) : Nat := if x = 0 then 64 else 63 - Nat.log2 x.toNat
/-- Trailing zero bits among the first n (R130). -/
def ctzFrom (x : Nat) : Nat → Nat
  | 0 => 0
  | n + 1 => if x % 2 = 1 then 0 else 1 + ctzFrom (x / 2) n
/-- One bits among the first n (R130). -/
def popFrom (x : Nat) : Nat → Nat
  | 0 => 0
  | n + 1 => x % 2 + popFrom (x / 2) n
/-- The eight bytes in reverse order (R130). -/
def bswap64 (x : Word) : Word := BitVec.ofNat 64 (leNat (natLe 8 x.toNat).reverse)

/-- Signed quotient with the edge cases of R129. -/
def divS (x y : Word) : Word := if y = 0 then BitVec.allOnes 64 else x.sdiv y
/-- Unsigned quotient with the edge cases of R129. -/
def divZ (x y : Word) : Word := if y = 0 then BitVec.allOnes 64 else x.udiv y
/-- Signed remainder with the sign of x (R129). -/
def remS (x y : Word) : Word := if y = 0 then x else x.srem y
/-- Unsigned remainder (R129). -/
def remZ (x y : Word) : Word := if y = 0 then x else x.umod y
/-- Bits [127:64] of the signed product (R129). -/
def mulhS (x y : Word) : Word := BitVec.ofInt 64 (x.toInt * y.toInt / 2 ^ 64)
/-- Bits [127:64] of the unsigned product (R129). -/
def mulhZ (x y : Word) : Word := BitVec.ofNat 64 (x.toNat * y.toNat / 2 ^ 64)

/-- EXTR: bits [pos + len - 1 : pos], zero-extended (R131). -/
def extrBits (x : Word) (pos len : Nat) : Word := BitVec.ofNat 64 (bits x.toNat pos len)
/-- INS: bits [pos + len - 1 : pos] of d replaced by the low bits of x (R131). -/
def insBits (d x : Word) (pos len : Nat) : Word := BitVec.ofNat 64 (setBits d.toNat pos len x.toNat)
/-- LIH: piece k of d replaced by the immediate (R131). -/
def lihBits (d : Word) (k : Nat) (imm : BitVec 12) : Word :=
  if k < 5 then insBits d (imm.setWidth 64) (12 * k) 12 else insBits d (imm.setWidth 64) 60 4

end Sys2Proof.Machine
end

