-- ==== Sys2Proof/Machine/Use.lean ====
section
/-! DEFINITION. What each slot operation reads, writes, pops, pushes and reserves: the facts the issue conditions of
R56-R58, R332, R336 and R361 and the index checks of R64 are made on. -/

namespace Sys2Proof.Machine

/-- The use a slot operation makes of the runner. `bad` is the DETAIL field number of an illegal register index (R64, R353). -/
structure Use where
  sl : Slice
  pos : Nat
  g : Guard
  reads : List Dst
  writes : List Dst
  nres : Nat
  pops : List QName
  pushes : List QName
  ldqs : List Bool
  laq : Nat
  saq : Nat
  branch : Bool
  bad : Option Nat
  deriving DecidableEq, Repr

/-- A use of registers only. -/
def Use.regs (sl : Slice) (pos : Nat) (g : Guard) (reads writes : List Dst) : Use :=
  { sl := sl, pos := pos, g := g, reads := reads, writes := writes, nres := writes.length, pops := [], pushes := [],
    ldqs := [], laq := 0, saq := 0, branch := false, bad := none }

/-- The first of some conditions that holds, with its field number. -/
def firstBad : List (Bool × Nat) → Option Nat
  | [] => none
  | (b, n) :: t => if b then some n else firstBad t

/-- An index above 15 where a predicate is named. -/
def badP (i : RegIx) : Bool := decide (16 ≤ i.toNat)
/-- A predicate index of four bits. -/
def pix (i : RegIx) : BitVec 4 := i.setWidth 4
/-- The seed of a vector slot. -/
def seedOf : VPos → Dst
  | .va => .sda
  | .vb => .sdb
/-- The position of a vector slot (R39). -/
def vposNat : VPos → Nat
  | .va => 1
  | .vb => 2
/-- The position of an AG slot (R39). -/
def agNat : AgPos → Nat
  | .ag0 => 1
  | .ag1 => 2

/-- Two scalar sources and a destination. -/
def use3 (x : Runner) (o : R3) : Use :=
  Use.regs o.sl 0 o.g [x.scal o.sl o.s1, x.scal o.sl o.s2] [x.scal o.sl o.d]
/-- One scalar source and a destination. -/
def use2 (x : Runner) (o : R2) : Use := Use.regs o.sl 0 o.g [x.scal o.sl o.s1] [x.scal o.sl o.d]
/-- A vector operation: sources, destinations, and the seed when it rounds stochastically. -/
def useV (x : Runner) (v : VPos) (g : Guard) (rm : Rm) (srcs dsts : List RegIx) : Use :=
  let seed := if rm == .sr then [seedOf v] else []
  Use.regs .c (vposNat v) g (srcs.map (x.vreg v) ++ seed) (dsts.map (x.vreg v) ++ seed)
/-- A permutation. -/
def usePerm (x : Runner) (o : VPermO) (readD : Bool) : Use :=
  useV x o.v o.g .rne (if readD then [o.s1, o.t, o.d] else [o.s1, o.t]) [o.d]
/-- An M-slot operation. -/
def useM (g : Guard) (bad : Option Nat) : Use := { Use.regs .c 3 g [] [] with bad := bad }
/-- An index that is no accumulator: 8 and above, or 4 and above in an f64 form (R64). -/
def badAc (i : RegIx) (f64 : Bool) : Bool := if f64 then decide (4 ≤ i.toNat) else decide (8 ≤ i.toNat)
/-- An index that is no Mangle slot. -/
def badMg (i : RegIx) : Bool := decide (16 ≤ i.toNat)
/-- An AG-slot operation. -/
def useAg (x : Runner) (ag : AgPos) (g : Guard) (srcs : List RegIx) : Use :=
  Use.regs .a (agNat ag) g (srcs.map (x.scal .a)) []
/-- An AT-slot operation. -/
def useAt (x : Runner) (g : Guard) (srcs : List RegIx) : Use := Use.regs .a 3 g (srcs.map (x.scal .a)) []
/-- The registers S1 to T of a VREDR group. -/
def groupOf (s1 t : RegIx) : List RegIx :=
  (List.range (t.toNat + 1 - s1.toNat)).map fun k => BitVec.ofNat 5 (s1.toNat + k)
/-- A table query of the AC slot. -/
def useQ (x : Runner) (o : QueryO) (s1 : Bool) : Use :=
  Use.regs .a 0 o.g (if s1 then [x.scal .a o.s1] else []) [x.scal .a o.d]

/-- The use of a slot operation; none for a command or event. Its `bad` conditions are checked whatever the guard. DESIGN CHOICE, log entry 89. -/
def instrUse (x : Runner) : Instr → Option Use
  | .nop o => some (Use.regs o.sl o.pos.toNat { neg := false, p := 0 } [] [])
  | .header o | .leg o | .exchange o | .patch o | .exposed o | .interlocked o | .hint o =>
    some (Use.regs o.sl 0 { neg := false, p := 0 } [] [])
  | .add o | .sub o | .and o | .or o | .xor o | .shl o | .shr o | .sar o | .rol o | .min o | .max o | .minz o | .maxz o
  | .mul o | .mulh o | .mulhz o | .div o | .divz o | .rem o | .remz o => some (use3 x o)
  | .mov o | .not o | .clz o | .ctz o | .popc o | .bswap o => some (use2 x o)
  | .movFromLdq0 o => some { Use.regs .c 0 o.g [] [x.scal .c o.d] with pops := [.ldq0] }
  | .movFromLdq1 o => some { Use.regs .c 0 o.g [] [x.scal .c o.d] with pops := [.ldq1] }
  | .addi o | .andi o | .ori o | .xori o => some (Use.regs o.sl 0 o.g [x.scal o.sl o.s1] [x.scal o.sl o.d])
  | .shli o | .shri o | .sari o => some (Use.regs o.sl 0 o.g [x.scal o.sl o.s1] [x.scal o.sl o.d])
  | .extr o => some (Use.regs o.sl 0 o.g [x.scal o.sl o.s1] [x.scal o.sl o.d])
  | .ins o => some (Use.regs o.sl 0 o.g [x.scal o.sl o.s1, x.scal o.sl o.d] [x.scal o.sl o.d])
  | .li o => some (Use.regs o.sl 0 o.g [] [x.scal o.sl o.d])
  | .lih o => some (Use.regs o.sl 0 o.g [x.scal o.sl o.d] [x.scal o.sl o.d])
  | .sel o => some (Use.regs o.sl 0 o.g [x.scal o.sl o.s1, x.scal o.sl o.s2, x.pred o.sl o.q] [x.scal o.sl o.d])
  | .cmp o => some { Use.regs o.sl 0 o.g [x.scal o.sl o.s1, x.scal o.sl o.s2] [x.pred o.sl (pix o.d)] with
      bad := firstBad [(badP o.d, 1)] }
  | .cmpi o => some { Use.regs o.sl 0 o.g [x.scal o.sl o.s1] [x.pred o.sl (pix o.d)] with bad := firstBad [(badP o.d, 1)] }
  | .pand o | .por o | .pxor o =>
    some { Use.regs o.sl 0 o.g [x.pred o.sl (pix o.s1), x.pred o.sl (pix o.s2)] [x.pred o.sl (pix o.d)] with
      bad := firstBad [(badP o.d, 1), (badP o.s1, 2), (badP o.s2, 3)] }
  | .pnot o | .pmov o => some { Use.regs o.sl 0 o.g [x.pred o.sl (pix o.s1)] [x.pred o.sl (pix o.d)] with
      bad := firstBad [(badP o.d, 1), (badP o.s1, 2)] }
  | .br o => some { Use.regs o.sl 0 o.g [] [] with branch := true }
  | .call o => some { Use.regs o.sl 0 o.g [] [x.scal o.sl 15] with branch := true }
  | .loopb o => some { Use.regs o.sl 0 o.g [.loop o.sl] [.loop o.sl] with
      branch := true, nres := if (x.st o.sl).lc = 0 then 0 else if o.sl == .c then 5 else 4 }
  | .brc o => some { Use.regs o.sl 0 o.g [x.scal o.sl o.s1] [] with branch := true }
  | .brr o | .ret o => some { Use.regs o.sl 0 o.g [x.scal o.sl o.s1] [] with branch := true }
  | .callr o => some { use2 x o with branch := true }
  | .chk o => some { Use.regs .c 0 o.g
      [match o.file with | .g => x.scal .c o.s1 | .va => x.vreg .va o.s1 | .vb => x.vreg .vb o.s1] [] with branch := true }
  | .loopset o => some { Use.regs o.sl 0 o.g [x.scal o.sl o.s1] [.loop o.sl] with nres := if o.sl == .c then 12 else 11 }
  | .wait o => some (Use.regs o.sl 0 o.g [] [])
  | .xtovVa o => some (Use.regs .c 0 o.g [x.scal .c o.s1] [x.vreg .va o.d])
  | .xtovVb o => some (Use.regs .c 0 o.g [x.scal .c o.s1] [x.vreg .vb o.d])
  | .vtoxVa o => some (Use.regs .c 0 o.g [x.vreg .va o.s1] [x.scal .c o.d])
  | .vtoxVb o => some (Use.regs .c 0 o.g [x.vreg .vb o.s1] [x.scal .c o.d])
  | .vatovb o => some (Use.regs .c 0 o.g [x.vreg .va o.s1] [x.vreg .vb o.d])
  | .vbtova o => some (Use.regs .c 0 o.g [x.vreg .vb o.s1] [x.vreg .va o.d])
  | .xtoa o => some { Use.regs .c 0 o.g [x.scal .c o.s1] [] with nres := 1 }
  | .atox o => some { Use.regs .a 0 o.g [x.scal .a o.s1] [] with nres := 1 }
  | .csrr o => some (Use.regs .c 0 o.g [.sys o.n] [x.scal .c o.d])
  | .acsrr o => some (Use.regs .a 0 o.g [.sys o.n] [x.scal .a o.d])
  | .csrw o => some (Use.regs .c 0 o.g [x.scal .c o.s1] [.sys o.n])
  | .acsrw o => some (Use.regs .a 0 o.g [x.scal .a o.s1] [.sys o.n])
  | .trap o => some (Use.regs o.sl 0 o.g [] [])
  | .rft o => some { Use.regs o.sl 0 o.g [] [] with branch := true }
  | .done o | .halt o => some (Use.regs o.sl 0 o.g [] [])
  | .rwnd o | .preemptAck o => some (Use.regs .c 0 o.g [] [])
  | .pushc o => some { Use.regs .c 0 o.g [x.scal .c o.s1] [] with pushes := [.caq] }
  | .popa o => some { Use.regs .c 0 o.g [] [x.scal .c o.d] with pops := [.acq] }
  | .brq o => some { Use.regs .a 0 o.g [] [] with pops := [.caq], branch := true }
  | .qpush o => some { Use.regs .a 0 o.g [x.scal .a o.s1] [] with pushes := [.acq] }
  | .qdrain o => some (Use.regs .a 0 o.g [] [])
  | .qstat o => some (Use.regs .a 0 o.g [] [x.scal .a o.d])
  | .extrQ o | .shpr o => some (useQ x o true)
  | .tstate o => some (useQ x o (decide (o.sel.toNat < 8)))
  | .keyq o => some (useQ x o (x.atH || o.sel == 3))
  | .vadd o | .vaddsat o | .vsub o | .vsubsat o | .vmul o | .vmullo o | .vmulhi o | .vmulhiz o | .vdiv o | .vmin o | .vmax o
  | .vcopysign o | .vavg o | .vand o | .vor o | .vxor o | .vshl o | .vshr o | .vsar o =>
    some (useV x o.v o.g o.rm [o.s1, o.s2] [o.d])
  | .vfma o | .vfms o | .vfnma o | .vsel o => some (useV x o.v o.g o.rm [o.s1, o.s2, o.t] [o.d])
  | .vmov o | .vabs o | .vneg o | .vnot o | .vpopc o | .vclz o | .vsqrt o | .vexp2 o | .vlog2 o | .vrcp o | .vrsq o
  | .vsin o | .vcos o | .vtanh o => some (useV x o.v o.g o.rm [o.s1] [o.d])
  | .vstain o | .vclean o => some (useV x o.v o.g .rne [o.s1] [o.d])
  | .vstst o => some { Use.regs .c (vposNat o.v) o.g [x.vreg o.v o.s1] [x.pred .c (pix o.d)] with
      bad := firstBad [(badP o.d, 1)] }
  | .vseedr o => some (Use.regs .c (vposNat o.v) o.g [seedOf o.v] [x.vreg o.v o.d])
  | .vseedw o => some (Use.regs .c (vposNat o.v) o.g [x.vreg o.v o.s1] [seedOf o.v])
  | .vpushSdq o => some { useV x o.v o.g .rne [o.s1] [] with pushes := [.sdq] }
  | .vpushIxq o => some { useV x o.v o.g .rne [o.s1] [] with pushes := [.ixq] }
  | .vmovFromLdq0 o => some { useV x o.v o.g .rne [] [o.d] with pops := [.ldq0] }
  | .vmovFromLdq1 o => some { useV x o.v o.g .rne [] [o.d] with pops := [.ldq1] }
  | .vcmp o => some { Use.regs .c (vposNat o.v) o.g [x.vreg o.v o.s1, x.vreg o.v o.t] [x.pred .c (pix o.d)] with
      bad := firstBad [(badP o.d, 1)] }
  | .vcmpm o => some (useV x o.v o.g .rne [o.s1, o.t] [o.d])
  | .vcvt o => some (useV x o.v o.g o.rm [o.s1] [o.d])
  | .vcvtef o | .vqnt o => some { useV x o.v o.g o.rm [o.s1] [o.d, o.t] with bad := firstBad [(o.t == o.d, 4)] }
  | .vdqnt o => some (useV x o.v o.g o.rm [o.s1, o.t] [o.d])
  | .vpacksp o => some { useV x o.v o.g .rne [o.s1] [o.d, o.t] with bad := firstBad [(o.t == o.d, 4)] }
  | .vred o | .vscan o => some (useV x o.v o.g o.rm [o.s1] [o.d])
  | .vredr o => some { useV x o.v o.g .rne (groupOf o.s1 o.t) [o.d, o.d + 1] with
      bad := firstBad [(o.d == 31, 1), (decide (o.t.toNat < o.s1.toNat), 4)] }
  | .vperm o | .vbcast o | .vext o | .vrot o | .vcompress o | .vexpand o | .vzip o | .vunzip o => some (usePerm x o false)
  | .vshuf o | .vins o => some (usePerm x o true)
  | .vli o => some (useV x o.v o.g .rne [] [o.d])
  | .mgclaim o | .mgrel o => some (useM o.g (firstBad [(badMg o.d, 1)]))
  | .mgfill o => some (useM o.g (firstBad [(badMg o.d, 1)]))
  | .mgspfill o => some (useM o.g (firstBad [(badMg o.d, 1)]))
  | .mma o => some (useM o.g (firstBad [(badAc o.d (o.fmt == .f64), 1), (badMg o.s1, 2), (badMg o.s2, 3)]))
  | .mmasp o => some (useM o.g (firstBad [(badAc o.d (o.fmt == .f64), 1), (badMg o.s1, 2), (badMg o.s2, 3)]))
  | .mmac o => some (useM o.g (firstBad [(badAc o.d (o.fmt == .f64), 1), (badMg o.s1, 2), (badMg o.s2, 3)]))
  | .acz o => some (useM o.g (firstBad [(badAc o.d false, 1)]))
  | .acload o | .acscale o => some (useM o.g (firstBad [(badAc o.ac false, 1)]))
  | .acdrain o => some (useM o.g (firstBad [(badAc o.ac false, 2)]))
  | .acstain o | .acclean o => some (useM o.g (firstBad [(badAc o.d false, 1)]))
  | .esync o => some (useM o.g none)
  | .estatPress o => some (Use.regs .c 3 o.g [] [.esnapP])
  | .estatSprinter o | .estatRelay o => some { Use.regs .c 3 o.g [] [.esnapP] with nres := 2 }
  | .lda o | .ldaS o => some { useAg x o.ag o.g [o.s1, o.s2] with ldqs := [o.ldq1], laq := 1 }
  | .ldst o => some { useAg x o.ag o.g [o.s1, o.s2, o.d] with ldqs := [o.ldq1], laq := 1 }
  | .ldx o => some { useAg x o.ag o.g [o.s1] with ldqs := [o.ldq1], laq := 1, pops := [.ixq] }
  | .sta o => some { useAg x o.ag o.g [o.s1, o.s2] with saq := 1 }
  | .stst o => some { useAg x o.ag o.g [o.s1, o.s2, o.d] with saq := 1 }
  | .stx o => some { useAg x o.ag o.g [o.s1] with saq := 1, pops := [.ixq] }
  | .tld o | .tst o => some (useAt x o.g [o.s1, o.s2, o.d])
  | .tmov o | .tcopy o | .tfill o | .caga o | .ca2a o | .cbcs o => some (useAt x o.g [o.s1, o.s2])
  | .tzero o | .twait o => some (useAt x o.g [o.s1])
  | .calr o | .crsc o => some (useAt x o.g [o.s1, o.s2])
  | .amo o => some { useAt x o.g (if o.op == .cas then [o.s1, o.s2, o.s2 + 1] else [o.s1, o.s2]) with
      ldqs := [o.res1], bad := firstBad [(o.op == .cas && (o.s2.toNat % 2 == 1), 3)] }
  | .amoVector o => some { useAt x o.g [o.s1] with ldqs := (if o.res then [false] else []), pops := [.ixq, .sdq] }
  | .lds o => some { useAt x o.g [o.s1] with ldqs := [o.res1] }
  | .sts o => some (useAt x o.g [o.s1, o.s2])
  | .fence o => some (useAt x o.g [])
  | .bars o | .scrub o | .keyrot o => some (useAt x o.g [])
  | .barinit o => some (useAt x o.g [o.s1, o.s2])
  | .bararr o | .barinv o => some (useAt x o.g [o.s1])
  | .sig o => some (useAt x o.g [o.s1, o.s2])
  | .tdef o | .seal o | .unseal o | .keyld o | .pwquota o | .pwpleat o | .pwlap o | .pwlease o | .pwgran o | .pwweight o =>
    some (useAt x o.g [o.s1, o.s2])
  | .tfree o => some (useAt x o.g [o.s1])
  | .tableWriteComplete _ | .resultLands .. | .ifqReinjection .. | .waitElapsed .. | .queueEntryVisible ..
  | .qdrainTakesEffect _ | .storeMatch _ | .rewindReentry _ | .notPresentHoldRelease _ | .extentAcknowledge ..
  | .exchangePass _ | .barsComplete _ | .strongAccessPerform .. | .barrierArrival _ | .dataSlot _ | .dataArrival _
  | .lapBoundary _ | .mendingSlot _ | .rowPrecharge .. | .sweepComplete _ | .dataRateChange _ | .retrainingDone _
  | .pressCommandStart .. | .kBlockCommit _ | .pressCommandComplete .. | .sprinterCommandStart _ | .sprinterChunkCommit _
  | .sprinterCommandComplete _ | .collectiveStart .. | .collectiveStep .. | .patchCopyComplete .. | .runnerFinish _
  | .eventInterruptTimer _ | .preemptAcknowledge .. | .contextSaveComplete _ | .runnerRelease _ | .pollingSlot ..
  | .backgroundStep _ | .waitFaultTimeout _ | .schedulingRound | .fairnessWindow | .leaseDeadline _ | .nopPacket _ | .launch _
  | .waitPacket _ | .signal _ | .barrierPkt _ | .map _ | .unmap _ | .migrate _ | .lease _ | .revoke _ | .resetq _ | .ctxsave _
  | .ctxload _ | .wsetload _ | .wsetswitch _ | .auditcfg _ | .meterread _ | .keywrap _ | .qopen _ | .qclose _ | .lend _
  | .part _ | .vfstop _ | .vfgo _ | .commandComplete _ | .doorbellWrite .. | .cqctlEnable _ | .cqctlDisable _ | .pcapWrite _
  | .hbmrateWrite _ | .einjWrite .. | .registerWrite .. | .monitorSample _ | .powerOverrun | .flowLoss | .runnerPowerGate _
  | .selfTestComplete .. | .auditReplay .. | .auditReplayComplete .. | .coldReset _ | .firmwareRelease _ | .hostCompletion ..
  | .lockInterface _ | .startInterface _ | .stopInterface _ | .getDeviceInterfaceState _ | .getDeviceInterfaceReport _
  | .ideKeyManagement _ | .ideIntegrityFailure _ | .getVersion _ | .getCapabilities _ | .negotiateAlgorithms _ | .getDigests _
  | .getCertificate _ | .challenge _ | .getMeasurements _ | .keyExchange _ | .finish _ | .keyUpdate _ | .heartbeat _
  | .endSession _ | .spdmUnsupportedRequest _ | .portTrained .. | .portDown _ | .rigalIdentity _ | .rigalEncapsulationKey _
  | .rigalCiphertext _ | .rigalSignature _ | .rigalRekey _ | .leaseRequest _ | .leaseReply .. | .softError .. | .peerNotice _
  | .functionEnable .. => none

end Sys2Proof.Machine
end

