-- ==== Sys2Proof/Machine/Operands.lean ====
section
/-! DEFINITION. A slot's guard, its operand checks and its traps: what every slot operation does before its own effect. -/

namespace Sys2Proof.Machine

/-- The FILE and register of a trap's DETAIL (R353): [4:0] the physical register, [7:5] the file. -/
def dstDetail : Dst → Nat
  | .g i => i.toNat
  | .a i => i.toNat + 1 * 32
  | .va i => i.toNat + 2 * 32
  | .vb i => i.toNat + 3 * 32
  | .p i => i.toNat + 4 * 32
  | .ap i => i.toNat + 5 * 32
  | .sda => 6 * 32
  | .sdb => 1 + 6 * 32
  | _ => 0

/-- The pending-branch state a trap in the bundle being issued saves (R54): a branch of the bundle itself has used none of
its delay slots; otherwise the delay bundles left after this one. -/
def State.savedBr (s : State) (sl : Slice) : Option Br :=
  match s.cur.br with
  | some b => some b
  | none =>
    match (s.me.st sl).br with
    | some b => some (if s.cur.reent then b else { b with left := b.left - 1 })
    | none => none

/-- A trap of the bundle being issued: no slot from there on takes effect (R354). DEDUCED, log entry 15. -/
def State.trapBundle (s : State) (sl : Slice) (t : PTrap) : Out :=
  let s' := s.takeTrap s.cur.run sl t s.cur.pc (s.cur.guards.getD 0) (s.savedBr sl) s.cur.marked
  .next { s' with cur := { s'.cur with st := .stopped } }

/-- A trap at a slot, which does not commit (R354, R356). -/
def State.trapSlot (s : State) (u : Use) (cause detail : Nat) (xaddr : Word := 0) : Out :=
  match s.trapBundle u.sl (PTrap.mk' cause detail u.pos xaddr) with
  | .next s' => .next (if cause = 0x02 then { s' with cur := { s'.cur with st := .illegal } } else s')
  | o => o

/-- A trap of a check of R63: no slot of the bundle takes effect. -/
def State.trapWhole (s : State) (u : Use) (cause detail : Nat) (xaddr : Word := 0) : Out :=
  match s.trapBundle u.sl { PTrap.mk' cause detail u.pos xaddr with resume := 0 } with
  | .next s' => .next { s' with cur := { s'.cur with st := .whole } }
  | o => o

/-- A guard's value (R43): of slots 1 to 3 as read at issue, of slot 0 read now. -/
def State.guardOf (s : State) (u : Use) : Bool :=
  match s.cur.guards, u.pos with
  | some gs, k + 1 => gs.getLsbD k
  | _, _ => (s.rdP u.sl u.pos 9 u.g.p) != u.g.neg

/-- The first register whose read is early, in exposed mode when CSW.AUD is 1 (R56): the guard first, then the sources of a slot that
executes. A re-entered slot takes its guard from the trap shadow (R359). DEDUCED, log entry 12. -/
def State.earlyOf (s : State) (u : Use) (gd : Bool) : Option Dst :=
  if s.me.aud && (s.me.st u.sl).exposed then
    let gs := if s.cur.reent && u.pos != 0 then [] else [s.me.pred u.sl u.g.p]
    (gs ++ (if gd then u.reads else [])).find? fun d => !(s.me.early u.sl s.cycle d).isEmpty
  else none

/-- EARLY_READ of a slot, unless a check or a rewind that goes before it is met in the same slot (R63, R354). -/
def earlyTrap (u : Use) (s : State) (d : Dst) (out : Out) : Out :=
  match out with
  | .next s' => if s'.cur.st == .whole || s'.cur.st == .np || s'.cur.st == .illegal then .next s' else s.trapSlot u 0x06 (dstDetail d)
  | o => o
/-- A slot operation: skipped when the bundle has stopped, refused for a bad register index (R64), read under its guard
(R43), trapped for an early read (R56); then `kt` when its guard is true, `kf` when it is false. DEDUCED, log entry 12. -/
def slotGuarded (i : Instr) (s : State) (kt kf : Use → State → Out) : Out :=
  match s.cur.st with
  | .ok =>
    match instrUse s.me i with
    | none => .next s
    | some u =>
      match u.bad with
      | some d => s.trapWhole u 0x02 d
      | none =>
        let out := if s.guardOf u then kt u s else kf u s
        match s.earlyOf u (s.guardOf u) with
        | some d => earlyTrap u s d out
        | none => out
  | _ => .next s

/-- A slot operation with no effect when its guard is false. -/
def slotGo (i : Instr) (s : State) (k : Use → State → Out) : Out := slotGuarded i s k fun _ s => .next s

/-- The first poisoned register of some reads. -/
def State.poisoned (s : State) (u : Use) (l : List Dst) : Option Dst :=
  (l.zipIdx.find? fun p => s.readPoison u.sl u.pos p.2 p.1).map (·.1)

/-- POISON_USE at a slot that reads a poisoned register (R115, R155), otherwise the slot's effect. -/
def noPoison (u : Use) (s : State) (l : List Dst) (k : State → Out) : Out :=
  match s.poisoned u l with
  | some d => s.trapSlot u 0x07 (dstDetail d)
  | none => k s

/-- Operand n of a slot's reads as a 64-bit value. -/
def State.src (s : State) (u : Use) (n : Nat) : Word :=
  match u.reads[n]? with
  | some d => (s.readV u.sl u.pos n d).setWidth 64
  | none => 0
/-- Operand n of a slot's reads as a whole register. -/
def State.srcV (s : State) (u : Use) (n : Nat) : VWord :=
  match u.reads[n]? with
  | some d => s.readV u.sl u.pos n d
  | none => 0
/-- The poison of operand n. -/
def State.srcPoison (s : State) (u : Use) (n : Nat) : Bool :=
  match u.reads[n]? with
  | some d => s.readPoison u.sl u.pos n d
  | none => false
/-- The stain of operand n. -/
def State.srcStain (s : State) (u : Use) (n : Nat) : Bool :=
  match u.reads[n]? with
  | some d => s.readStain u.sl u.pos n d
  | none => false

/-- A result to destination n of a slot: landing within L, poison written with it. -/
def State.dstW (s : State) (u : Use) (n L : Nat) (v : Word) (poison : Bool) : State :=
  match u.writes[n]? with
  | some d => s.issueRes u.sl u.pos L { Pend.of d (v.setWidth 1024) with poisonW := true, poison := poison }
  | none => s

end Sys2Proof.Machine
end

