-- ==== Sys2Proof/Machine/Scalar.lean ====
section
/-! DEFINITION. Integer and address arithmetic, select, compares and predicate logic of the X and AC slots (R128-R134). -/

namespace Sys2Proof.Machine

/-- A register-register operation: D := f x y with bound L; the result is poisoned when an operand is (R115). -/
def alu2 (i : Instr) (s : State) (L : Nat) (f : Word → Word → Word) : Out :=
  slotGo i s fun u s => .next (s.dstW u 0 L (f (s.src u 0) (s.src u 1)) (s.srcPoison u 0 || s.srcPoison u 1))
/-- A unary operation. -/
def alu1 (i : Instr) (s : State) (f : Word → Word) : Out :=
  slotGo i s fun u s => .next (s.dstW u 0 1 (f (s.src u 0)) (s.srcPoison u 0))

/-- ADD (R128). -/
def execAdd (o : R3) (s : State) : Out := alu2 (.add o) s 1 fun x y => x + y
/-- SUB (R128). -/
def execSub (o : R3) (s : State) : Out := alu2 (.sub o) s 1 fun x y => x - y
/-- AND (R128). -/
def execAnd (o : R3) (s : State) : Out := alu2 (.and o) s 1 fun x y => x &&& y
/-- OR (R128). -/
def execOr (o : R3) (s : State) : Out := alu2 (.or o) s 1 fun x y => x ||| y
/-- XOR (R128). -/
def execXor (o : R3) (s : State) : Out := alu2 (.xor o) s 1 fun x y => x ^^^ y
/-- SHL (R128): the count is y[5:0]. -/
def execShl (o : R3) (s : State) : Out := alu2 (.shl o) s 1 fun x y => x <<< (y.toNat % 64)
/-- SHR (R128). -/
def execShr (o : R3) (s : State) : Out := alu2 (.shr o) s 1 fun x y => x >>> (y.toNat % 64)
/-- SAR (R128). -/
def execSar (o : R3) (s : State) : Out := alu2 (.sar o) s 1 fun x y => x.sshiftRight (y.toNat % 64)
/-- ROL (R128). -/
def execRol (o : R3) (s : State) : Out := alu2 (.rol o) s 1 fun x y => x.rotateLeft (y.toNat % 64)
/-- MIN (R128). -/
def execMin (o : R3) (s : State) : Out := alu2 (.min o) s 1 fun x y => if x.slt y then x else y
/-- MAX (R128). -/
def execMax (o : R3) (s : State) : Out := alu2 (.max o) s 1 fun x y => if x.slt y then y else x
/-- MINZ (R128). -/
def execMinz (o : R3) (s : State) : Out := alu2 (.minz o) s 1 fun x y => if x.ult y then x else y
/-- MAXZ (R128). -/
def execMaxz (o : R3) (s : State) : Out := alu2 (.maxz o) s 1 fun x y => if x.ult y then y else x
/-- MUL (R129). -/
def execMul (o : R3) (s : State) : Out := alu2 (.mul o) s 3 fun x y => x * y
/-- MULH (R129). -/
def execMulh (o : R3) (s : State) : Out := alu2 (.mulh o) s 3 mulhS
/-- MULHZ (R129). -/
def execMulhz (o : R3) (s : State) : Out := alu2 (.mulhz o) s 3 mulhZ
/-- DIV (R129). -/
def execDiv (o : R3) (s : State) : Out := alu2 (.div o) s 24 divS
/-- DIVZ (R129). -/
def execDivz (o : R3) (s : State) : Out := alu2 (.divz o) s 24 divZ
/-- REM (R129). -/
def execRem (o : R3) (s : State) : Out := alu2 (.rem o) s 24 remS
/-- REMZ (R129). -/
def execRemz (o : R3) (s : State) : Out := alu2 (.remz o) s 24 remZ

/-- MOV (R130). -/
def execMov (o : R2) (s : State) : Out := alu1 (.mov o) s fun x => x
/-- NOT (R130). -/
def execNot (o : R2) (s : State) : Out := alu1 (.not o) s fun x => ~~~x
/-- CLZ (R130). -/
def execClz (o : R2) (s : State) : Out := alu1 (.clz o) s fun x => BitVec.ofNat 64 (clz64 x)
/-- CTZ (R130). -/
def execCtz (o : R2) (s : State) : Out := alu1 (.ctz o) s fun x => BitVec.ofNat 64 (ctzFrom x.toNat 64)
/-- POPC (R130). -/
def execPopc (o : R2) (s : State) : Out := alu1 (.popc o) s fun x => BitVec.ofNat 64 (popFrom x.toNat 64)
/-- BSWAP (R130). -/
def execBswap (o : R2) (s : State) : Out := alu1 (.bswap o) s bswap64

/-- ADDI (R131). -/
def execAddi (o : RI) (s : State) : Out := alu1 (.addi o) s fun x => x + o.imm.signExtend 64
/-- ANDI (R131). -/
def execAndi (o : RI) (s : State) : Out := alu1 (.andi o) s fun x => x &&& o.imm.signExtend 64
/-- ORI (R131). -/
def execOri (o : RI) (s : State) : Out := alu1 (.ori o) s fun x => x ||| o.imm.signExtend 64
/-- XORI (R131). -/
def execXori (o : RI) (s : State) : Out := alu1 (.xori o) s fun x => x ^^^ o.imm.signExtend 64
/-- SHLI (R131). -/
def execShli (o : RSh) (s : State) : Out := alu1 (.shli o) s fun x => x <<< o.n.toNat
/-- SHRI (R131). -/
def execShri (o : RSh) (s : State) : Out := alu1 (.shri o) s fun x => x >>> o.n.toNat
/-- SARI (R131). -/
def execSari (o : RSh) (s : State) : Out := alu1 (.sari o) s fun x => x.sshiftRight o.n.toNat
/-- EXTR (R131). -/
def execExtr (o : RField) (s : State) : Out := alu1 (.extr o) s fun x => extrBits x o.pos.toNat (o.len1.toNat + 1)
/-- INS (R131): D is read. -/
def execIns (o : RField) (s : State) : Out := alu2 (.ins o) s 1 fun x d => insBits d x o.pos.toNat (o.len1.toNat + 1)
/-- LI (R131). -/
def execLi (o : LiO) (s : State) : Out := slotGo (.li o) s fun u s => .next (s.dstW u 0 1 (o.imm.signExtend 64) false)
/-- LIH (R131): D is read. -/
def execLih (o : LihO) (s : State) : Out := alu1 (.lih o) s fun d => lihBits d o.k.toNat o.imm

/-- SEL (R132): the poison is that of the operand selected. -/
def execSel (o : SelO) (s : State) : Out :=
  slotGo (.sel o) s fun u s =>
    let n := if (s.srcV u 2).getLsbD 0 then 0 else 1
    .next (s.dstW u 0 1 (s.src u n) (s.srcPoison u n))

/-- CMP (R133); POISON_USE on a poisoned operand (R115). -/
def execCmp (o : CmpO) (s : State) : Out :=
  slotGo (.cmp o) s fun u s => noPoison u s u.reads fun s =>
    .next (s.dstW u 0 1 (if ccEvalW o.cc o.w32 (s.src u 0) (s.src u 1) then 1 else 0) false)
/-- CMPI (R133). -/
def execCmpi (o : CmpiO) (s : State) : Out :=
  slotGo (.cmpi o) s fun u s => noPoison u s u.reads fun s =>
    .next (s.dstW u 0 1 (if ccEval o.cc (s.src u 0) (ccExt o.cc o.imm) then 1 else 0) false)

/-- Predicate logic over the operands' values. -/
def predOp (i : Instr) (s : State) (f : Bool → Bool → Bool) : Out :=
  slotGo i s fun u s =>
    .next (s.dstW u 0 1 (if f ((s.srcV u 0).getLsbD 0) ((s.srcV u 1).getLsbD 0) then 1 else 0) false)
/-- PAND (R134). -/
def execPand (o : R3) (s : State) : Out := predOp (.pand o) s fun a b => a && b
/-- POR (R134). -/
def execPor (o : R3) (s : State) : Out := predOp (.por o) s fun a b => a || b
/-- PXOR (R134). -/
def execPxor (o : R3) (s : State) : Out := predOp (.pxor o) s fun a b => a != b
/-- PNOT (R134). -/
def execPnot (o : R2) (s : State) : Out := predOp (.pnot o) s fun a _ => !a
/-- PMOV (R134). -/
def execPmov (o : R2) (s : State) : Out := predOp (.pmov o) s fun a _ => a

end Sys2Proof.Machine
end

