-- ==== Sys2Proof/Machine/Branch.lean ====
section
/-! DEFINITION. Branches, loops and waits (R52-R54, R119, R120, R135-R137, R346). -/

namespace Sys2Proof.Machine

/-- The branch of the bundle being issued: its target when taken, three delay slots (R53). -/
def State.branchTo (s : State) (t : Option Word) : State :=
  { s with cur := { s.cur with br := some { target := t, left := 3, rft := false } } }
/-- Target of a bundle offset (R52). -/
def State.offTarget (s : State) {n : Nat} (off : BitVec n) : Word := s.cur.pc + (off.signExtend 64) * 16
/-- The address of the bundle after the third delay slot (R135). -/
def State.link (s : State) : Word := s.cur.pc + 64
/-- A branch-class operation: its delay slots follow in any guard state (R53). -/
def branchGo (i : Instr) (s : State) (k : Use → State → Out) : Out :=
  slotGuarded i s k fun _ s => .next (s.branchTo none)

/-- BR (R135). -/
def execBr (o : BrO) (s : State) : Out := branchGo (.br o) s fun _ s => .next (s.branchTo (some (s.offTarget o.off)))
/-- CALL (R135): the link lands in c + 1. -/
def execCall (o : BrO) (s : State) : Out :=
  branchGo (.call o) s fun u s => .next ((s.dstW u 0 1 s.link false).branchTo (some (s.offTarget o.off)))
/-- BRC (R135); POISON_USE on a poisoned register. -/
def execBrc (o : BrcO) (s : State) : Out :=
  branchGo (.brc o) s fun u s => noPoison u s u.reads fun s =>
    .next (s.branchTo (if bcEval o.cond (s.src u 0) then some (s.offTarget o.off) else none))
/-- A register branch (R136, R52): bits [3:0] of the target must be zero, a cause of the slot itself, which names S1; `lk` writes the link.
DESIGN CHOICE, log entry 87. -/
def regBranch (i : Instr) (s : State) (lk : Bool) : Out :=
  branchGo i s fun u s =>
    let t := s.src u 0
    if t.toNat % 16 ≠ 0 then s.trapSlot u 0x02 2
    else noPoison u s u.reads fun s =>
      .next ((if lk then s.dstW u 0 1 s.link false else s).branchTo (some t))
/-- BRR (R136). -/
def execBrr (o : S1O) (s : State) : Out := regBranch (.brr o) s false
/-- CALLR (R136). -/
def execCallr (o : R2) (s : State) : Out := regBranch (.callr o) s true
/-- RET (R136). -/
def execRet (o : S1O) (s : State) : Out := regBranch (.ret o) s false
/-- CHK (R346): taken when the poison bit of S1 is 1. -/
def execChk (o : ChkO) (s : State) : Out :=
  branchGo (.chk o) s fun u s => .next (s.branchTo (if s.srcPoison u 0 then some (s.offTarget o.off) else none))

/-- The loop state a LOOPSET or LOOPB writes, packed as one result: counts, bases, p8 to p15 with their write mask. -/
def loopVal (lc lfc : Nat) (rot prot pv pm : Nat) : VWord :=
  BitVec.ofNat 1024 (lc % 2 ^ 32 + lfc % 2 ^ 32 * 2 ^ 32 + rot % 16 * 2 ^ 64 + prot % 8 * 2 ^ 68 + pv % 256 * 2 ^ 71
    + pm % 256 * 2 ^ 79)
/-- LOOPSET (R119). -/
def execLoopset (o : LoopsetO) (s : State) : Out :=
  slotGo (.loopset o) s fun u s => noPoison u s u.reads fun s =>
    let t := (s.src u 0).toNat % 2 ^ 32
    let lc := if t = 0 then 0 else min (t + o.ds.toNat) (2 ^ 32 - 1)
    .next (s.issueRes o.sl 0 1 (Pend.of (.loop o.sl) (loopVal lc t 0 0 (if t = 0 then 0 else 1) 0xFF)))
/-- LOOPB (R120). -/
def execLoopb (o : BrO) (s : State) : Out :=
  branchGo (.loopb o) s fun _ s =>
    let t := s.me.st o.sl
    let lc := t.lc.toNat
    if lc = 0 then .next (s.branchTo none)
    else
      let lfc := t.lfc.toNat - 1
      let prot := (t.prot.toNat + 7) % 8
      let p8 := prot
      let s := s.issueRes o.sl 0 1 (Pend.of (.loop o.sl)
        (loopVal (lc - 1) lfc ((t.rot.toNat + 15) % 16) prot (if lfc ≠ 0 then 2 ^ p8 else 0) (2 ^ p8)))
      .next (s.branchTo (if lc - 1 ≠ 0 then some (s.offTarget o.off) else none))

/-- WAIT (R137): the next bundle issues no earlier than cycle c + 1 + n. -/
def execWait (o : WaitO) (s : State) : Out :=
  slotGo (.wait o) s fun _ s =>
    .next (s.modMe fun x => x.modSt o.sl fun t => { t with wait := max t.wait (s.cycle + 1 + o.n.toNat) })

end Sys2Proof.Machine
end

