-- ==== Sys2Proof/Machine/Copies.lean ====
section
/-! DEFINITION. Cross-file copies and system register access (R127, R138, R139). -/

namespace Sys2Proof.Machine

/-- XTOV: one 64-bit element of a vector register; its stain stays, its poison is joined (R138). -/
def xtov (i : Instr) (s : State) (e : BitVec 4) : Out :=
  slotGo i s fun u s =>
    match u.writes[0]? with
    | none => .next s
    | some d =>
      .next (s.issueRes u.sl u.pos 2 { Pend.of d ((s.src u 0).setWidth 1024 <<< (64 * e.toNat)) with
        mask := 1#16 <<< e.toNat, ew := 64, poisonW := s.srcPoison u 0, poison := true })
/-- XTOV into va (R138). -/
def execXtovVa (o : CopyO) (s : State) : Out := xtov (.xtovVa o) s o.e
/-- XTOV into vb (R138). -/
def execXtovVb (o : CopyO) (s : State) : Out := xtov (.xtovVb o) s o.e
/-- VTOX: a 64-bit element with the register's poison (R138). -/
def vtox (i : Instr) (s : State) (e : BitVec 4) : Out :=
  slotGo i s fun u s => .next (s.dstW u 0 2 ((s.srcV u 0).extractLsb' (64 * e.toNat) 64) (s.srcPoison u 0))
/-- VTOX from va (R138). -/
def execVtoxVa (o : CopyO) (s : State) : Out := vtox (.vtoxVa o) s o.e
/-- VTOX from vb (R138). -/
def execVtoxVb (o : CopyO) (s : State) : Out := vtox (.vtoxVb o) s o.e
/-- A whole-register copy with its stain and poison bits (R138); an early read takes it byte by byte. DESIGN CHOICE, log entry 90. -/
def vcopy (i : Instr) (s : State) : Out :=
  slotGo i s fun u s =>
    match u.writes[0]? with
    | none => .next s
    | some d => .next (s.issueRes u.sl u.pos 2 { Pend.of d (s.srcV u 0) with
        ew := 8, stainW := true, stain := s.srcStain u 0, poisonW := true, poison := s.srcPoison u 0 })
/-- VATOVB (R138). -/
def execVatovb (o : GDS) (s : State) : Out := vcopy (.vatovb o) s
/-- VBTOVA (R138). -/
def execVbtova (o : GDS) (s : State) : Out := vcopy (.vbtova o) s
/-- XTOA (R138, R139): a[D] of the A slice, renamed with AROT as it stands now, landing in cycle c + 2 exactly. -/
def execXtoa (o : GDS) (s : State) : Out :=
  slotGo (.xtoa o) s fun u s => noPoison u s u.reads fun s =>
    .next (s.issueRes .c 0 2 { Pend.of (s.me.scal .a o.d) ((s.src u 0).setWidth 1024) with cross := true } true)
/-- ATOX (R138, R139): g[D] of the C slice, renamed with VROT; its poison is clear. -/
def execAtox (o : GDS) (s : State) : Out :=
  slotGo (.atox o) s fun u s =>
    .next (s.issueRes .a 0 2 { Pend.of (s.me.scal .c o.d) ((s.src u 0).setWidth 1024) with
      cross := true, poisonW := true } true)

/-- A system register write (R127): it lands in c + 1. -/
def csrWrite (i : Instr) (s : State) : Out :=
  slotGo i s fun u s => noPoison u s u.reads fun s => .next (s.dstW u 0 1 (s.src u 0) false)
/-- CSRW (R127). -/
def execCsrw (o : CsrwO) (s : State) : Out := csrWrite (.csrw o) s
/-- ACSRW (R127). -/
def execAcsrw (o : CsrwO) (s : State) : Out := csrWrite (.acsrw o) s

end Sys2Proof.Machine
end

