-- ==== Sys2Proof/Machine/Protect.lean ====
section
/-! DEFINITION. The physical map, and the encryption and integrity protection of the lines of HBM, the near tier, the far tier and the Vats
(R16, R17, R252, R287-R289, R295-R301, R465). -/

namespace Sys2Proof.Machine

/-- The memories changed. -/
def State.modMem (s : State) (f : MemSys → MemSys) : State := { s with mem := f s.mem }

/-- The die of a runner number (R22). -/
def dieOf (n : Nat) : Nat := n / 64 % 4
/-- The cluster of a dispatchable runner, counted over the module: die × 8 + cluster (R22). -/
def clusterOf (n : Nat) : Nat := n / 8

/-! ### The physical map (R287, R252, R295) -/

/-- The classes of physical memory. -/
inductive PClass | hbm | near | far | host | none
  deriving DecidableEq, Repr
/-- First byte of the near tier. -/
def nearBase : Nat := 0x10000000000
/-- First byte of the far tier. -/
def farBase : Nat := 0x100000000000
/-- First byte of the host window. DESIGN CHOICE, log entry 3. -/
def hostBase : Nat := 0x80000000000000
/-- The class of a physical address (R287). -/
def pclass (pa : Nat) : PClass :=
  if pa < hbmBytes then .hbm
  else if nearBase ≤ pa ∧ pa < 0x2C000000000 then .near
  else if farBase ≤ pa ∧ pa < 0x200000000000 then .far
  else if hostBase ≤ pa ∧ pa < 0x100000000000000 then .host
  else .none

/-- The (stack, channel) pairs of a pleat as channel numbers, by stack and then by channel (R252, R288). -/
def Pleat.chans (p : Pleat) : List Nat :=
  (List.range 384).filter fun c => p.smask.getLsbD (c / 32) && p.cmask.getLsbD (c % 32)
/-- The valid pleat that covers a physical address. -/
def Tables.pleatOf (t : Tables) (pa : Nat) : Option Pleat :=
  (t.pleats.find? fun e => decide (e.2.pbase ≤ pa ∧ pa < e.2.pbase + e.2.len)).map (·.2)
/-- The channel of a pleat's physical address and the channel-local offset (R252). -/
def Pleat.decode (p : Pleat) (pa : Nat) : Nat × Nat :=
  let sz := 2 ^ (p.gran + 8)
  let g := (pa - p.pbase) / sz
  let cs := p.chans
  let c := cs.getD (g % cs.length) 0
  (c, agetD p.bases c 0 + g / cs.length * sz + pa % sz)
/-- The calendar that serves a physical address: an HBM channel, or near calendar 384 + j; none for far and host. -/
def State.chanOf (s : State) (pa : Nat) : Option Nat :=
  match pclass pa with
  | .hbm => (s.tabs.pleatOf pa).map fun p => (p.decode pa).1
  | .near => some (384 + (pa - nearBase) / 4096 % 12)
  | _ => none
/-- L of R292 for a calendar and a requester's die. -/
def chanLatency (ch run : Nat) : Nat :=
  if 384 ≤ ch then 560 else if ch / 96 = dieOf run then 320 else 410

/-- The lessee entry that maps a far-tier address. -/
def Tables.lesseeOf (t : Tables) (pa : Nat) : Option (Nat × Lease) :=
  t.leases.find? fun e => !e.2.lessor && decide (e.2.lbase ≤ pa ∧ pa < e.2.lbase + e.2.len)

/-! ### Lines and their counter trees (R295, R297, R299, R300) -/

/-- An owner's key state. -/
def Tables.tkey (t : Tables) (o : Nat) : TKey :=
  agetD t.tkeys o
    { curgen := false, sweep := false, mem0 := none, mem1 := none, sealIx := none, rotcnt := 0, sealctr := 0,
      ctxn := 0 }
/-- Line l of the Vat of die d, among the lines of the module: above those of physical memory. -/
def vatLine (d l : Nat) : Nat := 2 ^ 52 + d * 2 ^ 32 + l
/-- The lines of a byte range. -/
def linesOf (pa n : Nat) : List Nat := (List.range ((pa + n + 63) / 64 - pa / 64)).map fun i => pa / 64 + i
/-- The counter tree of a line and the leaf of 128 lines that covers it: of its stack by channel and channel-local address, of its Vat, of
the near tier, of its LESSEE entry; none in the host window (R298, R300). DEDUCED, log entry 72. -/
def State.leafOf (s : State) (ln : Nat) : Option (Nat × Nat) :=
  if 2 ^ 52 ≤ ln then some (12 + (ln - 2 ^ 52) / 2 ^ 32, ln % 2 ^ 32 / 128)
  else
    let pa := 64 * ln
    match pclass pa with
    | .hbm => (s.tabs.pleatOf pa).map fun p => let d := p.decode pa; (d.1 / 32, d.1 % 32 * 245760 + d.2 / 8192)
    | .near => some (16, (pa - nearBase) / 8192)
    | .far => (s.tabs.lesseeOf pa).map fun e => (17 + e.1, (pa - e.2.lbase) / 8192)
    | _ => none
/-- The number of levels above the leaves, the root's among them: 8-ary nodes over the leaves of the tree. -/
def State.treeHeight (s : State) (tree : Nat) : Nat :=
  let n := if tree < 12 then 32 * 245760 else if tree < 16 then 20480 else if tree = 16 then 0x1C000000000 / 8192
    else match aget s.tabs.leases (tree - 17) with | some e => e.len / 8192 | none => 0
  ((List.range 16).find? fun h => decide (n ≤ 8 ^ h)).getD 16
/-- How often the pages a line lies in have been filled with zero lines (R289). -/
def MemSys.fillsOf (m : MemSys) (ln : Nat) : Nat :=
  (m.fills.map fun f => if f.1.1 / 64 ≤ ln ∧ ln < (f.1.1 + f.1.2) / 64 then f.2 else 0).sum
/-- The squad on a die whose Vat window holds a line, with the line's place in the window (R215, R259). -/
def State.vatHolder (s : State) (ln : Nat) : Option (Squad × Nat) :=
  if ln < 2 ^ 52 then none
  else
    let d := (ln - 2 ^ 52) / 2 ^ 32
    let l := ln % 2 ^ 32
    s.fw.squads.findSome? fun z =>
      match z.runners with
      | r :: _ =>
        let w := (s.rn r).vatWin
        if dieOf r = d ∧ w.base / 64 ≤ l ∧ l < (w.base + w.size) / 64 then some (z, l - w.base / 64) else none
      | [] => none
/-- The protection state of a line; one not listed has been written only with its page or window, or by a sweep. DEDUCED, log entry 72. -/
def State.line (s : State) (ln : Nat) : Line :=
  match aget s.mem.lines ln with
  | some l => l
  | none =>
    let mj := match s.leafOf ln with | some k => agetD s.mem.major k 0 | none => 0
    let of_ (o : Nat) (g : Bool) (n : Nat) : Line := { owner := o, gen := g, major := mj + n / 4, minor := n % 4, failed := false, ecc := false }
    match s.tabs.leaves.find? fun e => decide (e.pa / 64 ≤ ln ∧ ln < (e.pa + e.size) / 64) with
    | some e =>
      let swept := decide (ln - e.pa / 64 < e.swept)
      of_ e.owner (e.gen != swept) (s.mem.fillsOf ln + if swept then 1 else 0)
    | none =>
      match s.vatHolder ln with
      | some (z, k) =>
        let swept := decide (k < z.vatSwept)
        of_ z.owner (z.vatGen != swept) (s.mem.fillsOf ln + if swept then 1 else 0)
      | none => of_ 0x7FF false (s.mem.fillsOf ln)
/-- A write counted along the path of a leaf: of the leaf, in the interior nodes and at the root (R300). DEDUCED, log entry 72. -/
def State.countPath (s : State) (k : Nat × Nat) : State :=
  let h := s.treeHeight k.1
  s.modMem fun m => { m with
    nodes := (List.range h).foldl (fun l i =>
      let z := (k.1, i, k.2 / 8 ^ i)
      aput l z ((agetD l z 0 + 1) % 2 ^ 56)) m.nodes
    roots := aput m.roots k.1 ((agetD m.roots k.1 0 + 1) % 2 ^ 56) }
/-- Writes of whole pages counted under a block of a tree at a level, or under its root (R289, R300). DEDUCED, log entry 72. -/
def State.pagesUnder (s : State) (tree lvl ix : Nat) : Nat :=
  (s.mem.filled.map fun f => f.2 * ((linesOf f.1.1 f.1.2).filter fun ln =>
    match s.leafOf ln with | some k => k.1 == tree && k.2 / 8 ^ lvl == ix | none => false).length).sum
/-- The counter that a block's parent holds for it: the writes beneath it (R300). DEDUCED, log entry 72. -/
def State.nodeCtr (s : State) (tree lvl ix : Nat) : Nat := (agetD s.mem.nodes (tree, lvl, ix) 0 + s.pagesUnder tree lvl ix) % 2 ^ 56
/-- The root of a tree (R300). -/
def State.rootCtr (s : State) (tree : Nat) : Nat := (agetD s.mem.roots tree 0 + s.pagesUnder tree (s.treeHeight tree) 0) % 2 ^ 56
/-- The other lines of a leaf brought under its major counter: at once where no calendar has mending slots for it. -/
def State.reencrypt (s : State) (k : Nat × Nat) : State :=
  let up (m : MemSys) (e : Nat × Line) : Nat × Line := if s.leafOf e.1 == some k then (e.1, { e.2 with major := agetD m.major k 0 }) else e
  s.modMem fun m => { m with lines := m.lines.map (up m) }
/-- What a write makes of a line in leaf k, under an owner's key of generation `gen`, and whether its minor counter overflows: then the
major counter of the leaf rises (R299, R300). A write of the whole line repairs it; another leaves it as it is (R465). -/
def State.nextLine (s : State) (k : Nat × Nat) (o : Nat) (gen : Bool) (ln : Nat) (whole : Bool) : Line × Bool :=
  let l := s.line ln
  let wraps := decide (l.minor % 4 = 3)
  ({ owner := o, gen := gen, major := max l.major (agetD s.mem.major k 0) + (if wraps then 1 else 0), minor := (l.minor + 1) % 4,
     failed := l.failed && !whole, ecc := l.ecc }, wraps)
/-- A line written under an owner's key of generation `gen`: its minor counter rises, and when it overflows the major counter of its leaf
rises and every line of the leaf is to be re-encrypted in mending slots; in a Vat, which has none, that happens at once (R299, R300). -/
def State.setLine (s : State) (o : Nat) (gen : Bool) (ln : Nat) (whole : Bool) : State :=
  match s.leafOf ln with
  | none => s
  | some k =>
    let z := s.nextLine k o gen ln whole
    let wraps := z.2
    let s := s.modMem fun m => { m with
      lines := aput m.lines ln z.1
      major := if wraps then aput m.major k z.1.major else m.major
      reenc := if wraps && !m.reenc.contains k then m.reenc ++ [k] else m.reenc }
    if wraps && decide (12 ≤ k.1 ∧ k.1 < 16) then (s.reencrypt k).modMem fun m => { m with reenc := m.reenc.filter fun z => z != k } else s
/-- As `setLine`, the write counted along its path. -/
def State.putLine (s : State) (o : Nat) (gen : Bool) (ln : Nat) (whole : Bool) : State :=
  match s.leafOf ln with
  | none => s
  | some k => (s.setLine o gen ln whole).countPath k
/-- A line written by an owner, under the current generation of its key. -/
def State.touchLine (s : State) (o ln : Nat) (whole : Bool) : State := s.putLine o (s.tabs.tkey o).curgen ln whole
/-- A re-encryption of one line of a leaf whose major counter rose, in a mending slot (R300); the leaf is done when none is left. -/
def State.reencStep (s : State) (k : Nat × Nat) : State :=
  let mj := agetD s.mem.major k 0
  match s.mem.lines.find? fun e => s.leafOf e.1 == some k && e.2.major != mj with
  | some e => s.modMem fun m => { m with lines := aput m.lines e.1 { e.2 with major := mj } }
  | none => s.modMem fun m => { m with reenc := m.reenc.filter fun z => z != k }
/-- The count of a range's fills raised. -/
def bump2 (l : List ((Nat × Nat) × Nat)) (k : Nat × Nat) : List ((Nat × Nat) × Nat) := aput l k (agetD l k 0 + 1)
/-- The lines of a range of physical memory written for an owner as a page (R289, R302): listed ones one by one, the others together; each is
counted along its path. DEDUCED, log entry 72. -/
def State.fillLines (s : State) (o pa n : Nat) : State :=
  let ls := (s.mem.lines.filter fun l => decide (pa / 64 ≤ l.1 ∧ l.1 < (pa + n) / 64)).map (·.1)
  (ls.foldl (fun s ln => s.setLine o (s.tabs.tkey o).curgen ln true) s).modMem fun m => { m with
    fills := bump2 m.fills (pa, n), filled := bump2 m.filled (pa, n) }

/-! ### The cluster encryption engine: ciphertext and tags (R16, R17, R299, R301) -/

/-- Bits [107:58] of a line's block: pa[55:6], or the byte offset of a Vat line (R299). -/
def lineAddr (ln : Nat) : Nat := if 2 ^ 52 ≤ ln then 64 * (ln % 2 ^ 32) else ln
/-- The block address that a line's tag covers: the byte address of its line (R299). -/
def blockAddr (ln : Nat) : Nat := if 2 ^ 52 ≤ ln then 64 * (ln % 2 ^ 32) else 64 * ln
/-- CTR of a line (R300): the major counter joined with the minor counter, to 56 bits. DEDUCED, log entry 72. -/
def Line.ctr (l : Line) : Nat := (l.major * 4 + l.minor % 4) % 2 ^ 56
/-- The block of R299: TAGSEL, OWNER, GEN, the line's address, CTR, j. -/
def Line.block (l : Line) (tagsel : Bool) (ln j : Nat) : BitVec 128 :=
  BitVec.ofNat 128 ((if tagsel then 2 ^ 120 else 0) + l.owner % 2 ^ 11 * 2 ^ 109 + (if l.gen then 2 ^ 108 else 0)
    + lineAddr ln % 2 ^ 50 * 2 ^ 58 + l.ctr * 4 + j % 4)
/-- The MEM key of an owner's generation. -/
def State.memKey (s : State) (o : Nat) (gen : Bool) : BitVec 256 :=
  let k := s.tabs.tkey o
  match (if gen then k.mem1 else k.mem0).bind fun i => aget s.tabs.keys i with
  | some e => e.key
  | none => 0
/-- The 64 bytes of keystream of a line. -/
def State.keystream (s : State) (l : Line) (ln : Nat) : List Byte :=
  (List.range 4).flatMap fun j => natLe 16 (Config.aes256 (s.memKey l.owner l.gen) (l.block false ln j)).toNat
/-- A line passed through an engine, either way: the exclusive or with its keystream. -/
def State.engine (s : State) (l : Line) (ln : Nat) (bs : List Byte) : List Byte := (bs.zip (s.keystream l ln)).map fun p => p.1 ^^^ p.2
/-- The 56-bit tag of a ciphertext line (R299). -/
def State.lineTag (s : State) (l : Line) (ln : Nat) (c : List Byte) : BitVec 56 :=
  let key := s.memKey l.owner l.gen
  let g := Config.ghash (Config.aes256 key 0) (c ++ natLe 16 (blockAddr ln))
  (g ^^^ Config.aes256 key (l.block true ln 0)).extractLsb' 72 56
/-- The 64 bytes of a line as programs see them. -/
def State.plainLine (s : State) (ln : Nat) : List Byte :=
  if 2 ^ 52 ≤ ln then (agetD s.mem.vat ((ln - 2 ^ 52) / 2 ^ 32) []).read (64 * (ln % 2 ^ 32)) 64 else s.mem.phys.read (64 * ln) 64
/-- What a memory holds of a line (R17): its ciphertext and its tag; of a failed line a tag that does not verify. -/
def State.heldLine (s : State) (ln : Nat) : List Byte × BitVec 56 :=
  let l := s.line ln
  let c := s.engine l ln (s.plainLine ln)
  let t := s.lineTag l ln c
  (c, if l.failed then ~~~t else t)
/-- Some bytes as an engine writes them out under a line's counter: ciphertext, then the tag; of a line that stays failed a tag that fails
(R302, R465). -/
def State.sealed (s : State) (l : Line) (ln : Nat) (plain : List Byte) : List Byte :=
  let c := s.engine l ln plain
  let t := s.lineTag l ln c
  c ++ natLe 7 (if l.failed then ~~~t else t).toNat
/-- The counter state of a line after some writes of an owner that are on their way. -/
def State.lineAhead (s : State) (o ln : Nat) (whole : Bool) : Nat → Line
  | 0 => s.line ln
  | n + 1 => State.lineAhead (s.setLine o (s.tabs.tkey o).curgen ln whole) o ln whole n

/-! ### Blocks of the counter trees (R288, R297, R300) -/

/-- The lines of a leaf, where the present pleats and leases place them. -/
def State.leafLines (s : State) (k : Nat × Nat) : List Nat :=
  (List.range 128).filterMap fun j =>
    if k.1 < 12 then
      let ch := 32 * k.1 + k.2 / 245760
      let off := k.2 % 245760 * 8192 + 64 * j
      s.tabs.pleats.findSome? fun e =>
        let p := e.2
        let sz := 2 ^ (p.gran + 8)
        let b := agetD p.bases ch 0
        match p.chans.findIdx? fun c => c == ch with
        | some i =>
          let pa := p.pbase + (((off - b) / sz * p.chans.length + i) * sz + (off - b) % sz)
          if b ≤ off ∧ pa < p.pbase + p.len then some (pa / 64) else none
        | none => none
    else if k.1 < 16 then some (vatLine (k.1 - 12) (128 * k.2 + j))
    else if k.1 = 16 then some (nearBase / 64 + 128 * k.2 + j)
    else (aget s.tabs.leases (k.1 - 17)).map fun e => e.lbase / 64 + 128 * k.2 + j
/-- The 64 bytes of a leaf block (level 0) or an interior node: major counter, minor counters and GEN bits of its lines, or the counters of
eight blocks; then the MAC (R300). Their order in the block: DESIGN CHOICE, log entry 102. -/
def State.blockBytes (s : State) (tree lvl ix : Nat) : List Byte :=
  let body :=
    if lvl = 0 then
      let ls := (s.leafLines (tree, ix)).map s.line
      natLe 7 (agetD s.mem.major (tree, ix) 0)
        ++ natLe 32 (ls.zipIdx.map fun p => p.1.minor % 4 * 4 ^ p.2).sum
        ++ natLe 16 (ls.zipIdx.map fun p => if p.1.gen then 2 ^ p.2 else 0).sum
    else (List.range 8).flatMap fun j => natLe 7 (s.nodeCtr tree (lvl - 1) (8 * ix + j))
  let b := body ++ natLe 7 (Config.nodeMac (s.nodeCtr tree lvl ix) body).toNat
  b ++ List.replicate (64 - b.length) 0
/-- Whether the MACs of a line's leaf block and of every node on its path verify (R300). -/
def State.pathOk (s : State) (ln : Nat) : Bool :=
  match s.leafOf ln with
  | some k => (List.range (s.treeHeight k.1)).all fun i =>
    let b := s.blockBytes k.1 i (k.2 / 8 ^ i)
    let n := if i = 0 then 55 else 56
    leNat ((b.drop n).take 7) == (Config.nodeMac (s.nodeCtr k.1 i (k.2 / 8 ^ i)) (b.take n)).toNat
  | none => true
/-- Whether a line passes the check that every read of it makes: its tag under the key and counter that its tree holds, and the path of the
tree to its root (R300, R301). -/
def State.lineOk (s : State) (ln : Nat) : Bool := (s.heldLine ln).2 == s.lineTag (s.line ln) ln (s.heldLine ln).1 && s.pathOk ln

end Sys2Proof.Machine
end

