-- ==== Sys2Proof/Machine/Tiles.lean ====
section
/-! DEFINITION. Tile identifiers, windows, the tile tables and the bytes of the scratchpad levels (R214-R222, R267, R269). -/

namespace Sys2Proof.Machine

/-! ### Error logs (R285) -/

/-- An entry joined to a log: repeat counts, a free place, else the oldest without UE, else the PF summary. -/
def logAdd (l : List LogE) (e : LogE) : List LogE × Bool :=
  match l.findIdx? fun o => o.addr == e.addr && o.arr == e.arr with
  | some i => (l.modify i fun o => { o with cnt := min 65535 (o.cnt + 1), ue := o.ue || e.ue }, false)
  | none =>
    if l.length < 16 then (l ++ [e], false)
    else match l.findIdx? fun o => !o.ue with
      | some i => (l.eraseIdx i ++ [e], false)
      | none => (l, true)
/-- The 128 bits of a log entry: the low and the high 64. DESIGN CHOICE, log entry 27. -/
def LogE.words (e : LogE) : Word × Word :=
  (BitVec.ofNat 64 (e.owner % 2 ^ 11 * 2 ^ 53 + e.run % 2 ^ 9 * 2 ^ 44 + e.arr % 16 * 2 ^ 40 + e.syn.toNat * 2 ^ 32
    + e.cnt % 2 ^ 16 * 2 ^ 16 + (if e.inj then 4 else 0) + (if e.ue then 2 else 0) + 1), e.addr)
/-- A record for a heat's event stream (R416). -/
def State.event (s : State) (heat : Word) (kind : Nat) (lo hi : Word) : State :=
  { s with fw := { s.fw with evq := s.fw.evq ++ [{ heat := heat, kind := kind, lo := lo, hi := hi }] } }
/-- An error logged for an array code and instance; the Mangle and the accumulators share a log. A new entry goes to the
event stream of the heat of its runner. DESIGN CHOICE, log entry 27. -/
def State.logErr (s : State) (arr inst : Nat) (e : LogE) : State :=
  let key := (if arr = 2 then 1 else arr, inst)
  let old := agetD s.mem.logs key []
  let r := logAdd old e
  let s := s.modMem fun m => { m with logs := aput m.logs key r.1, errsum := m.errsum + (if r.2 then 1 else 0) }
  let x := s.rn e.run
  if x.squad.isSome && x.num == e.run && !(old.any fun o => o.addr == e.addr && o.arr == e.arr) then
    s.event x.heatid 4 e.words.1 e.words.2
  else s

/-- A detected word of an on-chip array logged for a runner (R285): SYN is 0xFF for a Vat line whose tag fails. DESIGN CHOICE, log entry
70. -/
def State.logWord (s : State) (r : Nat) (f : FailW) : State :=
  s.logErr f.arr f.inst
    { addr := BitVec.ofNat 64 f.off, owner := (s.rn r).owner, run := r, arr := f.arr,
      syn := if f.tag then 0xFF else Config.syndrome f.arr f.inst f.off, cnt := 0, inj := f.inj, ue := f.ue }
/-- Failed words logged. -/
def State.logWords (s : State) (r : Nat) (fs : List FailW) : State := fs.foldl (fun s f => s.logWord r f) s
/-- Bytes of the unit that an array's protection covers: the line of the Vat, the word of any other (R465). -/
def unitOf (arr : Nat) : Nat := if arr = 4 then 64 else 8
/-- The first byte of the unit in which an error lies. -/
def FailW.unit (f : FailW) : Nat := f.off / unitOf f.arr * unitOf f.arr
/-- The errors of the units that bytes [a, a + n) of an array touch. -/
def State.errsIn (s : State) (arr inst a n : Nat) : List FailW :=
  s.mem.failed.filter fun f => f.arr == arr && f.inst == inst && decide (f.unit < a + n ∧ a < f.unit + unitOf arr)
/-- The uncorrectable ones. -/
def State.failsIn (s : State) (arr inst a n : Nat) : List FailW := (s.errsIn arr inst a n).filter (·.ue)
/-- A read corrects the words it can: they are logged and written back (R284). DESIGN CHOICE, log entry 27. -/
def State.corrects (s : State) (r arr inst a n : Nat) : State :=
  let l := (s.errsIn arr inst a n).filter fun f => !f.ue
  if l.isEmpty then s
  else (s.logWords r l).modMem fun m => { m with failed := m.failed.filter fun f => !l.contains f }

/-! ### Writes of the arrays (R286, R465) -/

/-- Whether some byte ranges cover [a, a + n). -/
def covers (l : List (Nat × Nat)) (a n : Nat) : Bool := (List.range n).all fun i => l.any fun p => decide (p.1 ≤ a + i ∧ a + i < p.1 + p.2)
/-- Whether an EINJ register is armed for a word that a write of some bytes touches (R286). -/
def einjArmed (v : Word) (arr inst : Nat) (l : List (Nat × Nat)) : Bool :=
  let w := v.toNat
  let off := bits w 36 28 / 8 * 8
  v.getLsbD 0 && bits w 32 4 == arr && bits w 16 16 == inst && l.any fun p => decide (off < p.1 + p.2 ∧ p.1 < off + 8)
/-- What one write of some bytes of an array does to its errors: a failed unit that it replaces whole is repaired, one written in part
stays failed, a Vat line with a tag that fails, and is logged (R465); an armed injection flips its bits and is disarmed (R286). -/
def State.wroteAll (s : State) (r arr inst : Nat) (l : List (Nat × Nat)) : State :=
  let here (f : FailW) : Bool := f.arr == arr && f.inst == inst && l.any fun p => decide (f.unit < p.1 + p.2 ∧ p.1 < f.unit + unitOf arr)
  let whole (f : FailW) : Bool := covers l f.unit (unitOf arr)
  let s := s.logWords r (s.mem.failed.filter fun f => f.ue && here f && !whole f)
  let hot := s.mem.einj.filter fun e => einjArmed e.2 arr inst l
  s.modMem fun m => { m with
    failed := ((m.failed.filter fun f => !(here f && whole f)).map fun f => if here f && f.ue then { f with tag := decide (arr = 4) } else f)
      ++ (hot.filter fun e => !(e.2.getLsbD 1 && bits e.2.toNat 9 7 == bits e.2.toNat 2 7)).map fun e =>
          { arr := arr, inst := inst, off := bits e.2.toNat 36 28 / 8 * 8, inj := true, ue := e.2.getLsbD 1, tag := false }
    einj := m.einj.map fun e => if einjArmed e.2 arr inst l then (e.1, e.2 &&& ~~~(1 : Word)) else e }
/-- As `wroteAll`, of bytes [a, a + n). -/
def State.wrote (s : State) (r arr inst a n : Nat) : State := s.wroteAll r arr inst [(a, n)]

/-- The window of a level as a runner has it (R215). -/
def Runner.window (x : Runner) : Lvl → Window
  | .basin => { first := 0, count := 256, base := 0, size := 2 ^ 21 }
  | .tub => x.tubWin
  | .vat => x.vatWin

/-- A tile-id (R214): none when it is malformed or outside the window. -/
def Runner.tileId (x : Runner) (w : Word) : Option TileId :=
  let n := w.toNat
  let lvl := match bits n 12 2 with | 0 => some Lvl.basin | 1 => some .tub | 2 => some .vat | _ => none
  match lvl with
  | none => none
  | some l => if n < 2 ^ 14 && bits n 0 12 < (x.window l).count then some { lvl := l, idx := bits n 0 12 } else none

/-- The tile-id word of a tile (R214). -/
def tileWord (t : TileId) : Nat := t.idx + (match t.lvl with | .basin => 0 | .tub => 1 | .vat => 2) * 2 ^ 12

/-- The defined entry a tile-id names for a runner (R215, R216). -/
def State.tile (s : State) (r : Nat) (t : TileId) : Option Tile :=
  let x := s.rn r
  match t.lvl with
  | .basin => aget x.tiles t.idx
  | .tub => aget (agetD s.mem.tubTiles (clusterOf r) []) (x.tubWin.first + t.idx)
  | .vat => aget (agetD s.mem.vatTiles (dieOf r) []) (x.vatWin.first + t.idx)

/-- An entry written, or cleared with none. -/
def State.setTile (s : State) (r : Nat) (t : TileId) (v : Option Tile) : State :=
  let put (l : List (Nat × Tile)) (k : Nat) := match v with | some e => aput l k e | none => adel l k
  let x := s.rn r
  match t.lvl with
  | .basin => s.modR r fun x => { x with tiles := put x.tiles t.idx }
  | .tub => s.modMem fun m => { m with tubTiles := (aput m.tubTiles (clusterOf r)
      (put (agetD m.tubTiles (clusterOf r) []) (x.tubWin.first + t.idx))) }
  | .vat => s.modMem fun m => { m with vatTiles := (aput m.vatTiles (dieOf r)
      (put (agetD m.vatTiles (dieOf r) []) (x.vatWin.first + t.idx))) }

/-- A defined entry changed. -/
def State.modTile (s : State) (r : Nat) (t : TileId) (f : Tile → Tile) : State :=
  match s.tile r t with
  | some e => s.setTile r t (some (f e))
  | none => s

/-- The bytes of a level that a runner reaches, with the first byte of its window. -/
def State.spMem (s : State) (r : Nat) : Lvl → Memory
  | .basin => (s.rn r).basin
  | .tub => agetD s.mem.tub (clusterOf r) []
  | .vat => agetD s.mem.vat (dieOf r) []
/-- `n` bytes at an offset of a window. -/
def State.spRead (s : State) (r : Nat) (l : Lvl) (off n : Nat) : List Byte :=
  (s.spMem r l).read (((s.rn r).window l).base + off) n
/-- The array code and instance of a runner's level (R285, R286). -/
def arrOf (r : Nat) : Lvl → Nat × Nat
  | .basin => (0, r)
  | .tub => (3, clusterOf r)
  | .vat => (4, dieOf r)
/-- Byte offset of bundle k of a half of a slice's memory in its runner's instruction memory, array 5. DESIGN CHOICE, log entry 27. -/
def imemOff (sl : Slice) (one : Bool) (k : Nat) : Nat := (if sl == .c then 2 ^ 17 else 0) + (if one then 2 ^ 16 else 0) + 16 * k
/-- Pieces written at offsets of a window by one write; what goes to the Vat is encrypted line by line (R17, R299). -/
def State.spWrites (s : State) (r : Nat) (l : Lvl) (ps : List (Nat × List Byte)) : State :=
  let ps := ps.map fun p => (((s.rn r).window l).base + p.1, p.2)
  let w := ps.map fun p => (p.1, p.2.length)
  let ai := arrOf r l
  let s := s.wroteAll r ai.1 ai.2 w
  let put (m : Memory) : Memory := ps.foldl (fun m p => m.write p.1 p.2) m
  match l with
  | .basin => s.modR r fun x => { x with basin := put x.basin }
  | .tub => s.modMem fun m => { m with tub := aput m.tub (clusterOf r) (put (agetD m.tub (clusterOf r) [])) }
  | .vat =>
    let d := dieOf r
    let s := ((w.flatMap fun p => linesOf p.1 p.2).eraseDups).foldl (fun s ln =>
      s.touchLine (s.rn r).owner (vatLine d ln) (covers w (64 * ln) 64)) s
    s.modMem fun m => { m with vat := aput m.vat d (put (agetD m.vat d [])) }
/-- As `spWrites`, of one piece. -/
def State.spWrite (s : State) (r : Nat) (l : Lvl) (off : Nat) (bs : List Byte) : State := s.spWrites r l [(off, bs)]

/-- Row i of a tile. -/
def State.tileRow (s : State) (r : Nat) (t : TileId) (e : Tile) (i : Nat) : List Byte :=
  s.spRead r t.lvl (e.base + i * e.pitch) e.pitch
/-- Bytes written into row i of a tile from its first byte. -/
def State.setTileRow (s : State) (r : Nat) (t : TileId) (e : Tile) (i : Nat) (bs : List Byte) : State :=
  s.spWrite r t.lvl (e.base + i * e.pitch) bs

/-- The roles an operation takes a tile in (R217). -/
inductive Role | source | dest | storeOut
  deriving DecidableEq, Repr

/-- The issue condition of a role (R217). -/
def roleReady (e : Tile) : Role → Bool
  | .source => e.state == .ready && decide (e.rdr < 15)
  | .dest => e.state == .empty || (e.state == .ready && e.rdr == 0)
  | .storeOut => (e.state == .ready || e.state == .draining) && decide (e.rdr < 15)
/-- What the issue of a role does to an entry (R217). -/
def roleIssue (e : Tile) : Role → Tile
  | .source => { e with rdr := e.rdr + 1 }
  | .dest => { e with state := .filling }
  | .storeOut => { e with state := .draining, rdr := e.rdr + 1 }
/-- A reader count given up: a DRAINING entry becomes READY when RDR reaches 0 (R217). -/
def Tile.unread (e : Tile) : Tile :=
  { e with rdr := e.rdr - 1, state := if e.state == .draining && decide (e.rdr ≤ 1) then .ready else e.state }
/-- What the completion of a role does to an entry (R217). -/
def roleDone (e : Tile) : Role → Tile
  | .dest => { e with state := .ready }
  | _ => e.unread

/-- Where an entry stands in its table: array, instance, index. -/
def State.tileKey (s : State) (r : Nat) (t : TileId) : Nat × Nat × Nat :=
  let ai := arrOf r t.lvl
  (ai.1, ai.2, ((s.rn r).window t.lvl).first + t.idx)
/-- An entry as it is now is kept for the issue checks and samples of this cycle, unless it is already (R217, R225, R226).
DEDUCED, log entry 55. -/
def State.noteTile (s : State) (r : Nat) (t : TileId) : State :=
  let k := s.tileKey r t
  if (aget s.mem.tileLog k).isSome then s else s.modMem fun m => { m with tileLog := (k, s.tile r t) :: m.tileLog }
/-- An entry as the issue checks and samples of this cycle see it: without the effects of this cycle's issues (R217, R225, R226).
DEDUCED, log entry 69. DEDUCED, log entry 55. -/
def State.tileSeen (s : State) (r : Nat) (t : TileId) : Option Tile :=
  match aget s.mem.tileLog (s.tileKey r t) with
  | some e => e
  | none => s.tile r t

/-- Whether the condition of a role holds for the issue checks of this cycle, of a tile that no issue of this cycle has freed (R217).
DEDUCED, log entry 69. -/
def State.roleFree (s : State) (r : Nat) (t : TileId) (ro : Role) : Bool :=
  (match s.tileSeen r t with | some e => roleReady e ro | none => false) && (s.tile r t).isSome
/-- A command takes a tile in a role at issue; what a rewind needs to undo it is kept (R222). DEDUCED, log entry 55. -/
def State.takeTile (s : State) (r cmd : Nat) (t : TileId) (ro : Role) : State :=
  match s.tile r t with
  | none => s
  | some e =>
    let u : TileUndo := { cmd := cmd, tile := t, state := e.state, stain := e.stain, dest := ro != .source, rdr := ro != .dest, entry := none }
    ((s.noteTile r t).setTile r t (some (roleIssue e ro))).modR r fun x => { x with undo := x.undo ++ [u] }
/-- An entry made or freed at issue; a rewind before the boundary that the operation makes puts back what was there (R222, R366).
DEDUCED, log entry 18. -/
def State.remakeTile (s : State) (r : Nat) (t : TileId) (v : Option Tile) : State :=
  let u : TileUndo := { cmd := s.seq, tile := t, state := .empty, stain := 0, dest := false, rdr := false, entry := some (s.tile r t) }
  ((s.noteTile r t).setTile r t v).modR r fun x => { x with undo := x.undo ++ [u] }
/-- A command leaves a tile at its completion; a reader count of it is no longer held. -/
def State.leaveTile (s : State) (r cmd : Nat) (t : TileId) (ro : Role) : State :=
  (s.modTile r t fun e => roleDone e ro).modR r fun x =>
    { x with undo := x.undo.map fun u => if u.cmd == cmd && u.tile == t then { u with rdr := false } else u }

/-- A rewind undoes what a command did to a tile (R222): a destination or store-out returns to the state and stain of its issue; reader
counts still held are released, and DRAINING ends with the last one (R217). -/
def State.undoTile (s : State) (r : Nat) (u : TileUndo) : State :=
  match u.entry with
  | some v => s.setTile r u.tile v
  | none => s.modTile r u.tile fun e =>
    let e := if u.dest then { e with state := u.state, stain := u.stain } else e
    if u.rdr then e.unread else if e.state == .draining && e.rdr == 0 then { e with state := .ready } else e

/-- The tiles of the accessing squad that hold some of n bytes of a level (R220). -/
def State.tilesIn (s : State) (r : Nat) (l : Lvl) (off n : Nat) : List (TileId × Tile) :=
  let x := s.rn r
  let w := x.window l
  let tab := match l with
    | .basin => x.tiles
    | .tub => agetD s.mem.tubTiles (clusterOf r) []
    | .vat => agetD s.mem.vatTiles (dieOf r) []
  (tab.filter fun e => decide (w.first ≤ e.1 ∧ e.1 < w.first + w.count) && !e.2.resv
      && decide (e.2.base < off + n ∧ off < e.2.base + e.2.rows * e.2.pitch)).map
    fun e => ({ lvl := l, idx := e.1 - w.first }, e.2)
/-- The rows of a tile that n bytes of its level touch. -/
def Tile.rowsOf (e : Tile) (off n : Nat) : List Nat :=
  (List.range e.rows).filter fun i => decide (e.base + i * e.pitch < off + n ∧ off < e.base + (i + 1) * e.pitch)
/-- Some rows as a stain mask. -/
def stainRows (l : List Nat) : BitVec 256 := l.foldl (fun m i => m ||| (1#256 <<< i)) 0

/-- The rows that failed units of a level touch stained, in every row-mapped tile (R221). -/
def State.stainUnits (s : State) (r : Nat) (l : Lvl) (fs : List FailW) : State :=
  let at_ (f : FailW) : Nat := f.unit - ((s.rn r).window l).base
  fs.foldl (fun s f => (s.tilesIn r l (at_ f) (unitOf f.arr)).foldl (fun s t =>
    if t.2.rmap then s.modTile r t.1 fun e => { e with stain := e.stain ||| stainRows (e.rowsOf (at_ f) (unitOf f.arr)) } else s) s) s

/-- A scratchpad address (R269): level and offset; none when it raises BOUNDS for `n` bytes. -/
def Runner.scratch (x : Runner) (a : Word) (n : Nat) : Option (Lvl × Nat) :=
  let v := a.toNat
  let lvl := match bits v 60 2 with | 0 => some Lvl.basin | 1 => some .tub | 2 => some .vat | _ => none
  match lvl with
  | none => none
  | some l => if bits v 28 32 = 0 ∧ bits v 0 28 + n ≤ (x.window l).size then some (l, bits v 0 28) else none
/-- Whether an address is a scratchpad address. -/
def isScratch (a : Word) : Bool := a.toNat / 2 ^ 62 == 3

/-- The latency of a level (R268). -/
def lvlLatency : Lvl → Nat
  | .basin => 12
  | .tub => 40
  | .vat => 120
/-- The Sprinter transfer rate of a level in bytes per cycle (R268). -/
def lvlRate : Lvl → Nat
  | .basin => 512
  | .tub => 256
  | .vat => 256

end Sys2Proof.Machine
end

