-- ==== Sys2Proof/Machine/Access.lean ====
section
/-! DEFINITION. Main memory accesses: the extent check, the physical map and its channels, line protection, error logs, race
records, and requests (R232, R252, R284-R292, R299-R302, R309-R312, R465). -/

namespace Sys2Proof.Machine

/-- What the extent check gives (R232). -/
inductive Hit
  | ok (ext : Nat) (phys : Nat)
  | bounds
  | notPresent (ext : Nat)
  deriving DecidableEq, Repr

/-- check_extent(a, n, k): reads, writes, strong (R232). Entries are tried in ascending number. -/
def checkExt (exts : List (Nat × Extent)) (a n : Nat) (rd wr strong : Bool) : Hit :=
  match (List.range 16).findSome? fun i =>
      match aget exts i with
      | some e => if e.vbase ≤ a ∧ a + n ≤ e.vbase + e.len then some (i, e) else none
      | none => none with
  | none => .bounds
  | some (i, e) =>
    if (rd && !e.r) || (wr && !e.w) then .bounds
    else if e.so && !strong then .bounds
    else if !e.p then .notPresent i
    else .ok i (e.pbase + (a - e.vbase))
/-- check_extent of a runner. DEDUCED, log entry 56. -/
def Runner.check (x : Runner) (a : Word) (n : Nat) (rd wr strong : Bool) : Hit :=
  checkExt x.extents a.toNat n rd wr strong

/-! ### Lines of protected memory (R299-R301, R465) -/

/-- An owner's meter; one not listed counts nothing yet. -/
def Tables.meter (t : Tables) (o : Nat) : Meter :=
  agetD t.meters o
    { runns := 0, press := [], bytes := [], lanes := 0, lod := 0, slipst := 0, popst := 0, rewind := [], softrep := 0, seq := 0 }
/-- A meter changed. -/
def State.modMeter (s : State) (o : Nat) (f : Meter → Meter) : State :=
  { s with tabs := { s.tabs with meters := aput s.tabs.meters o (f (s.tabs.meter o)) } }
/-- A count of a list raised. -/
def bump (l : List (Nat × Nat)) (k n : Nat) : List (Nat × Nat) := aput l k (agetD l k 0 + n)
/-- BYTES(k): 64 for each line of physical ranges that one access of an owner reads or writes (R423). -/
def State.meterBytes (s : State) (o : Nat) (l : List (Nat × Nat)) (write : Bool) : State :=
  let tier := match pclass (l.headD (0, 0)).1 with | .hbm => 0 | .near => 2 | .far => 4 | _ => 6
  let n := ((l.flatMap fun p => linesOf p.1 p.2).eraseDups).length
  s.modMeter o fun m => { m with bytes := bump m.bytes (tier + if write then 1 else 0) (64 * n) }

/-- Bytes of physical memory as the cluster encryption engine passes them in, and whether some line of them fails its check (R16, R17, R301):
that check fails exactly for the failed lines (`State.lineOk`). -/
def State.physRead (s : State) (pa n : Nat) : List Byte × Bool :=
  (s.mem.phys.read pa n, (linesOf pa n).any fun ln => (s.line ln).failed)
/-- The log entry of a failed line: its SYN is 0xFF unless it is the line's ECC that fails (R301). -/
def State.logLine (s : State) (r o pa : Nat) : State :=
  let arr := match pclass pa with | .hbm => 7 | .near => 8 | _ => 9
  let inst := match s.chanOf pa with | some c => c / 32 | none => 0
  s.logErr arr (if arr = 7 then inst else 0)
    { addr := BitVec.ofNat 64 (pa / 64 * 64), owner := o, run := r, arr := arr,
      syn := if (s.line (pa / 64)).ecc then Config.syndrome arr inst (pa / 64 * 64) else 0xFF, cnt := 0, inj := false, ue := true }
/-- The failed lines of a read logged. -/
def State.logRead (s : State) (r pa n : Nat) : State :=
  (linesOf pa n).foldl (fun s ln => if (s.line ln).failed then s.logLine r (s.rn r).owner (ln * 64) else s) s
/-- Pieces of physical memory written by one write of runner `r` (0x1FF: firmware) for an owner: the engine encrypts every line under the
owner's current generation (R17, R299); a failed line written in part stays failed and is logged (R465). -/
def State.physWrites (s : State) (r o : Nat) (ps : List (Nat × List Byte)) : State :=
  let l := ps.map fun p => (p.1, p.2.length)
  let ls := (l.flatMap fun p => if pclass p.1 == .host then [] else linesOf p.1 p.2).eraseDups
  let s := ls.foldl (fun s ln =>
    let whole := covers l (64 * ln) 64
    let s := if (s.line ln).failed && !whole then s.logLine r o (64 * ln) else s
    s.touchLine o ln whole) s
  s.modMem fun m => { m with
    phys := ps.foldl (fun p q => p.write q.1 q.2) m.phys
    rels := m.rels.filter fun e => !l.any fun p => decide (p.1 < e.1.2 * 4 + 4 ∧ e.1.2 * 4 < p.1 + p.2) }
/-- As `physWrites`, of one piece. -/
def State.physWrite (s : State) (r o pa : Nat) (bs : List Byte) : State := s.physWrites r o [(pa, bs)]

/-- The failed words of a level that a range of window bytes touches (R284). -/
def State.spFails (s : State) (r : Nat) (l : Lvl) (off n : Nat) : List FailW :=
  let ai := arrOf r l
  s.failsIn ai.1 ai.2 (((s.rn r).window l).base + off) n
/-- A read of window bytes corrects what it can. -/
def State.spCorrects (s : State) (r : Nat) (l : Lvl) (off n : Nat) : State :=
  let ai := arrOf r l
  s.corrects r ai.1 ai.2 (((s.rn r).window l).base + off) n

/-! ### Squads and race records (R309-R312) -/

/-- The squad of a runner. -/
def State.squadOf (s : State) (x : Runner) : Option Squad :=
  match x.squad with
  | some q => s.fw.squads.find? fun z => z.id == q
  | none => none
/-- A squad changed. -/
def State.modSquad (s : State) (q : Nat) (f : Squad → Squad) : State :=
  { s with fw := { s.fw with squads := s.fw.squads.map fun z => if z.id == q then f z else z } }
/-- A runner's index in its squad: SQUADID.IDX (R126). -/
def Runner.idx (x : Runner) : Nat := bits x.squadid.toNat 16 6
/-- SRS of a runner's squad (R310). -/
def State.srs (s : State) (x : Runner) : BitVec 20 := match s.squadOf x with | some q => q.srs | none => 0
/-- later(a, t) of R312. -/
def stampLater (a t : BitVec 20) : Bool := let d := (a - t).toNat; decide (1 ≤ d ∧ d < 2 ^ 19)
/-- newer(a, b) of R311. -/
def stampNewer (a b : BitVec 20) : BitVec 20 := if stampLater b a then b else a
/-- AV entry k of a runner. -/
def Runner.avGet (x : Runner) (k : Nat) : BitVec 20 := x.av.toList.getD k 0
/-- ordered(k, t) of R312. -/
def stampOrdered (x : Runner) (srs : BitVec 20) (k : Nat) (t : BitVec 20) : Bool :=
  stampLater (x.avGet k) t || decide (2 ^ 19 ≤ (srs - t).toNat)
/-- A race record; unlisted ones are zero. -/
def State.race (s : State) (g : Granule) : Race :=
  agetD s.mem.races g { rmask := 0, rs := 0, ws := 0, w := 0, wstr := false, wv := false }
/-- The race check of one granule (R312): the kind of race and the other runner's index, or none. -/
def State.racing (s : State) (x : Runner) (g : Granule) (write strong : Bool) : Option (Nat × Nat) :=
  let rc := s.race g
  let srs := s.srs x
  if rc.wv && rc.w.toNat != x.idx && !(strong && rc.wstr) && !stampOrdered x srs rc.w.toNat rc.ws then
    some (if write then 2 else 0, rc.w.toNat)
  else if write then
    ((List.range 64).find? fun k => rc.rmask.getLsbD k && k != x.idx && !stampOrdered x srs k rc.rs).map fun k => (1, k)
  else none
/-- An access recorded (R312). DEDUCED, log entry 52. -/
def State.record (s : State) (x : Runner) (g : Granule) (write strong : Bool) (stamp : BitVec 20) : State :=
  let rc := s.race g
  let new : Race :=
    if write then { rmask := 0, rs := 0, ws := stamp, w := BitVec.ofNat 6 x.idx, wstr := strong, wv := true }
    else if strong then rc
    else { rc with rmask := rc.rmask ||| (1#64 <<< x.idx), rs := stampNewer rc.rs stamp }
  s.modMem fun m => { m with races := aput m.races g new }

/-- The granules of an access: of physical memory through a checked extent, of a Tub or of a Vat; none elsewhere (R303, R310). -/
def physGranules (e : Extent) (pa n : Nat) : List Granule :=
  if e.w && !e.so && pclass pa != .host then
    (List.range ((pa + n + 255) / 256 - pa / 256)).map fun i => .phys (pa / 256 + i)
  else []
/-- The granules of a scratchpad access. -/
def spGranules (x : Runner) (l : Lvl) (off n : Nat) : List Granule :=
  let a := (x.window l).base + off
  let k := (List.range ((a + n + 255) / 256 - a / 256)).map fun i => a / 256 + i
  match l with
  | .basin => []
  | .tub => k.map fun i => .tub (clusterOf x.num) i
  | .vat => k.map fun i => .vat (dieOf x.num) i

/-- A pending barrier arrival of the runner's squad in the granule of an address: the index of the arriving runner (R327). -/
def State.arrivalAt (s : State) (x : Runner) (a : Word) (n : Nat) : Option Nat :=
  (s.runners.find? fun y => y.squad == x.squad && x.squad.isSome && y.spr.q.any fun c =>
    match c.i with
    | .bararr _ => decide (c.s1.toNat / 256 ≤ (a.toNat + n - 1) / 256 ∧ a.toNat / 256 ≤ (c.s1.toNat + 15) / 256)
    | _ => false).map (·.idx)

/-- RACE's DETAIL (R313): [5:0] the other runner, [7:6] the kind. -/
def raceDetail (k : Nat × Nat) : Nat := k.2 % 64 + k.1 % 4 * 64

/-! ### Requests (R291, R292) -/

/-- A request entered: its pieces with the bytes that it writes, and the cycle from which it is eligible (R291). -/
def State.addReq (s : State) (r : Nat) (els : List (Nat × Nat × List Byte)) (va : Word) (write : Bool) (elig : Nat) (use : ReqFor)
    (mend : Bool := false) : State :=
  let pa := (els.map (·.1)).foldl min ((els.headD (0, 0, [])).1)
  let hi := (els.map fun p => p.1 + p.2.1).foldl max 0
  let q : Req :=
    { id := s.seq, run := r, chan := s.chanOf pa, pa := pa, va := va, len := hi - pa, els := els.map fun p => (p.1, p.2.1), write := write,
      data := els.flatMap (·.2.2), elig := elig, order := s.seq, use := use, start := none, arrive := none, reply := none, fail := false,
      mend := mend }
  { (s.modMem fun m => { m with reqs := m.reqs ++ [q] }) with seq := s.seq + 1 }
/-- The 256-byte blocks of a byte range: address and length of each piece (R290). -/
def blocksOf (a n : Nat) : List (Nat × Nat) :=
  (List.range ((a + n + 255) / 256 - a / 256)).map fun i =>
    let lo := max a ((a / 256 + i) * 256)
    (lo, min (a + n) ((a / 256 + i + 1) * 256) - lo)
/-- The slots of a firmware transfer whose bytes are accounted where firmware acts: one for each 256-byte block, eligible four cycles after
its start (R290, R291); mending slots where lines move (R302). DEDUCED, log entry 74. -/
def State.askSlots (s : State) (l : List (Nat × Nat)) (write : Bool) (tag : Nat := 0) (o : Nat := 0) (mend : Bool := false) : State :=
  (l.flatMap fun p => (blocksOf p.1 p.2).filter fun b => (s.chanOf b.1).isSome).foldl (fun s b =>
    s.addReq 0x1FF [(b.1, b.2, [])] 0 write (s.cycle + 4) (.fw tag o) mend) s
/-- Something sent out of the module. -/
def State.send (s : State) (m : OutMsg) : State := { s with bnd := { s.bnd with out := s.bnd.out ++ [m] } }

end Sys2Proof.Machine
end

