-- ==== Sys2Proof/Machine/Spans.lean ====
section
/-! DEFINITION. Element widths, row lengths, shape records, and the bytes of memory a tile command covers (R86, R92, R186,
R227, R228, R262, R273). -/

namespace Sys2Proof.Machine

/-- The element size of an AG access in bits (R80). -/
def sizeBits : Size → Nat
  | .z8 => 8 | .z16 => 16 | .z32 => 32 | .z64 => 64 | .w256 => 256 | .w512 => 512 | .w1024 => 1024

/-- Bits of an element of a format (R46). -/
def fmtBits : Fmt → Nat
  | .s8 | .z8 | .e5m2 | .e4m3 | .qe5m2 | .qe4m3 | .qs8 => 8
  | .s16 | .z16 | .bf16 | .f16 => 16
  | .s32 | .z32 | .f32 => 32
  | .s64 | .z64 | .f64 => 64
  | .e3m2 | .e2m3 | .qe3m2 | .qe2m3 => 6
  | .e2m1 | .qe2m1 => 4
/-- Elements in a row of p bytes (R186). -/
def kOf (f : Fmt) (p : Nat) : Nat := if f.isQ then 32 * (p / (4 * fmtBits f + 1)) else p * 8 / fmtBits f
/-- Bytes of a row of n elements (R228). -/
def rowBytes (f : Fmt) (n : Nat) : Nat := (n * fmtBits f + 7) / 8 + if f.isQ then n / 32 else 0

/-- A shape record (R227): base, rank, format code, rights, extents and strides. -/
structure Shape where
  base : Nat
  rank : Nat
  fmt : Nat
  rights : Nat
  exts : List Nat
  strides : List Nat
  deriving DecidableEq, Repr
/-- The fields of a record's 80 bytes. -/
def shapeOf (l : List Byte) : Shape :=
  { base := fieldLe l 0 8, rank := fieldLe l 8 1, fmt := fieldLe l 9 1, rights := fieldLe l 10 1,
    exts := ((List.range 5).map fun d => fieldLe l (16 + 4 * d) 4),
    strides := ((List.range 4).map fun d => fieldLe l (40 + 8 * d) 8) }
/-- The valid record of a shape index, from its 80 bytes. -/
def Runner.shape (x : Runner) (ix : Nat) : Option Shape :=
  (aget x.shapes ix).bind fun l => if bits (fieldLe l 11 1) 0 1 = 1 then some (shapeOf l) else none
/-- Shape rows: the product of dimensions 1 to RANK - 1. -/
def Shape.rows (z : Shape) : Nat := ((z.exts.drop 1).take (z.rank - 1)).foldl (· * ·) 1
/-- The byte offset of shape row q, dimension 1 varying fastest (R273). -/
def rowOffset : List Nat → List Nat → Nat → Nat
  | e :: es, t :: ts, q => q % e * t + rowOffset es ts (q / e)
  | _, _, _ => 0
/-- The first byte of shape row q. -/
def Shape.rowAt (z : Shape) (q : Nat) : Nat := z.base + rowOffset ((z.exts.drop 1).take (z.rank - 1)) z.strides q
/-- Bytes of a shape row. -/
def Shape.rowLen (z : Shape) : Nat :=
  match Fmt.ofCode z.fmt with
  | some f => rowBytes f (z.exts.headD 0)
  | none => 0
/-- One past the last byte of the footprint (R228). -/
def Shape.stop (z : Shape) : Nat :=
  z.base + ((List.zip ((z.exts.drop 1).take (z.rank - 1)) z.strides).map fun p => (p.1 - 1) * p.2).sum + z.rowLen

/-- The shape-index register of a TLD or TST when it has one. -/
def shapedOp : Instr → Bool
  | .tld o | .tst o => o.d != 0
  | _ => false
/-- The memory span of row r of a TLD or TST: PITCH bytes from rd(S2), or shape row rd(S2) + r of shape `ix` (R273). -/
def rowSpan (x : Runner) (e : Tile) (i : Instr) (s2 : Word) (ix : Nat) (r : Nat) : Nat × Nat :=
  if shapedOp i then
    match x.shape ix with
    | some z => (z.rowAt (s2.toNat + r), z.rowLen)
    | none => (0, 0)
  else (s2.toNat + r * e.pitch, e.pitch)
/-- Bytes of the SEAL blob of a tile (R261). -/
def blobLen (e : Tile) : Nat := 128 + e.rows * e.pitch
/-- Every memory span of a tile command whose second operand is `s2` and shape index `ix`. -/
def tileSpans (x : Runner) (e : Tile) (i : Instr) (s2 : Word) (ix : Nat) : List (Nat × Nat) :=
  match i with
  | .seal _ | .unseal _ => [(s2.toNat, blobLen e)]
  | _ =>
    if shapedOp i then (List.range e.rows).map (rowSpan x e i s2 ix) else [(s2.toNat, e.rows * e.pitch)]
/-- Whether two byte ranges meet. -/
def meets (a : Nat) (n : Nat) (b : Nat) (m : Nat) : Bool := decide (a < b + m ∧ b < a + n)
/-- The spans of a Hamper entry: its store elements, or a TST's or SEAL's memory range: `addr` is rd(S2), `row0` is
rd(D). -/
def State.hamSpans (s : State) (r : Nat) (h : HamE) : List (Nat × Nat) :=
  match h.kind with
  | .store => h.addrs.map fun a => (a.toNat, sizeBits h.size / 8)
  | _ =>
    match s.tile r h.tile with
    | some e => tileSpans (s.rn r) e h.i h.addr (bits h.row0.toNat 0 16)
    | none => []
/-- The memory spans of a Sprinter command. -/
def State.sprSpans (s : State) (r : Nat) (c : SprCmd) : List (Nat × Nat) :=
  match c.i, c.tile.bind (s.tile r) with
  | .tld _, some e | .tst _, some e | .seal _, some e | .unseal _, some e =>
    tileSpans (s.rn r) e c.i c.s2 (bits c.sd.toNat 0 16)
  | _, _ => []
/-- Whether a Sprinter command writes memory. -/
def sprStores (c : SprCmd) : Bool := match c.i with | .tst _ | .seal _ => true | _ => false

/-! ### Strong accesses and loads of the same runner (R304, R305, R339) -/

/-- The lanes of a vector AMO. -/
def amoLanes (o : AmoVO) : Nat := if o.w32 then 32 else 16
/-- The address of lane k (R320). -/
def amoAddr (o : AmoVO) (base : Word) (ix : VWord) (k : Nat) : Word :=
  let w := if o.w32 then 32 else 64
  base + BitVec.ofNat 64 (bits ix.toNat (w * k) w * (w / 8))
/-- The bytes an entry of the strong path accesses: addresses and lengths. -/
def StrongE.spans (e : StrongE) : List (Word × Nat) :=
  match e.i with
  | .lds o => [(e.s1, if o.w32 then 4 else 8)]
  | .sts o => [(e.s1, if o.w32 then 4 else 8)]
  | .amo o => [(e.s1, if o.w32 then 4 else 8)]
  | .amoVector o => (List.range (amoLanes o)).map fun k => (amoAddr o e.s1 e.ix k, if o.w32 then 4 else 8)
  | .sig _ => [(e.s1, 8)]
  | .barinit _ | .bararr _ | .barinv _ => [(e.s1, 16)]
  | _ => []
/-- Whether an entry writes. -/
def StrongE.writes (e : StrongE) : Bool :=
  match e.i with
  | .sts _ | .amo _ | .amoVector _ | .sig _ | .barinit _ | .barinv _ => true
  | _ => false
/-- Whether an access of number `id` to n bytes must wait for an earlier strong access of its runner to some of them: a read for the
writes, a write for all (R304, R339). -/
def Runner.strongMeets (x : Runner) (id : Nat) (wr : Bool) (a n : Nat) : Bool :=
  x.strong.any fun e => decide (e.id < id) && (wr || e.writes) && e.spans.any fun b => meets a n b.1.toNat b.2
/-- Whether every element of a load has been performed: a memory element in its slot, a scratchpad element when it reaches its level and reads
(R304, R338). -/
def State.loadPerformed (s : State) (r : Nat) (q : LaqE) : Bool :=
  ((List.range q.addrs.length).all q.taken.getLsbD) && !s.mem.reqs.any fun z =>
    match z.use with
    | .load r' id _ => r' == r && id == q.id && (z.start.isNone || isScratch z.va)
    | _ => false
/-- Whether a write of number `id` to n bytes must wait for an earlier load of its runner that has not read them yet (R304). -/
def State.loadMeets (s : State) (r id a n : Nat) : Bool :=
  (s.rn r).laq.any fun q => decide (q.id < id) && !s.loadPerformed r q && q.addrs.any fun b => meets a n b.toNat (sizeBits q.size / 8)

end Sys2Proof.Machine
end

