-- ==== Sys2Proof/Machine/Leg.lean ====
section
/-! DEFINITION. Legs, the Hamper and the Fold: leg boundaries and commits, rewinds, RACE at the next A-slice bundle
(R236, R313, R358, R364-R372, R381, R445). -/

namespace Sys2Proof.Machine

/-! ### Access checks shared by every engine -/

/-- The granules of an access at a device virtual address of a runner, through the extent the check hit. -/
def Runner.granules (x : Runner) (ext pa n : Nat) : List Granule :=
  match aget x.extents ext with
  | some e => physGranules e pa n
  | none => []
/-- The extent and physical address of a checked access, whatever P is now (R236). -/
def Runner.physOf (x : Runner) (a : Word) (n : Nat) : Option (Nat × Nat) :=
  (List.range 16).findSome? fun i => (aget x.extents i).bind fun e =>
    if e.vbase ≤ a.toNat ∧ a.toNat + n ≤ e.vbase + e.len then some (i, e.pbase + (a.toNat - e.vbase)) else none
/-- The race an access meets: DETAIL and XADDR (R312, R313, R327). DEDUCED, log entry 52. -/
def State.raceOf (s : State) (x : Runner) (a : Word) (n : Nat) (gs : List Granule) (write strong : Bool) :
    Option (Nat × Word) :=
  let base := a.toNat / 256 * 256
  match (gs.zipIdx.findSome? fun gi => (s.racing x gi.1 write strong).map fun k =>
      (raceDetail k, BitVec.ofNat 64 (base + 256 * gi.2))) with
  | some r => some r
  | none =>
    if write && !strong then (s.arrivalAt x a n).map fun k => (raceDetail (3, k), BitVec.ofNat 64 base) else none
/-- An access recorded in each granule it touches. -/
def State.recordAll (s : State) (x : Runner) (gs : List Granule) (write strong : Bool) (stamp : BitVec 20) : State :=
  gs.foldl (fun s g => s.record x g write strong stamp) s

/-- The bytes of element k of a value (R338). -/
def elemBytes (v : VWord) (e k : Nat) : List Byte := natLe (e / 8) (v.toNat / 2 ^ (e * k))
/-- Bytes [a, a + n) with a store's elements over them. -/
def overlayStore (h : HamE) (a : Nat) (bs : List Byte) : List Byte :=
  let m := sizeBits h.size / 8
  h.addrs.zipIdx.foldl (fun bs p =>
    let b := p.1.toNat
    if meets a bs.length b m then
      let e := elemBytes h.data (sizeBits h.size) p.2
      bs.zipIdx.map fun q => if b ≤ a + q.2 ∧ a + q.2 < b + m then e.getD (a + q.2 - b) 0 else q.1
    else bs) bs
/-- Bytes with the runner's own Hamper stores before number `id` over them, in order. -/
def Runner.forward (x : Runner) (id a : Nat) (bs : List Byte) : List Byte :=
  (x.hamper.filter fun h => h.kind == .store && decide (h.id < id)).foldl (fun bs h => overlayStore h a bs) bs
/-- Set bits of a mask in ascending order. -/
def setBitsOf {n : Nat} (m : BitVec n) : List Nat := (List.range n).filter fun i => m.getLsbD i
/-- The ports of sessions that are rekeying (R446). -/
def State.rekeyPorts (s : State) : BitVec 16 := (s.bnd.rigal.filter (·.rekeying)).foldl (fun m z => m ||| z.ports) 0
/-- A message counted as a flit of the open session that has a port (R446). DESIGN CHOICE, log entry 107. -/
def State.flit (s : State) (n : Nat) (inward : Bool) : State :=
  let one (z : Rigal) : Rigal :=
    if z.isOpen && z.ports.getLsbD n then (if inward then { z with flitsIn := z.flitsIn + 1 } else { z with flits := z.flits + 1 }) else z
  { s with bnd := { s.bnd with rigal := s.bnd.rigal.map one } }
/-- The port a far-tier line takes, none while no port of the entry is up and in session (R444, R445) or its session rekeys. -/
def State.portOf (s : State) (e : Lease) (pa : Nat) : Option Nat :=
  let ps := setBitsOf (e.ports &&& s.bnd.portUp &&& ~~~s.rekeyPorts)
  ps[(pa - e.lbase) / 64 % ps.length]?
/-- The unanswered messages of a lease that have no port sent on the ports that the rule now gives (R445). -/
def State.flowLease (s : State) (i : Nat) : State :=
  match aget s.tabs.leases i with
  | none => s
  | some e =>
    let go (s : State) (m : FarMsg) : State × FarMsg :=
      match m.port, s.portOf e (e.lbase + 64 * m.line) with
      | none, some p => ((s.send (.lease p i m.line m.seqNo m.write m.data)).flit p false, { m with port := some p })
      | _, _ => (s, m)
    let z := e.unanswered.foldl (fun (z : State × List FarMsg) m => let g := go z.1 m; (g.1, z.2 ++ [g.2])) (s, [])
    { z.1 with tabs := { z.1.tabs with leases := aput z.1.tabs.leases i { e with unanswered := z.2 } } }
/-- As `flowLease`, for every LESSEE entry. -/
def State.flowLeases (s : State) : State := (s.tabs.leases.filter fun e => !e.2.lessor).foldl (fun s e => s.flowLease e.1) s
/-- Messages of a lease numbered and sent (R445). -/
def State.queueFar (s : State) (i : Nat) (ms : List FarMsg) : State :=
  match aget s.tabs.leases i with
  | none => s
  | some e =>
    let ms := ms.zipIdx.map fun p => { p.1 with seqNo := e.seqNo + p.2 }
    ({ s with tabs := { s.tabs with leases := aput s.tabs.leases i { e with seqNo := e.seqNo + ms.length, unanswered := e.unanswered ++ ms } } } : State).flowLease i

/-! ### Tree nodes and race records at the lessor (R297) -/

/-- Blocks of a level of a far-tier tree: leaves, then interior nodes. -/
def Lease.blocks (e : Lease) (lvl : Nat) : Nat := ceilDiv e.len (8192 * 8 ^ lvl)
/-- The number of a tree block behind the lines of the lent range: leaves first, then the interior nodes level by level. DESIGN CHOICE, log entry 102. -/
def Lease.blockNo (e : Lease) (lvl ix : Nat) : Nat := e.len / 64 + ((List.range lvl).map e.blocks).sum + ix
/-- The number of the first of the four blocks that hold eighteen race records. DESIGN CHOICE, log entry 102. -/
def State.recordNo (s : State) (i : Nat) (e : Lease) (m : Nat) : Nat := e.blockNo (s.treeHeight (17 + i)) 0 + 4 * m
/-- The counter state under which a tree block or a block of records is encrypted (R297). DESIGN CHOICE, log entry 102. -/
def State.blockLine (s : State) (o ctr : Nat) : Line :=
  { owner := o, gen := (s.tabs.tkey o).curgen, major := ctr / 4, minor := ctr % 4, failed := false, ecc := false }
/-- The 112 bits of a race record (R310). -/
def Race.word (r : Race) : Nat :=
  r.rmask.toNat * 2 ^ 48 + r.rs.toNat * 2 ^ 28 + r.ws.toNat * 2 ^ 8 + r.w.toNat * 4 + (if r.wstr then 2 else 0) + if r.wv then 1 else 0
/-- The level of the counters of race-record blocks among those of tree blocks. -/
def recordLvl : Nat := 16
/-- Message about a block at the lessor: read, or written with what it holds now. -/
def State.blockMsg (s : State) (id : Nat) (e : Lease) (no ctr : Nat) (bytes : List Byte) (write : Bool) : FarMsg :=
  let l := s.blockLine e.owner ctr
  let a := e.rbase / 64 + no
  { req := id, port := none, line := no, seqNo := 0, write := write, data := if write then s.sealed l a bytes else [], want := l, addr := a }
/-- Messages about the path blocks of some lines. -/
def State.pathMsgs (s : State) (id i : Nat) (e : Lease) (lines : List Nat) (write : Bool) : List FarMsg :=
  let leaves := (lines.map fun l => (l - e.lbase / 64) / 128).eraseDups
  (List.range (s.treeHeight (17 + i))).flatMap fun lvl =>
    ((leaves.map fun k => k / 8 ^ lvl).eraseDups).map fun ix =>
      s.blockMsg id e (e.blockNo lvl ix) (s.nodeCtr (17 + i) lvl ix) (s.blockBytes (17 + i) lvl ix) write
/-- Messages about the records of some granules: blocks of eighteen, in four pieces of 64 bytes. -/
def State.recordMsgs (s : State) (id i : Nat) (e : Lease) (gs : List Granule) (write : Bool) : List FarMsg :=
  let ms := (gs.filterMap fun g => match g with | .phys k => some ((k - e.lbase / 256) / 18) | _ => none).eraseDups
  ms.flatMap fun m =>
    let bytes := ((List.range 18).flatMap fun j => natLe 14 (s.race (.phys (e.lbase / 256 + 18 * m + j))).word) ++ natLe 4 0
    (List.range 4).map fun j =>
      s.blockMsg id e (s.recordNo i e m + j) (agetD s.mem.nodes (17 + i, recordLvl, m) 0) ((bytes.drop (64 * j)).take 64) write
/-- The 64 bytes of a line with the pieces that a request writes over them. -/
def State.lineAfter (s : State) (els : List (Nat × Nat × List Byte)) (ln : Nat) : List Byte :=
  els.foldl (fun bs p => bs.zipIdx.map fun q =>
    let a := 64 * ln + q.2
    if p.1 ≤ a ∧ a < p.1 + p.2.1 then p.2.2.getD (a - p.1) 0 else q.1) (s.plainLine ln)
/-- A far-tier request sent, line by line, to the ports of its lease, with reads of its tree path and of the race records that it checks; of a
write each line as the engine encrypts it (R296, R297, R445). -/
def State.sendFar (s : State) (id o : Nat) (els : List (Nat × Nat × List Byte)) (write : Bool) (gs : List Granule := []) : State :=
  match s.tabs.lesseeOf (els.headD (0, 0, [])).1 with
  | some (i, e) =>
    let ls := (els.flatMap fun p => linesOf p.1 p.2.1).eraseDups
    let msg (ln : Nat) : FarMsg :=
      let no := ln - e.lbase / 64
      let ahead := (e.unanswered.filter fun m => m.write && m.line == no).length
      let l := s.lineAhead o ln (covers (els.map fun p => (p.1, p.2.1)) (64 * ln) 64) (ahead + if write then 1 else 0)
      { req := id, port := none, line := no, seqNo := 0, write := write, data := if write then s.sealed l ln (s.lineAfter els ln) else [],
        want := l, addr := ln }
    s.queueFar i (ls.map msg ++ s.pathMsgs id i e ls false ++ s.recordMsgs id i e gs false)
  | none => s
/-- Lines of a far-tier leaf sent out again under the leaf's new major counter (R300). -/
def State.sendAgain (s : State) (id : Nat) (ls : List Nat) : State :=
  match s.tabs.lesseeOf (64 * ls.headD 0) with
  | some (i, e) => s.queueFar i (ls.map fun ln =>
      { req := id, port := none, line := ln - e.lbase / 64, seqNo := 0, write := true, data := s.sealed (s.line ln) ln (s.plainLine ln),
        want := s.line ln, addr := ln })
  | none => s
/-- What a performed far-tier request changes in the tree and the records written back to the lessor (R297, R300). -/
def State.farBack (s : State) (id : Nat) (lines : List Nat) (write : Bool) (gs : List Granule) : State :=
  match s.tabs.lesseeOf (64 * lines.headD 0) with
  | some (i, e) =>
    let ms := (gs.filterMap fun g => match g with | .phys k => some ((k - e.lbase / 256) / 18) | _ => none).eraseDups
    let s := s.modMem fun m => { m with nodes := ms.foldl (fun l k =>
      aput l (17 + i, recordLvl, k) ((agetD l (17 + i, recordLvl, k) 0 + 1) % 2 ^ 56)) m.nodes }
    s.queueFar i ((if write then s.pathMsgs id i e lines true else []) ++ s.recordMsgs id i e gs true)
  | none => s
/-- A link's answer noted with its request. -/
def State.answered (s : State) (id : Nat) (a : LinkAns) : State :=
  s.modMem fun m => { m with reqs := m.reqs.map fun q =>
    if q.id == id && q.chan.isNone && q.start.isNone && q.reply.isNone then { q with reply := some a } else q }
/-- Whether a function's interface keeps its host-window requests in (R437). -/
def State.hostShut (s : State) (o : Nat) : Bool := o != 0 && (match aget s.bnd.funcs o with | some f => f.tdi != .run | none => true)
/-- A host-window request sent, element by element; a write is posted: it asks for no completion (R434). Of a function that is not in RUN
nothing is sent, and the access fails (R298, R437). -/
def State.sendHost (s : State) (id o : Nat) (els : List (Nat × Nat × List Byte)) (op : HostOp) : State :=
  if s.hostShut o then s.answered id .error
  else
    let s := els.foldl (fun s p => s.send (.host id o (p.1 - hostBase) p.2.1 op p.2.2)) s
    if op == .write then s.answered id .good else s
/-- The granules that a request of a runner checks (R310). -/
def Runner.reqGranules (x : Runner) (va : Word) (els : List (Nat × Nat)) : List Granule :=
  match x.physOf va 1 with
  | some h => (els.flatMap fun p => x.granules h.1 p.1 p.2).eraseDups
  | none => []
/-- A request entered, and sent on its link where its memory lies beyond one (R291, R296, R298); to the host as the AtomicOp given, with its
operands, if any (R434). -/
def State.post (s : State) (r : Nat) (els : List (Nat × Nat × List Byte)) (va : Word) (write : Bool) (elig : Nat) (use : ReqFor)
    (atomic : Option (HostOp × List Byte) := none) : State :=
  let id := s.seq
  let s := s.addReq r els va write elig use
  match pclass (els.headD (0, 0, [])).1 with
  | .far => s.sendFar id (s.rn r).owner els write ((s.rn r).reqGranules va (els.map fun p => (p.1, p.2.1)))
  | .host =>
    match atomic with
    | some (op, bs) => s.sendHost id (s.rn r).owner (els.map fun p => (p.1, p.2.1, bs)) op
    | none => s.sendHost id (s.rn r).owner els (if write then .write else .read)
  | _ => s

/-! ### RACE at the next A-slice bundle (R313) -/

/-- A RACE to be taken at the next A-slice bundle; after DONE it ends the heat (R144). -/
def State.raceA (s : State) (r : Nat) (detail : Nat) (xaddr : Word) : State :=
  let x := s.rn r
  let t : PTrap := { PTrap.mk' 0x08 detail 0 xaddr with resume := 0 }
  if x.leg.s.done then s.fatalTrap r .a t x.leg.s.pc
  else if x.ax.trap.isSome then s
  else s.modR r fun x => x.modX .a fun y => { y with trap := some t }

/-! ### The Hamper (R341, R364, R367, R368) -/

/-- A scratchpad store element: its level, offset and bytes. -/
def Runner.scratchEls (x : Runner) (els : List (Nat × Word)) (e : Nat) : List (Nat × Lvl × Nat) :=
  els.filterMap fun ka => if isScratch ka.2 then (x.scratch ka.2 (e / 8)).map fun lo => (ka.1, lo.1, lo.2) else none
/-- Tile stores of a runner on a tile that were issued after number `id` and have not begun. DEDUCED, log entry 76. -/
def Runner.laterOut (x : Runner) (id : Nat) (t : TileId) : Nat :=
  (x.hamper.filter fun h => h.kind != .store && h.tile == t && decide (id < h.id)).length
  + (x.spr.q.filter fun c => sprStores c && c.tile == some t && decide (id < c.id) && c.start.isNone && c.chunk == 0).length
/-- Whether an element of n bytes of store `id` must wait for a tile that holds some of them (R220): not for its runner's own later TST or
SEAL, which reads what the store writes (R304). DEDUCED, log entry 76. -/
def State.storeWaits (s : State) (r id : Nat) (l : Lvl) (off n : Nat) : Bool :=
  (s.tilesIn r l off n).any fun t =>
    t.2.state == .filling || ((t.2.state == .draining || decide (0 < t.2.rdr)) && t.2.rdr != (s.rn r).laterOut id t.1)
/-- The head entry changed. -/
def State.modHam (s : State) (r id : Nat) (f : HamE → HamE) : State :=
  s.modR r fun x => { x with hamper := x.hamper.map fun h => if h.id == id then f h else h }
/-- An entry removed. -/
def State.delHam (s : State) (r id : Nat) : State := s.modR r fun x => { x with hamper := x.hamper.filter fun h => h.id != id }
/-- A RACE of a committed entry: it and the entries after it wait for RFT (R313). -/
def State.holdHam (s : State) (r : Nat) (detail : Nat) (xaddr : Word) : State :=
  (s.modR r fun x => { x with hamper := x.hamper.map fun h => { h with held := true, left := none } }).raceA r detail xaddr

/-- A store entry's memory elements grouped by 256-byte block, in element order (R290). -/
def blockGroups (els : List (Nat × Word)) : List (List (Nat × Word)) :=
  els.foldl (fun gs ka =>
    match gs.findIdx? fun g => g.any fun kb => kb.2.toNat / 256 == ka.2.toNat / 256 with
    | some i => gs.modify i fun g => g ++ [ka]
    | none => gs ++ [[ka]]) []

/-- Whether a committed store must wait for an earlier access of its runner to its bytes: a Sprinter command, a tile store still in the
Hamper, a strong access, a load (R304). -/
def State.storeBehind (s : State) (r : Nat) (h : HamE) : Bool :=
  let x := s.rn r
  let n := sizeBits h.size / 8
  let hit (z : Nat × Nat) : Bool := h.addrs.any fun a => meets a.toNat n z.1 z.2
  (x.spr.q.any fun c => decide (c.id < h.id) && (s.sprSpans r c).any hit)
  || (x.hamper.any fun z => z.kind != .store && decide (z.id < h.id) && (s.hamSpans r z).any hit)
  || h.addrs.any fun a => x.strongMeets h.id true a.toNat n || s.loadMeets r h.id a.toNat n
/-- A committed store begun, after the accesses that it follows (R304): its scratchpad elements are performed, its memory elements make
one request for each block. -/
def State.startStore (s : State) (r : Nat) (h : HamE) : State :=
  let x := s.rn r
  let e := sizeBits h.size
  let n := e / 8
  let els := h.addrs.zipIdx.map fun p => (p.2, p.1)
  let sp := x.scratchEls els e
  if s.storeBehind r h || sp.any fun p => s.storeWaits r h.id p.2.1 p.2.2 n then s
  else
    match sp.findSome? fun p => s.raceOf x (h.addrs.getD p.1 0) n (spGranules x p.2.1 p.2.2 n) true false with
    | some rc => s.holdHam r rc.1 rc.2
    | none =>
      let s := [Lvl.basin, .tub, .vat].foldl (fun s l =>
        match (sp.filter fun p => p.2.1 == l).map fun p => (p.2.2, elemBytes h.data e p.1) with
        | [] => s
        | ps => s.spWrites r l ps) s
      let s := sp.foldl (fun s p => s.recordAll x (spGranules x p.2.1 p.2.2 n) true false h.stamp) s
      let groups := blockGroups (els.filter fun p => !isScratch p.2)
      if groups.isEmpty then s.delHam r h.id
      else
        let s := s.modHam r h.id fun h => { h with left := some groups.length }
        groups.foldl (fun s g =>
          s.post r (g.map fun p => (((x.physOf p.2 n).getD (0, 0)).2, n, elemBytes h.data e p.1)) (g.headD (0, 0)).2 true (h.issue + 4)
            (.store r h.id (g.map (·.1)))) s

/-- A TST or SEAL of the Hamper enters the Sprinter queue (R274). -/
def sprOf (h : HamE) : SprCmd :=
  { id := h.id, i := h.i, s1 := BitVec.ofNat 64 (tileWord h.tile), s2 := h.addr, sd := h.row0, tile := some h.tile, src := none,
    leg := h.leg, quar := h.quar, start := none, chunk := 0, from0 := 0, issued := 0, written := [], gen := none, relays := [],
    held := false, stop := false, stamp := h.stamp, nonce := h.nonce, ok := true, buf := [], bad := [], after := 0, key := h.key }

/-- Whether a queue entry is a barrier arrival. -/
def isArrival (c : SprCmd) : Bool := match c.i with | .bararr _ => true | _ => false
/-- A committed TST or SEAL joins the Sprinter queue, ahead of every command issued after its commit (R274) and of an arrival that was
issued after it and waits for it (R326). -/
def joinSpr (q : List SprCmd) (h : HamE) : List SprCmd :=
  let behind (z : SprCmd) : Bool := decide (h.cno ≤ z.id) || (isArrival z && decide (h.id < z.id))
  (q.takeWhile fun z => !behind z) ++ sprOf h :: q.dropWhile fun z => !behind z
/-- Whether a strong entry is an acquire or a full fence: no later access before it (R307). -/
def acquires (i : Instr) : Bool :=
  match i with
  | .lds o => o.ord != .rlx
  | .amo o => o.ord == .acq || o.ord == .ar || o.ord == .sc
  | .amoVector o => o.ord == .acq || o.ord == .ar || o.ord == .sc
  | .sts o => o.ord == .sc
  | .fence o => o.ord != .rel
  | .bars _ | .barinit _ | .barinv _ | .bararr _ => true
  | _ => false
/-- Whether an access with number `id` must wait for an earlier acquire of the strong path, a barrier operation among them (R307, R325). -/
def acqGate (x : Runner) (id : Nat) : Bool := x.strong.any fun e => decide (e.id < id) && acquires e.i
/-- Committed entries taken from the head, one after the other, as far as they go in this cycle: a store is performed, a TST or SEAL enters
the Sprinter queue where that has room. What stands behind an entry that may still race stays in the Hamper (R274, R313, R341). -/
def State.drain (s : State) (r : Nat) : Nat → State
  | 0 => s
  | n + 1 =>
    match (s.rn r).hamper.head? with
    | none => s
    | some h =>
      if !h.committed || h.held || h.left.isSome then s
      else if h.kind != .store then
        if (s.rn r).spr.q.length < 16 then
          State.drain (s.modR r fun x => { x with hamper := x.hamper.tail, spr := { x.spr with q := joinSpr x.spr.q h } }) r n
        else s
      else if acqGate (s.rn r) h.id then s
      else
        let s' := s.startStore r h
        if (s'.rn r).hamper.any fun z => z.id == h.id then s' else State.drain s' r n
/-- The Hamper of a runner drained; a full one whose committed entries have been performed, its tile stores among them, ends the heat (R368). -/
def State.drainHamper (s : State) (r : Nat) : State :=
  let s := if (s.rn r).ackm.getLsbD 0 then s else s.drain r 80
  let x := s.rn r
  if x.hamFull && !x.hamper.any (·.committed) && !x.spr.q.any sprStores then
    (s.fatal r .a 0x23 x.leg.s.pc 0).modR r fun x => { x with hamFull := false }
  else s

/-! ### The Fold and leg boundaries (R364-R367) -/

/-- The in-flight list of a slice (R365). -/
def inflight (pend : List Pend) (now : Nat) : List IfqE :=
  (pend.filter fun p => !p.landed).map fun p => { r := p, d := max 1 (p.issue + p.bound - now) }
/-- The Fold items as they stand. -/
def Runner.foldNow (x : Runner) (now : Nat) : Fold :=
  { leg := { x.leg with c := { x.leg.c with wait := x.leg.c.wait - now }, s := { x.leg.s with wait := x.leg.s.wait - now } },
    inflC := inflight x.cx.pend now, inflA := inflight x.ax.pend now, ue := false }
/-- The Fold items of runner r as the current cycle began, and the fresh-value counter then. DEDUCED, log entry 13. -/
def State.preFold (s : State) (r : Nat) : Nat × Fold :=
  match s.cur.pre with
  | some (c, q, f) => if c = s.cycle ∧ s.cur.run = r then (q, f) else (s.seq, (s.rn r).foldNow s.cycle)
  | none => (s.seq, (s.rn r).foldNow s.cycle)

/-- A leg boundary (R366, R367): the Hamper commits and the Fold takes the state of both slices. `who` is the slice whose
bundle makes it at its issue. Whether an uncorrectable error lies in the Fold thereafter is free (R370). DESIGN CHOICE, log entry 105. -/
def State.boundary (s : State) (r : Nat) (xleg : Bool) (who : Option Slice) : State :=
  let pf := s.preFold r
  let f := pf.2
  let s := { s with cur := { s.cur with cmark := s.cur.cmark || who == some Slice.c } }
  let leg := { f.leg with
    xleg := xleg
    xcnt := (s.rn r).leg.xcnt
    c := { f.leg.c with marked := f.leg.c.marked || (s.cur.run == r && s.cur.cmark) }
    s := { f.leg.s with marked := f.leg.s.marked || who == some Slice.a } }
  let s := s.modR r fun x =>
    let n := x.legNo + 1
    let re (c : PressCmd) : PressCmd := if pf.1 ≤ c.id then { c with leg := n } else c
    { x with
      fold := { f with leg := leg, ue := Config.foldFails pf.1 }
      legNo := n
      legSeq := pf.1
      rwcnt := 0
      rwcause := 0
      legEnd := (match x.legEnd with | some c => if c ≤ s.cycle then none else some c | none => none)
      hamper := x.hamper.map fun h => if h.committed then h else { h with committed := true, cno := pf.1 }
      undo := x.undo.filter fun u => decide (pf.1 ≤ u.cmd)
      press := { x.press with
        shadow := []
        shtags := x.press.shtags.filter fun e => decide (pf.1 ≤ e.1)
        mgUndo := x.press.mgUndo.filter fun e => decide (pf.1 ≤ e.1)
        shdw := 0
        legDone := 0
        fq := x.press.fq.map re
        cq := x.press.cq.map re }
      spr := { x.spr with legDone := 0 } }
  s.drainHamper r

/-- A Hamper entry joined, or HAMPER_FULL (R368). -/
def State.addHam (s : State) (r : Nat) (h : HamE) : State :=
  if (s.rn r).hamper.length < 64 then s.modR r fun x => { x with hamper := x.hamper ++ [h] }
  else
    (s.modR r fun x => { x with
      hamFull := true
      hamper := x.hamper.map fun h => if h.committed then h else { h with committed := true, cno := s.seq } }).drainHamper r

/-! ### Abandoning the Press commands of a leg (R210, R381) -/

/-- The Mangle slots a Press command reads, each once. -/
def mgNames : Instr → List Nat
  | .mma o => if o.s1 = o.s2 then [o.s1.toNat] else [o.s1.toNat, o.s2.toNat]
  | .mmac o => if o.s1 = o.s2 then [o.s1.toNat] else [o.s1.toNat, o.s2.toNat]
  | .mmasp o => if o.s1 = o.s2 then [o.s1.toNat] else [o.s1.toNat, o.s2.toNat]
  | _ => []
/-- Mangle slot k. -/
def Press.slot (p : Press) (k : Nat) : MgSlot := (p.mg.toList.getD k MgSlot.reset)
/-- Mangle slot k changed. -/
def Press.modSlot (p : Press) (k : Nat) (f : MgSlot → MgSlot) : Press :=
  if h : k < 16 then { p with mg := p.mg.set k (f (p.mg.get ⟨k, h⟩)) h } else p
/-- Accumulator bank k. -/
def Press.bank (p : Press) (k : Nat) : AcBank := (p.ac.toList.getD k AcBank.reset)
/-- Accumulator bank k changed. -/
def Press.modBank (p : Press) (k : Nat) (f : AcBank → AcBank) : Press :=
  if h : k < 8 then { p with ac := p.ac.set k (f (p.ac.get ⟨k, h⟩)) h } else p
/-- Reader counts of a command's slots released. -/
def Press.releaseReaders (p : Press) (c : PressCmd) : Press :=
  (mgNames c.i).foldl (fun p k => p.modSlot k fun m => { m with rd := m.rd - 1 }) p
/-- The commands of leg n abandoned; their banks return to the shadow, and slots that an operation of the leg claimed, released or
began to fill, before the boundary it makes, to what they were (R210). The delivery of an exception of a command that stays is not undone.
DESIGN CHOICE, log entry 93. -/
def Press.abandon (p : Press) (n now : Nat) : Press :=
  let gone := p.cq.filter fun c => c.leg == n
  let keep := p.cq.filter fun c => c.leg != n
  let headGone := match p.cq with | c :: _ => c.leg == n | [] => false
  let p := gone.foldl (fun p c => p.releaseReaders c) p
  let p := p.shadow.foldl (fun p kb => p.modBank kb.1 fun _ => kb.2) p
  let p := p.shtags.reverse.foldl (fun p kt => p.modBank kt.2.1 fun b => { b with tag := kt.2.2 }) p
  let p := p.mgUndo.reverse.foldl (fun p ks => p.modSlot ks.2.1 fun _ => ks.2.2) p
  { p with
    cq := keep
    shadow := []
    shtags := []
    mgUndo := []
    fq := p.fq.filter fun c => c.leg != n
    donec := p.donec - BitVec.ofNat 16 p.legDone
    legDone := 0
    step := if headGone then 0 else p.step
    held := if headGone then none else p.held
    pend := if headGone then false else p.pend
    cqFree := max p.cqFree now }
/-- The Sprinter commands of leg n abandoned (R222, R272). -/
def Sprinter.abandon (p : Sprinter) (n : Nat) : Sprinter :=
  { p with
    q := p.q.filter fun c => c.leg != n
    donec := p.donec - BitVec.ofNat 16 p.legDone
    legDone := 0 }

/-- The collectives with a number from n on, of a bundle whose leg boundary is not made yet, abandoned. -/
def Relay.abandon (p : Relay) (n : Nat) : Relay :=
  let gone := p.q.filter fun c => decide (n ≤ c.id)
  { p with
    q := p.q.filter fun c => decide (c.id < n)
    seqs := gone.foldl (fun l c => aput l c.mask.toNat (agetD l c.mask.toNat 0 - 1)) p.seqs }
/-- Whether an operation that ends the leg may act: its leg boundary has been made (R366). -/
def Runner.past (x : Runner) (id : Nat) : Bool := x.legEnd.isNone || decide (id < x.legSeq)

/-! ### Rewind (R370-R372) -/

/-- In-flight results put back on their schedule: they land in r + D exactly (R363). -/
def reinject (l : List IfqE) (r : Nat) : List Pend :=
  l.map fun e => { e.r with issue := r, bound := e.d, land := r + e.d, landed := false, reinj := true }
/-- Queue entries of the Fold: every push is seen by then. DEDUCED, log entry 20. -/
def showAll (l : List VqE) : List VqE := l.map fun e => { e with shown := true }
/-- As `showAll`, for scalar entries. -/
def showAllS (l : List SqE) : List SqE := l.map fun e => { e with shown := true }
/-- An LDQ entry with UE set waits for its load again (R344, R351). -/
def reloadE (e : LdqE) : LdqE := if e.ue && e.load.isSome then { e with st := .reserved, ue := false } else e
/-- The loads that entries with UE perform again, from their first element. -/
def reloads (l : List LdqE) (now leg : Nat) : List LaqE :=
  l.filterMap fun e => if e.ue then e.load.map fun q =>
    { q with taken := 0, arrived := 0, data := 0, ue := false, elig := now + 4, leg := leg - 1 } else none
/-- The extents that uncommitted Hamper entries touch, tile stores with their whole range (R236). -/
def State.hamExts (s : State) (r : Nat) : List Nat :=
  let x := s.rn r
  ((x.hamper.filter fun h => !h.committed).flatMap fun h => (s.hamSpans r h).filterMap fun p =>
    if isScratch (BitVec.ofNat 64 p.1) then none else (x.physOf (BitVec.ofNat 64 p.1) p.2).map (·.1)).eraseDups

/-- The runner as a rewind leaves it (R371): restored from the Fold, to issue again in cycle `at_`. DEDUCED, log entry 18. -/
def Runner.rewound (x : Runner) (cause now at_ : Nat) (np : List Nat) : Runner :=
  let f := x.fold
  let redo := reloads f.leg.ldq0 now x.legNo ++ reloads f.leg.ldq1 now x.legNo
  let c := { f.leg.c with wait := at_ + f.leg.c.wait }
  let a := { f.leg.s with wait := at_ + f.leg.s.wait }
  let stop (y : SliceX) (p : List IfqE) : SliceX :=
    { y with st := if y.st == .off then .off else .run, trap := none, pend := reinject p at_ }
  { x with
    leg := { f.leg with
      c := c
      s := a
      ldq0 := f.leg.ldq0.map reloadE
      ldq1 := f.leg.ldq1.map reloadE
      sdq := showAll f.leg.sdq
      ixq := showAll f.leg.ixq
      caq := showAllS f.leg.caq
      acq := showAllS f.leg.acq }
    cx := stop x.cx f.inflC
    ax := stop x.ax f.inflA
    laq := (x.laq.filter fun l => l.leg != x.legNo && !redo.any fun q => q.id == l.id) ++ redo
    saq := x.saq.filter fun e => e.leg != x.legNo
    strong := x.strong.filter fun e => decide (e.id < x.legSeq)
    relay := x.relay.abandon x.legSeq
    tabop := x.tabop.filter fun t => decide (t.id < x.legSeq)
    bars := x.bars - (x.strong.filter fun e => decide (x.legSeq ≤ e.id) && match e.i with | .bars _ => true | _ => false).length
    hamper := x.hamper.filter (·.committed)
    qdrain := none
    exchAt := none
    freed := []
    legEnd := none
    undo := []
    press := x.press.abandon x.legNo now
    spr := x.spr.abandon x.legNo
    rwcnt := if x.rwcause = cause then x.rwcnt + 1 else 1
    rwcause := cause
    rewind := some { cause := cause, at_ := at_, redo := redo.map (·.id) }
    holdNp := np
    rewinds := x.rewinds.toList.zipIdx.foldl (fun v p => if p.2 + 1 = cause then v.setIfInBounds p.2 (p.1 + 1) else v) x.rewinds }

/-- A slice stopped for pre-emption: its unlanded results are captured and its wait is what remains of it (R378). What lands on its own schedule
has landed by then, but for what a rewind in progress has put back, which waits with the rest (R362, R371). DEDUCED, log entry 34. -/
def Runner.stopSlice (x : Runner) (sl : Slice) (now : Nat) : Runner :=
  let now := match x.rewind with | some z => z.at_ | none => now
  let own := (inflight ((x.sx sl).pend.filter fun p => x.rewind.isSome || !p.own) now).map fun e => { e with r := { e.r with reinj := true } }
  let x := x.modX sl fun y => { y with st := (if y.st == .run then .stopped else y.st), pend := [] }
  x.modSt sl fun t => { t with ifq := t.ifq ++ own, wait := t.wait - now }
/-- The slices of a runner that have acknowledged a pre-emption stopped again, at their Fold bundles, after a rewind. DEDUCED, log entry 34. -/
def Runner.restop (x : Runner) (now : Nat) : Runner :=
  let x := if x.ackm.getLsbD 0 then x.stopSlice .a now else x
  if x.ackm.getLsbD 1 then x.stopSlice .c now else x
/-- HARD_FAULT of a cause ends a heat (R372, R365, R466, R224, R246). -/
def State.hardFault (s : State) (r : Nat) (sl : Slice) (pc : Word) (cause : Nat) : State :=
  (s.modR r fun x => x.record (PTrap.mk' 0x24 cause 0) sl).endHeat (some r) (s.rn r).heatid
    (statusWord 0x0C 0x24 (sl == .a) r pc 0) 0 cause

/-- A rewind of the current leg of runner r for a cause, taken in the current cycle (R371, R372): what the Press restores is written (R210,
R465). An uncorrectable error in the Fold ends the heat (R370). DEDUCED, log entry 18. -/
def State.rewind (s : State) (r cause : Nat) (np : List Nat) : State :=
  let x := s.rn r
  let at_ := s.cycle + Config.abandon r s.cycle % 65 + 32
  let s := x.undo.reverse.foldl (fun s u => s.undoTile r u) { s with seq := s.seq + 1 }
  let back := x.press.shadow.map (fun e => (2, e.1 * 4096, 4096)) ++ x.press.mgUndo.map fun e => (1, e.2.1 * 32768, 32768)
  let s := s.modR r fun x => (x.rewound cause s.cycle at_ np).restop s.cycle
  let s := back.foldl (fun s b => s.wrote r b.1 r b.2.1 b.2.2) s
  let s := s.modMem fun m => { m with reqs := m.reqs.filter fun q =>
    match q.use with
    | .load r' id _ => r' != r || ((s.rn r).laq.any fun l => l.id == id)
    | .chunk r' id _ => r' != r || ((s.rn r).spr.q.any fun c => c.id == id)
    | _ => true }
  let y := s.rn r
  if y.fold.ue then s.hardFault r .c y.leg.c.pc 2
  else if 3 ≤ y.rwcnt || y.press.shdw != 0 then
    s.hardFault r .c y.leg.c.pc cause
  else s

/-- A rewind of the bundle being issued for a clear present bit: no slot of it takes effect (R354). DEDUCED, log entry 56. -/
def State.npBundle (s : State) (np : List Nat) : Out :=
  let s' := s.rewind s.cur.run 1 np
  .next { s' with cur := { s'.cur with st := .np } }
/-- A rewind of the bundle being issued: no slot from here on takes effect. -/
def State.rewindBundle (s : State) (cause : Nat) (np : List Nat) : Out :=
  let s' := s.rewind s.cur.run cause np
  .next { s' with cur := { s'.cur with st := .stopped } }
/-- A fatal cause at the bundle being issued. -/
def State.fatalBundle (s : State) (sl : Slice) (cause : Nat) (xaddr : Word) (slot : Nat := 0) : Out :=
  let s' := s.fatal s.cur.run sl cause s.cur.pc xaddr slot
  .next { s' with cur := { s'.cur with st := .stopped } }

end Sys2Proof.Machine
end

