-- ==== Sys2Proof/Machine/Queue.lean ====
section
/-! DEFINITION. The decoupling queues: occupancy as each slice sees it, pops, pushes, BRQ, QDRAIN, QSTAT (R163, R330-R336,
R343, R344, R347-R350). -/

namespace Sys2Proof.Machine

/-! ### Occupancy (R332, R336) -/

/-- Entries of a queue already popped whose places the other slice still sees taken. -/
def Runner.freedOf (x : Runner) (q : QName) : Nat := (x.freed.filter fun e => e.1 == q).length
/-- LDQ0 or LDQ1. -/
def Leg.ldq (l : Leg) (one : Bool) : List LdqE := if one then l.ldq1 else l.ldq0
/-- LDQ0 or LDQ1 changed. -/
def Leg.modLdq (l : Leg) (one : Bool) (f : List LdqE → List LdqE) : Leg :=
  if one then { l with ldq1 := f l.ldq1 } else { l with ldq0 := f l.ldq0 }
/-- Whether a store of an earlier cycle is not matched: a slot of the A slice that ends the leg waits for it (R366). -/
def Runner.saqWaits (x : Runner) (now : Nat) : Bool := x.saq.any fun e => decide (e.issue < now)
/-- The name of LDQ0 or LDQ1. -/
def ldqName (one : Bool) : QName := if one then .ldq1 else .ldq0
/-- Entries as the pushing slice sees them: those held and those whose pop it does not see yet. DEDUCED, log entry 20. -/
def Runner.occPush (x : Runner) (q : QName) : Nat :=
  x.freedOf q + match q with
    | .sdq => x.leg.sdq.length
    | .ixq => x.leg.ixq.length
    | .caq => x.leg.caq.length
    | .acq => x.leg.acq.length
    | .ldq0 => x.leg.ldq0.length
    | .ldq1 => x.leg.ldq1.length
    | .laq => x.laq.length
    | .saq => x.saq.length
/-- Capacities (R330). -/
def qCap : QName → Nat
  | .laq => 64
  | .ldq0 | .ldq1 | .saq | .sdq => 32
  | .ixq | .caq | .acq => 16
/-- Entries from the head that an LDQ pop could take now: up to the first RESERVED one. -/
def ldqReady (l : List LdqE) : Nat := (l.takeWhile fun e => e.st != .reserved).length
/-- Entries a pop of the queue's popping slice could take now. DEDUCED, log entry 20. -/
def Runner.poppable (x : Runner) : QName → Nat
  | .ldq0 => ldqReady x.leg.ldq0
  | .ldq1 => ldqReady x.leg.ldq1
  | .sdq => (x.leg.sdq.takeWhile (·.shown)).length
  | .ixq => (x.leg.ixq.takeWhile (·.shown)).length
  | .caq => (x.leg.caq.takeWhile (·.shown)).length
  | .acq => (x.leg.acq.takeWhile (·.shown)).length
  | _ => 0
/-- The slip count as the A slice sees it (R336). -/
def Runner.slip (x : Runner) : Nat := x.occPush .ldq0 + x.occPush .ldq1

/-- A pop's place, seen free by the other slice from cycle c + 2. -/
def Runner.free (x : Runner) (q : QName) (now : Nat) : Runner := { x with freed := x.freed ++ [(q, now + 2)] }

/-! ### Errors of the queue array (R284-R286, R465) -/

/-- Whether no word of a runner's queue array has failed or is armed to. -/
def State.queuesSound (s : State) (r : Nat) : Bool :=
  !(s.mem.failed.any fun f => f.arr == 6 && f.inst == r) && !(s.mem.einj.any fun e => einjArmed e.2 6 r [(0, 2 ^ 28)])
/-- The failed or armed words of a runner's queue array that one access of its queues meets: where an entry lies in the array the spec does not
say, so that is free. DESIGN CHOICE, log entry 100. -/
def State.queueWords (s : State) (r : Nat) : List Nat :=
  let all := (s.mem.failed.filter fun f => f.arr == 6 && f.inst == r).map (·.off)
    ++ (s.mem.einj.filter fun e => einjArmed e.2 6 r [(0, 2 ^ 28)]).map fun e => bits e.2.toNat 36 28 / 8 * 8
  (all.eraseDups.zipIdx.filter fun p => (Config.choice 3 r s.seq).testBit p.2).map (·.1)
/-- Entries of a runner's queues written. DESIGN CHOICE, log entry 100. -/
def State.queueWrites (s : State) (r : Nat) : State :=
  if s.queuesSound r then s else ({ s with seq := s.seq + 1 } : State).wroteAll r 6 r ((s.queueWords r).map fun o => (o, 8))
/-- Entries of a runner's queues read: what can be corrected is, an uncorrectable word is logged. Answers whether there was one: it rewinds the
leg. DESIGN CHOICE, log entry 100. -/
def State.queueReads (s : State) (r : Nat) : State × Bool :=
  if s.queuesSound r then (s, false)
  else
    let hit := s.queueWords r
    let t : State := hit.foldl (fun t o => t.corrects r 6 r o 8) { s with seq := s.seq + 1 }
    let bad := hit.flatMap fun o => t.failsIn 6 r o 8
    (t.logWords r bad, !bad.isEmpty)

/-! ### Pops of the load data queues (R333, R343, R344) -/

/-- A slot pops the head of an LDQ: its effect on a FILLED entry, the trap of a FAULT entry, the rewind of one with UE. -/
def popLdq (u : Use) (s : State) (one : Bool) (k : LdqE → State → Out) : Out :=
  match (s.me.leg.ldq one).head? with
  | none => .next s
  | some e =>
    match e.st with
    | .reserved => .next s
    | .fault =>
      if e.cause = 0x20 then s.fatalBundle .c 0x20 e.addr u.pos
      else
        let s := s.modMe fun x => x.modLeg fun l => l.modLdq one fun q =>
          match q with | [] => [] | h :: t => { h with retry := true } :: t
        s.trapBundle .c { PTrap.mk' e.cause.toNat (e.detail.toNat % 256 + (if e.ag1 then 256 else 0)) u.pos e.addr with
          freeze := true }
    | .filled =>
      if e.ue then s.rewindBundle 2 []
      else k e (s.modMe fun x => (x.modLeg fun l => l.modLdq one fun q => q.tail).free (ldqName one) s.cycle)

/-- MOV from an LDQ: bits [63:0] and the poison; the stain is dropped. -/
def movLdq (i : Instr) (s : State) (one : Bool) : Out :=
  slotGo i s fun u s => popLdq u s one fun e s => .next (s.dstW u 0 1 (e.data.setWidth 64) e.poison)
/-- MOV from ldq0 (R333). -/
def execMovFromLdq0 (o : GD) (s : State) : Out := movLdq (.movFromLdq0 o) s false
/-- MOV from ldq1 (R333). -/
def execMovFromLdq1 (o : GD) (s : State) : Out := movLdq (.movFromLdq1 o) s true

/-- The width of a vector operation in bits (R45). -/
def wBits : Width → Nat
  | .w256 => 256 | .w512 => 512 | .w1024 => 1024
/-- The chunks of a width (R152, R360). -/
def wMask (w : Nat) : BitVec 16 := BitVec.ofNat 16 (2 ^ (w / 64) - 1)
/-- VMOV from an LDQ: bits [w-1:0], the entry's stain and poison. -/
def vmovLdq (i : Instr) (s : State) (one : Bool) (w : Width) : Out :=
  slotGo i s fun u s => popLdq u s one fun e s =>
    match u.writes[0]? with
    | none => .next s
    | some d => .next (s.issueRes u.sl u.pos 1 { Pend.of d e.data with
        mask := wMask (wBits w), ew := 8, stainW := true, stain := e.stain, poisonW := true, poison := e.poison })
/-- VMOV from ldq0 (R333). -/
def execVmovFromLdq0 (o : VPop) (s : State) : Out := vmovLdq (.vmovFromLdq0 o) s false o.w
/-- VMOV from ldq1 (R333). -/
def execVmovFromLdq1 (o : VPop) (s : State) : Out := vmovLdq (.vmovFromLdq1 o) s true o.w

/-! ### Scalar queues (R333, R334, R347) -/

/-- POPA (R333). -/
def execPopa (o : GD) (s : State) : Out :=
  slotGo (.popa o) s fun u s =>
    match s.me.leg.acq.head? with
    | none => .next s
    | some e =>
      let s := s.modMe fun x => (x.modLeg fun l => { l with acq := l.acq.tail }).free .acq s.cycle
      .next (s.dstW u 0 1 e.val false)
/-- PUSHC (R334). -/
def execPushc (o : GS) (s : State) : Out :=
  slotGo (.pushc o) s fun u s => noPoison u s u.reads fun s =>
    .next (s.modMe fun x => x.modLeg fun l =>
      { l with caq := l.caq ++ [{ val := s.src u 0, due := s.cycle + 2, shown := false }] })
/-- QPUSH (R334). -/
def execQpush (o : GS) (s : State) : Out :=
  slotGo (.qpush o) s fun u s =>
    .next (s.modMe fun x => x.modLeg fun l =>
      { l with acq := l.acq ++ [{ val := s.src u 0, due := s.cycle + 2, shown := false }] })
/-- BRQ (R347, R348): it pops one CAQ entry and counts a loss of decoupling. -/
def execBrq (o : BrqO) (s : State) : Out :=
  branchGo (.brq o) s fun _ s =>
    match s.me.leg.caq.head? with
    | none => .next s
    | some e =>
      let s := s.modMe fun x =>
        { (x.modLeg fun l => { l with caq := l.caq.tail }).free .caq s.cycle with lod := x.lod + 1 }
      .next (s.branchTo (if bcEval o.cond e.val then some (s.offTarget o.off) else none))

/-- A vector push (R163): the width rules do not apply, all 1024 bits and the stain go. -/
def vpushE (u : Use) (s : State) : VqE :=
  { data := s.srcV u 0, stain := s.srcStain u 0, due := s.cycle + 2, shown := false }
/-- VPUSH.sdq (R163). -/
def execVpushSdq (o : VS) (s : State) : Out :=
  slotGo (.vpushSdq o) s fun u s => noPoison u s u.reads fun s =>
    .next (s.modMe fun x => x.modLeg fun l => { l with sdq := l.sdq ++ [vpushE u s] })
/-- VPUSH.ixq (R163). -/
def execVpushIxq (o : VS) (s : State) : Out :=
  slotGo (.vpushIxq o) s fun u s => noPoison u s u.reads fun s =>
    .next (s.modMe fun x => x.modLeg fun l => { l with ixq := l.ixq ++ [vpushE u s] })

/-! ### QDRAIN and QSTAT (R349, R350) -/

/-- Whether every entry of an LDQ reserved before number n is FILLED or FAULT. -/
def ldqSettled (n : Nat) (l : List LdqE) : Bool := l.all fun e => e.st != .reserved || decide (n ≤ e.id)
/-- QDRAIN takes effect: the entries reserved before it leave the LDQ. -/
def Runner.drainLdq (x : Runner) (one : Bool) (n : Nat) : Runner :=
  { x.modLeg (fun l => l.modLdq one fun q => q.filter fun e => decide (n ≤ e.id)) with qdrain := none }
/-- QDRAIN (R349): at once when nothing is RESERVED, otherwise the A slice waits for it; what its own bundle reserves after it stays
(R40). DEDUCED, log entry 21. -/
def execQdrain (o : QDrainO) (s : State) : Out :=
  slotGo (.qdrain o) s fun _ s =>
    .next { s.modMe (fun x =>
      if ldqSettled s.seq (x.leg.ldq o.ldq1) then x.drainLdq o.ldq1 s.seq else { x with qdrain := some (o.ldq1, s.seq) })
      with seq := s.seq + 1 }
/-- The word QSTAT samples (R350). -/
def Runner.qstatWord (x : Runner) (q : QName) : Nat :=
  let gone := x.freedOf q
  let occ := match q with
    | .sdq | .ixq | .caq => x.poppable q
    | q => x.occPush q
  let ldq := match q with | .ldq0 => some x.leg.ldq0 | .ldq1 => some x.leg.ldq1 | _ => none
  let rdy := match ldq with | some l => gone + ldqReady l | none => occ
  let hf : Bool := match ldq with
    | some (e :: _) => gone == 0 && (e.st == .fault || e.ue)
    | _ => false
  let aux := match q with
    | .laq => x.slip + x.leg.lim.toNat * 2 ^ 8
    | .caq => x.lod.toNat
    | _ => 0
  occ + rdy * 2 ^ 8 + qCap q * 2 ^ 16 + (if hf then 2 ^ 24 else 0) + aux * 2 ^ 32
/-- QSTAT (R350). -/
def execQstat (o : QStatO) (s : State) : Out :=
  slotGo (.qstat o) s fun u s => .next (s.dstW u 0 2 (BitVec.ofNat 64 (s.me.qstatWord o.q)) false)

end Sys2Proof.Machine
end

