-- ==== Sys2Proof/Machine/Control.lean ====
section
/-! DEFINITION. NOP, header marks, system control, and the return from a trap (R42, R51, R55, R59, R141-R145, R200, R239,
R313, R343, R356-R359, R373, R375, R376, R379). -/

namespace Sys2Proof.Machine

/-! ### NOP and marks -/

/-- NOP (R42). -/
def execNop (o : NopO) (s : State) : Out := slotGo (.nop o) s fun _ s => .next s
/-- A bundle that waits: it does not issue in this cycle. -/
def State.waits (s : State) : Out := .next { s with cur := { s.cur with st := .wait } }
/-- A header that does its work, unless it has done it at the bundle's first issue (R359, R376). -/
def markGo (i : Instr) (s : State) (sl : Slice) (k : State → Out) : Out :=
  slotGo i s fun _ s => if (s.me.st sl).marked then .next s else k s
/-- A header without a mark: no effect (R49). -/
def execHeader (o : HdrO) (s : State) : Out := slotGo (.header o) s fun _ s => .next s
/-- MARK 111: ignored (R51). -/
def execHint (o : HdrO) (s : State) : Out := slotGo (.hint o) s fun _ s => .next s
/-- `%leg` (R366): a leg boundary once every store of the leg is matched. -/
def execLeg (o : HdrO) (s : State) : Out :=
  markGo (.leg o) s o.sl fun s =>
    if s.me.saq.isEmpty then .next (s.boundary s.cur.run false (some o.sl)) else s.waits

/-- Whether a Sprinter command makes an access of R303: one on memory, on a Tub or Vat tile, or a barrier arrival. -/
def sprAccess (c : SprCmd) : Bool :=
  match c.i with
  | .tld _ | .tst _ | .seal _ | .unseal _ | .bararr _ => true
  | _ => (match c.tile with | some t => t.lvl != .basin | none => false)
      || (match c.src with | some t => t.lvl != .basin | none => false)
/-- Every access the runner has issued has been performed, but for stores of the Hamper that are not committed. -/
def Runner.settled (x : Runner) : Bool :=
  x.saq.isEmpty && x.laq.isEmpty && x.strong.isEmpty && !(x.hamper.any (·.committed)) && !(x.spr.q.any sprAccess)
/-- Runners of the squad of a runner (R25). -/
def State.squadSize (s : State) (x : Runner) : Nat := match s.squadOf x with | some q => q.nrun | none => 1
/-- The exchange is passed: XCNT and a leg boundary (R374, R375). DEDUCED, log entry 17. -/
def State.passExchange (s : State) (sl : Slice) : State :=
  (s.modMe fun x => { x.modLeg (fun l => { l with xcnt := l.xcnt + 1 }) with exchAt := none }).boundary s.cur.run true (some sl)
/-- `%exchange` (R375): the runner reaches it when everything is performed, the leg's own stores among it, for which the
Hamper commits first; it passes with its squad, and at once alone. DEDUCED, log entry 17. -/
def execExchange (o : HdrO) (s : State) : Out :=
  markGo (.exchange o) s o.sl fun s =>
    let x := s.me
    match x.exchAt with
    | some (sl, _) =>
      match (s.squadOf x).bind (·.exch) with
      | some e => if sl == o.sl && decide (e ≤ s.cycle) then .next (s.passExchange o.sl) else s.waits
      | none => s.waits
    | none =>
      if !x.settled then s.waits
      else if !x.hamper.isEmpty then (s.boundary s.cur.run false none).waits
      else if s.squadSize x ≤ 1 then .next (s.passExchange o.sl)
      else (s.modMe fun x => { x with exchAt := some (o.sl, s.cycle) }).waits

/-- The patch of a code address (R237). -/
def patchOf (pc : Word) : Nat := bits pc.toNat 16 6
/-- Whether a patch is in either half. -/
def IMem.resident (m : IMem) (q : Nat) : Bool := m.half0 == some q || m.half1 == some q
/-- A copy into the idle half begun; it completes within 640 + LEN cycles, and until then that half holds no patch (R18, R239). DESIGN CHOICE,
log entry 44. DEDUCED, log entry 67. -/
def State.startCopy (s : State) (r : Nat) (sl : Slice) (q : Nat) : State :=
  let m := ((s.rn r).sx sl).im
  let n := match aget m.tab q with | some p => p.len | none => 0
  { s.modR r (fun x => x.modX sl fun y => { y with im := { y.im with
      half0 := if m.active1 then none else m.half0
      half1 := if m.active1 then m.half1 else none
      copy := some { patch := q, fin := s.cycle + 1 + Config.within (if sl == .c then 0 else 1) r s.cycle % (640 + n), half1 := !m.active1 } } }) with seq := s.seq + 1 }
/-- `%patch` (R239): a copy of NEXT, unless none, resident or another copy is in progress. -/
def execPatch (o : HdrO) (s : State) : Out :=
  markGo (.patch o) s o.sl fun s =>
    let m := (s.me.sx o.sl).im
    match (aget m.tab (patchOf s.cur.pc)).bind (·.next) with
    | some q => if m.resident q || m.copy.isSome then .next s else .next (s.startCopy s.cur.run o.sl q)
    | none => .next s

/-- Every engine command of the runner has completed, a TST or SEAL of its Hamper among them (R274), and every result of the slice has landed,
those that a trap captured among them (R362), and the vector slots' results for a mark of the A slice (R59). DEDUCED, log entry 99. -/
def Runner.engineIdle (x : Runner) (sl : Slice) : Bool :=
  x.press.fq.isEmpty && x.press.cq.isEmpty && x.spr.q.isEmpty && (x.hamper.all fun h => h.kind == .store) && x.relay.q.isEmpty
    && (x.sx sl).pend.all (·.landed) && (x.st sl).ifq.isEmpty
    && (x.cx.pend.all fun p => p.landed || !(p.slot == 1 || p.slot == 2))
/-- A mode mark (R55, R59). -/
def modeMark (i : Instr) (s : State) (sl : Slice) (b : Bool) : Out :=
  slotGo i s fun _ s =>
    if (s.me.st sl).exposed == b then .next s
    else if s.me.engineIdle sl then .next (s.modMe fun x => x.modSt sl fun t => t.withExp b) else s.waits
/-- `%exposed` (R55). -/
def execExposed (o : HdrO) (s : State) : Out := modeMark (.exposed o) s o.sl true
/-- `%interlocked` (R55). -/
def execInterlocked (o : HdrO) (s : State) : Out := modeMark (.interlocked o) s o.sl false

/-! ### TRAP, DONE, HALT, RWND, PREEMPT.ACK -/

/-- TRAP (R142): it commits, then the trap is raised with RESUME = 1. -/
def execTrap (o : TrapO) (s : State) : Out :=
  slotGo (.trap o) s fun u s =>
    s.trapBundle o.sl { PTrap.mk' 0x09 o.code.toNat u.pos with resume := 1 }

/-- The cause of a class of a held Press command. -/
def fpCause : FpCls → Nat
  | .invalid => 3
  | .divzero => 4
  | .overflow => 5
/-- A pending Press exception delivered at a slot (R200). -/
def State.deliverPress (s : State) (pos : Nat) : Out :=
  let p := s.me.press
  let pc := match p.cq with | c :: _ => c.pc | [] => 0
  let t := PTrap.mk' (match p.held with | some c => fpCause c | none => 3) (p.kheld % 65536 + 2 ^ 31) pos pc
  (s.modMe fun x => { x with press := { x.press with pend := false } }).trapBundle .c t
/-- A pending Press exception goes before the effect. -/
def pressFirst (u : Use) (s : State) (k : State → Out) : Out :=
  if s.me.press.pend && u.sl == .c then s.deliverPress u.pos else k s

/-- DONE (R144, R200): the slice issues no later bundle, and a pending branch is dropped. -/
def execDone (o : SysO) (s : State) : Out :=
  slotGo (.done o) s fun u s => pressFirst u s fun s =>
    .next (s.modMe fun x => x.modSt o.sl fun t => { t with done := true, br := none })
/-- HALT (R145, R369): the runner's Hamper commits and the heat ends. -/
def execHalt (o : SysO) (s : State) : Out :=
  slotGo (.halt o) s fun _ s =>
    if s.me.saq.isEmpty then
      let s := s.boundary s.cur.run false none
      let s := s.endHeat (some s.cur.run) s.me.heatid (statusWord 0x0D 0 (o.sl == .a) s.cur.run s.cur.pc 0) 0
      .next { s with cur := { s.cur with st := .stopped } }
    else s.waits
/-- RWND (R373). -/
def execRwnd (o : GO) (s : State) : Out := slotGo (.rwnd o) s fun _ s => s.rewindBundle 4 []
/-- PREEMPT.ACK (R379): the C slice issues nothing further until a request arrives. -/
def execPreemptAck (o : GO) (s : State) : Out :=
  slotGo (.preemptAck o) s fun _ s => .next (s.modMe fun x => x.modSt .c fun t => { t with acked := true })

/-! ### RFT (R143, R200, R313, R343, R357, R359, R363) -/

/-- A trap held in the other slice is taken in the cycle in which the RFT issues, under R356 (R357). DEDUCED, log entry 15. -/
def State.takeHeld (s : State) (r : Nat) (sl : Slice) : State :=
  let o := otherSlice sl
  let x := s.rn r
  match (x.sx o).trap with
  | some t => if (x.sx o).st == .trapHeld then s.enter r o t (x.st o) s.cycle else s
  | none => s
/-- What the C slice's RFT releases: the freeze of the A slice and, once its exception has been delivered, the held Press command
with its enables read afresh (R200). -/
def Runner.releaseC (x : Runner) (now : Nat) : Runner :=
  let fresh (c : PressCmd) : PressCmd := { c with quar := x.quar, fei := x.fei, fez := x.fez, feo := x.feo }
  let x := if x.leg.frozen then
      { x with leg := { x.leg with frozen := false, s := { x.leg.s with wait := max x.leg.s.wait (now + 1) } } } else x
  if x.press.held.isSome && !x.press.pend then
    { x with press := { x.press with
      held := none
      cq := (x.press.cq.map fresh)
      cqFree := now + 1 } }
  else x
/-- What the A slice's return releases before the re-entered bundle issues: commits, chunks and strong accesses held by a
RACE (R313). -/
def Runner.releaseA (x : Runner) : Runner :=
  { x with
    hamper := x.hamper.map fun h => { h with held := false }
    spr := { x.spr with q := x.spr.q.map fun c => { c with held := false } }
    strong := x.strong.map fun e => { e with held := false } }
/-- RFT (R143): a branch-class operation; one that executes with HND = 0 is ILLEGAL_BUNDLE, one whose guard is false never is (R43). -/
def execRft (o : SysO) (s : State) : Out :=
  slotGuarded (.rft o) s
    (fun u s =>
      if !(s.me.st o.sl).hnd then s.trapWhole u 0x01 10
      else
        let s := s.takeHeld s.cur.run o.sl
        let s := match o.sl with
          | .c => s.modMe fun x => x.releaseC s.cycle
          | .a => s
        .next { s with cur := { s.cur with br := some { target := none, left := 3, rft := true } } })
    (fun _ s => .next (s.branchTo none))

/-- After the third delay slot of RFT: the trapped bundle is re-entered at RESUME in its own mode, with its pending branch,
and the captured results are put back (R143, R359, R363). DESIGN CHOICE, log entry 80. -/
def Runner.reenter (x : Runner) (sl : Slice) (now : Nat) : Runner :=
  let t := x.st sl
  let sh := t.tsh.getD { exp := t.exposed, guards := 0, br := none, marked := false }
  let x := x.modX sl fun y => { y with pend := y.pend ++ reinject t.ifq (now + 1) }
  let x := match sl with | .a => x.releaseA | .c => x
  x.modSt sl fun t => { (t.withExp sh.exp).withHnd false with
    pc := t.xpc, br := sh.br, reentry := some (t.resume, sh.guards), marked := sh.marked, ifq := [], wait := max t.wait (now + 1) }

/-! ### System registers -/

/-- A system register read (R127), L = 2, poison clear; XCNT as the cycle began, a new count being readable from the next
(R375). DEDUCED, log entry 13. -/
def csrRead (i : Instr) (s : State) (n : BitVec 12) : Out :=
  slotGo i s fun u s =>
    let v := if n = 0x011 then (s.preFold s.cur.run).2.leg.xcnt.setWidth 64 else s.me.csr n
    .next (s.dstW u 0 2 v false)
/-- CSRR (R127). -/
def execCsrr (o : CsrrO) (s : State) : Out := csrRead (.csrr o) s o.n
/-- ACSRR (R127). -/
def execAcsrr (o : CsrrO) (s : State) : Out := csrRead (.acsrr o) s o.n
end Sys2Proof.Machine
end

