-- ==== Sys2Proof/Machine/AgOps.lean ====
section
/-! DEFINITION. AG-slot loads and stores (R80, R337-R342), the service of loads (R220, R304, R312, R338, R339), and store
matching (R341). -/

namespace Sys2Proof.Machine

/-! ### Addresses and checks -/

/-- Element addresses of a strided access (R338). -/
def strideAddrs (base stride : Word) (n : Nat) : List Word := (List.range n).map fun k => base + BitVec.ofNat 64 k * stride
/-- Element addresses of an indexed access (R338). -/
def indexAddrs (base : Word) (ix : VWord) (e : Nat) : List Word :=
  let wi := max e 32
  (List.range (1024 / wi)).map fun k => base + BitVec.ofNat 64 (bits ix.toNat (wi * k) wi * e / 8)

/-- The first failure among element addresses, in ascending order (R338, R342). -/
inductive ElemFail
  | misaligned (a : Word)
  | bounds (a : Word)
  | notPresent (ext : Nat)
  deriving DecidableEq, Repr
/-- The check of one element. -/
def Runner.elemFail (x : Runner) (e : Nat) (wr : Bool) (a : Word) : Option ElemFail :=
  if a.toNat % (e / 8) ≠ 0 then some (.misaligned a)
  else if isScratch a then (if (x.scratch a (e / 8)).isSome then none else some (.bounds a))
  else match x.check a (e / 8) (!wr) wr false with
    | .ok _ _ => none
    | .bounds => some (.bounds a)
    | .notPresent i => some (.notPresent i)
/-- The first failing element. -/
def Runner.firstFail (x : Runner) (e : Nat) (wr : Bool) (addrs : List Word) : Option ElemFail :=
  addrs.findSome? (x.elemFail e wr)

/-! ### Loads -/

/-- An LDQ entry reserved for a load. -/
def reserved (id : Nat) (load : Option LaqE) (ag1 : Bool) : LdqE :=
  { id := id, load := load, strong := none, retry := false, st := .reserved, data := 0, stain := false, poison := false,
    ue := false, cause := 0, detail := 0, addr := 0, ag1 := ag1 }
/-- The next position of an LDQ reserved (R336). -/
def Runner.reserve (x : Runner) (one : Bool) (e : LdqE) : Runner := x.modLeg fun l => l.modLdq one fun q => q ++ [e]
/-- The LDQ entry with a number, in the live queues and in the Fold (R351). -/
def Runner.modEntry (x : Runner) (id : Nat) (f : LdqE → LdqE) : Runner :=
  let g (l : List LdqE) : List LdqE := l.map fun e => if e.id == id then f e else e
  { x with
    leg := { x.leg with ldq0 := g x.leg.ldq0, ldq1 := g x.leg.ldq1 }
    fold := { x.fold with leg := { x.fold.leg with ldq0 := g x.fold.leg.ldq0, ldq1 := g x.fold.leg.ldq1 } } }
/-- An entry that becomes FAULT. -/
def faultE (cause detail : Nat) (a : Word) (e : LdqE) : LdqE :=
  { e with st := .fault, cause := BitVec.ofNat 8 cause, detail := BitVec.ofNat 32 detail, addr := a }
/-- An entry of a failed speculative load: data 0 and poison 1 (R342). -/
def poisonE (e : LdqE) : LdqE := { e with st := .filled, data := 0, poison := true }
/-- What a load failure does to its entry (R342). -/
def failE (spec : Bool) (cause detail : Nat) (a : Word) (e : LdqE) : LdqE :=
  if spec then poisonE e else faultE cause detail a e
/-- A load and its requests dropped. -/
def State.dropLoad (s : State) (r id : Nat) : State :=
  (s.modR r fun x => { x with laq := x.laq.filter fun q => q.id != id }).modMem fun m =>
    { m with reqs := m.reqs.filter fun q => match q.use with | .load r' id' _ => !(r' == r && id' == id) | _ => true }
/-- A load that fails when an element is performed (R342). -/
def State.failLoad (s : State) (r : Nat) (q : LaqE) (cause detail : Nat) (a : Word) : State :=
  (s.dropLoad r q.id).modR r fun x => x.modEntry q.id (failE (q.op == .ldaS) cause detail a)

/-- Whether an element of a load must wait for an earlier write of its runner (R339): an unmatched store, a strong write, or
a tile store. DEDUCED, log entry 22. -/
def State.loadWaits (s : State) (r : Nat) (id : Nat) (a : Word) (n : Nat) : Bool :=
  let x := s.rn r
  acqGate x id || (x.saq.any fun e => decide (e.id < id) && e.addrs.any fun b => meets a.toNat n b.toNat (sizeBits e.size / 8))
  || x.strongMeets id false a.toNat n
  || (x.hamper.any fun h => h.kind != .store && decide (h.id < id) && (s.hamSpans r h).any fun z => meets a.toNat n z.1 z.2)
  || (x.spr.q.any fun c => decide (c.id < id) && sprStores c && (s.sprSpans r c).any fun z => meets a.toNat n z.1 z.2)

/-- Set bits of a mask of elements. -/
def elemBits (ks : List Nat) : BitVec 128 := ks.foldl (fun m k => m ||| (1#128 <<< k)) 0
/-- A scratchpad element of a load on its way: it reaches its level and its queue at `at_` (R268). -/
def State.askLevel (s : State) (r : Nat) (q : LaqE) (k : Nat) (a : Word) (at_ : Nat) : State :=
  let n := sizeBits q.size / 8
  let z : Req :=
    { id := s.seq, run := r, chan := none, pa := 0, va := a, len := n, els := [], write := false, data := [], elig := s.cycle, order := s.seq,
      use := .load r q.id [k], start := some s.cycle, arrive := some at_, reply := none, fail := false, mend := false }
  { (s.modMem fun m => { m with reqs := m.reqs ++ [z] }) with seq := s.seq + 1 }
/-- Whether an address of a load lies in the far tier. -/
def Runner.isFar (x : Runner) (a : Word) (n : Nat) : Bool := !isScratch a && match x.physOf a n with | some h => pclass h.2 == .far | none => false
/-- Whether an earlier load of a runner has a far-tier element that has not been sent: far-tier requests keep the order of LAQ (R291, R296). -/
def Runner.farBehind (x : Runner) (id : Nat) : Bool :=
  x.laq.any fun q => decide (q.id < id) && q.addrs.zipIdx.any fun p => !q.taken.getLsbD p.2 && x.isFar p.1 (sizeBits q.size / 8)
/-- The elements of a load that may go now, in ascending order up to the first that must wait: memory elements become requests, one for each
block, eligible from the fourth cycle after the load's issue, or from now where they have waited for an earlier write (R291, R339), and
scratchpad elements go to their level (R268, R290, R338). DEDUCED, log entry 22. -/
def State.serveLoad (s : State) (r : Nat) (q : LaqE) : State :=
  let e := sizeBits q.size / 8
  let x := s.rn r
  let left := (q.addrs.zipIdx.map fun p => (p.2, p.1)).filter fun ka => !q.taken.getLsbD ka.1
  let held := q.held ||| elemBits ((left.filter fun ka => s.loadWaits r q.id ka.2 e).map (·.1))
  let ready := left.takeWhile fun ka => !s.loadWaits r q.id ka.2 e && !(x.isFar ka.2 e && x.farBehind q.id)
  let s := s.modR r fun x => { x with laq := x.laq.map fun z =>
    if z.id == q.id then { z with taken := z.taken ||| elemBits (ready.map (·.1)), held := held } else z }
  let s := (ready.filter fun ka => isScratch ka.2).foldl (fun s ka =>
    let lat := match x.scratch ka.2 e with | some (l, _) => lvlLatency l | none => 12
    s.askLevel r q ka.1 ka.2 (if s.cycle + 4 ≤ q.elig + 1 then q.elig - 4 + lat else s.cycle + lat)) s
  (blockGroups (ready.filter fun ka => !isScratch ka.2)).foldl (fun s g =>
    s.post r (g.map fun ka => (((x.physOf ka.2 e).getD (0, 0)).2, e, [])) (g.headD (0, 0)).2 false
      (if g.any fun ka => held.getLsbD ka.1 then max s.cycle q.elig else q.elig)
      (.load r q.id (g.map (·.1)))) s
/-- Every load of a runner served as far as it goes. -/
def State.serveLoads (s : State) (r : Nat) : State :=
  if (s.rn r).laq.isEmpty then s
  else match s.queueReads r with
    | (s, true) => s.rewind r 2 []
    | (s, false) => (s.rn r).laq.foldl (fun s q => s.serveLoad r q) s

/-- Whether an element meets a TST or SEAL that the Hamper holds for the current leg (R275, R339). -/
def State.meetsGated (s : State) (addrs : List Word) (n : Nat) : Bool :=
  s.me.hamper.any fun h => !h.committed && h.kind != .store &&
    (s.hamSpans s.cur.run h).any fun z => addrs.any fun a => meets a.toNat n z.1 z.2
/-- A leg boundary made at the issue of the bundle (R275): the bundle then goes on in the new leg. -/
def State.boundFirst (s : State) (sl : Slice) : Out :=
  if s.me.saq.isEmpty then
    let s' := s.boundary s.cur.run false (some sl)
    .next { s' with cur := { s'.cur with st := .bound } }
  else s.waits

/-- One IXQ entry popped by an AG slot. -/
def State.popIxq (s : State) : State :=
  s.modMe fun x => (x.modLeg fun l => { l with ixq := l.ixq.tail }).free .ixq s.cycle
/-- The issue of a load with its element addresses (R336, R338, R342); `pop` takes its IXQ entry. -/
def issueLoad (s : State) (pop : State → State) (op : AgOp) (one : Bool) (size : Size) (ag1 : Bool) (base stride : Word) (ix : VWord) (stain : Bool)
    (addrs : List Word) : Out :=
  let e := sizeBits size
  let x := s.me
  let id := s.seq
  let q : LaqE :=
    { id := id, op := op, tgt1 := one, size := size, ag1 := ag1, base := base, stride := stride, idx := ix, addrs := addrs,
      taken := 0, held := 0, arrived := 0, data := 0, stain := stain, ue := false, elig := s.cycle + 4, leg := x.legNo, stamp := s.srs x }
  let s1 := pop { s with seq := s.seq + 1 }
  let fail (cause detail : Nat) (a : Word) : Out :=
    .next (s1.modMe fun x => x.reserve one (failE (op == .ldaS) cause detail a (reserved id (some q) ag1)))
  match x.firstFail e false addrs with
  | some (.misaligned a) => fail 0x02 6 a
  | some (.bounds a) => fail 0x20 0 a
  | some (.notPresent i) => if op == .ldaS then fail 0 0 0 else s.npBundle [i]
  | none =>
    if s.meetsGated addrs (e / 8) then s.boundFirst .a
    else
      let s := s1.modMe fun x => { x.reserve one (reserved id (some q) ag1) with laq := x.laq ++ [q] }
      .next (s.serveLoad s.cur.run q)

/-- An AG position as the AG1 bit. -/
def isAg1 : AgPos → Bool
  | .ag0 => false
  | .ag1 => true
/-- LDA (R337). -/
def execLda (o : AgLdO) (s : State) : Out :=
  slotGo (.lda o) s fun u s =>
    issueLoad s id .lda o.ldq1 o.size (isAg1 o.ag) (s.src u 0) (s.src u 1) 0 false [s.src u 0 + s.src u 1]
/-- LDA.S (R337, R342). -/
def execLdaS (o : AgLdO) (s : State) : Out :=
  slotGo (.ldaS o) s fun u s =>
    issueLoad s id .ldaS o.ldq1 o.size (isAg1 o.ag) (s.src u 0) (s.src u 1) 0 false [s.src u 0 + s.src u 1]
/-- LDST (R337): the count is checked under R63. -/
def execLdst (o : AgLdStO) (s : State) : Out :=
  slotGo (.ldst o) s fun u s =>
    let n := (s.src u 2).toNat
    if n = 0 ∨ 1024 / sizeBits o.size < n then s.trapWhole u 0x02 7
    else issueLoad s id .ldst o.ldq1 o.size (isAg1 o.ag) (s.src u 0) (s.src u 1) 0 false
      (strideAddrs (s.src u 0) (s.src u 1) n)
/-- LDX (R337): one IXQ entry is popped; its stain goes to the result. -/
def execLdx (o : AgLdXO) (s : State) : Out :=
  slotGo (.ldx o) s fun u s =>
    match s.me.leg.ixq.head? with
    | none => .next s
    | some h =>
      issueLoad s State.popIxq .ldx o.ldq1 o.size (isAg1 o.ag) (s.src u 0) 0 h.data h.stain
        (indexAddrs (s.src u 0) h.data (sizeBits o.size))

/-! ### Stores -/

/-- The issue of a store with its element addresses (R340). -/
def issueStore (u : Use) (s : State) (pop : State → State) (op : AgOp) (size : Size) (base stride : Word) (ix : VWord) (addrs : List Word) : Out :=
  let x := s.me
  match x.firstFail (sizeBits size) true addrs with
  | some (.misaligned _) => s.trapSlot u 0x02 6
  | some (.bounds a) => s.fatalBundle .a 0x20 a u.pos
  | some (.notPresent i) => s.npBundle [i]
  | none =>
    let e : SaqE := { id := s.seq, op := op, size := size, base := base, stride := stride, idx := ix, addrs := addrs,
                      leg := x.legNo, stamp := s.srs x, issue := s.cycle }
    .next { (pop s).modMe (fun x => { x with saq := x.saq ++ [e] }) with seq := s.seq + 1 }
/-- STA (R340). -/
def execSta (o : AgStO) (s : State) : Out :=
  slotGo (.sta o) s fun u s =>
    issueStore u s id .sta o.size (s.src u 0) (s.src u 1) 0 [s.src u 0 + s.src u 1]
/-- STST (R340). -/
def execStst (o : AgStStO) (s : State) : Out :=
  slotGo (.stst o) s fun u s =>
    let n := (s.src u 2).toNat
    if n = 0 ∨ 1024 / sizeBits o.size < n then s.trapWhole u 0x02 7
    else issueStore u s id .stst o.size (s.src u 0) (s.src u 1) 0 (strideAddrs (s.src u 0) (s.src u 1) n)
/-- STX (R340). -/
def execStx (o : AgStXO) (s : State) : Out :=
  slotGo (.stx o) s fun u s =>
    match s.me.leg.ixq.head? with
    | none => .next s
    | some h =>
      issueStore u s State.popIxq .stx o.size (s.src u 0) 0 h.data (indexAddrs (s.src u 0) h.data (sizeBits o.size))

end Sys2Proof.Machine
end

