-- ==== Sys2Proof/Machine/Num.lean ====
section
/-! DEFINITION. Number formats, exact values, rounding, and the special functions (R84-R91, R95-R101, R159, R164, R165). -/

namespace Sys2Proof.Machine

/-! ### Fields of the floating-point formats (R85) -/

/-- The element format of a block-scaled format, and of any other format itself (R91). -/
def elemFmt : Fmt → Fmt
  | .qe5m2 => .e5m2 | .qe4m3 => .e4m3 | .qe3m2 => .e3m2 | .qe2m3 => .e2m3 | .qe2m1 => .e2m1
  | f => f
/-- Exponent field width; 0 for the integer formats. -/
def expBits : Fmt → Nat
  | .f64 => 11 | .f32 | .bf16 => 8 | .f16 | .e5m2 => 5 | .e4m3 => 4 | .e3m2 => 3 | .e2m3 | .e2m1 => 2
  | _ => 0
/-- Mantissa field width. -/
def manBits : Fmt → Nat
  | .f64 => 52 | .f32 => 23 | .f16 => 10 | .bf16 => 7 | .e4m3 | .e2m3 => 3 | .e5m2 | .e3m2 => 2 | .e2m1 => 1
  | _ => 0
/-- Exponent bias. -/
def fmtBias : Fmt → Nat
  | .f64 => 1023 | .f32 | .bf16 => 127 | .f16 | .e5m2 => 15 | .e4m3 => 7 | .e3m2 => 3 | .e2m3 | .e2m1 => 1
  | _ => 0
/-- A floating-point format. -/
def isFloat (f : Fmt) : Bool := decide (0 < expBits f)
/-- A format with infinities. -/
def hasInf : Fmt → Bool
  | .f64 | .f32 | .bf16 | .f16 | .e5m2 => true
  | _ => false
/-- A format whose NaNs may signal (R86). -/
def hasSnan : Fmt → Bool
  | .f64 | .f32 | .bf16 | .f16 => true
  | _ => false
/-- The encoding of the largest finite value. -/
def maxFin (f : Fmt) : Nat :=
  let top := 2 ^ (expBits f + manBits f)
  if hasInf f then top - 2 ^ manBits f - 1 else if f == .e4m3 then top - 2 else top - 1
/-- The encoding of infinity. -/
def infBits (f : Fmt) : Nat := (2 ^ expBits f - 1) * 2 ^ manBits f
/-- The canonical NaN (R87); zero in a format without one. -/
def nanBits (f : Fmt) : Nat :=
  if hasInf f then infBits f + 2 ^ (manBits f - 1) else if f == .e4m3 then 0x7F else 0
/-- A sign joined to a magnitude. -/
def signed (f : Fmt) (neg : Bool) (mag : Nat) : Nat := mag + if neg then 2 ^ (expBits f + manBits f) else 0
/-- The sign of an encoding. -/
def signOf (f : Fmt) (x : Nat) : Bool := x.testBit (expBits f + manBits f)
/-- The magnitude bits of an encoding. -/
def magOf (f : Fmt) (x : Nat) : Nat := x % 2 ^ (expBits f + manBits f)

/-! ### Values (R84, R86) -/

/-- An exact value: a NaN, an infinity, or sign, integer and power of two. -/
inductive FV
  | nan (sig neg : Bool)
  | inf (neg : Bool)
  | num (neg : Bool) (m : Nat) (e : Int)
  deriving DecidableEq, Repr

/-- The value of an encoding (R86). -/
def decodeF (f : Fmt) (x : Nat) : FV :=
  let neg := signOf f x
  let mag := magOf f x
  let e := mag / 2 ^ manBits f
  let m := mag % 2 ^ manBits f
  if maxFin f < mag then
    if hasInf f && m == 0 then .inf neg else .nan (hasSnan f && !(m.testBit (manBits f - 1))) neg
  else if e = 0 then .num neg m (1 - fmtBias f - manBits f)
  else .num neg (m + 2 ^ manBits f) ((e : Int) - fmtBias f - manBits f)
/-- A signed integer format. -/
def isSigned : Fmt → Bool
  | .s8 | .s16 | .s32 | .s64 | .qs8 => true
  | _ => false
/-- The integer an e-bit field holds (R84). -/
def intOf (sgn : Bool) (e x : Nat) : Int := if sgn && x.testBit (e - 1) then (x : Int) - 2 ^ e else x
/-- The low e bits of an integer. -/
def wrapI (e : Nat) (v : Int) : Nat := (v % (2 ^ e : Int)).toNat
/-- The bounds of an integer type. -/
def intMin (sgn : Bool) (e : Nat) : Int := if sgn then -(2 ^ (e - 1) : Int) else 0
/-- The largest value of an integer type. -/
def intMax (sgn : Bool) (e : Nat) : Int := if sgn then (2 ^ (e - 1) : Int) - 1 else (2 ^ e : Int) - 1
/-- The nearest value of an integer type. -/
def clampI (sgn : Bool) (e : Nat) (v : Int) : Int := max (intMin sgn e) (min (intMax sgn e) v)

/-- An element result: its bits, and the classes of R99 it met. -/
structure FRes where
  v : Nat
  inv : Bool
  dz : Bool
  ovf : Bool
  deriving DecidableEq, Repr
/-- A result that meets no class. -/
def FRes.of (v : Nat) : FRes := { v := v, inv := false, dz := false, ovf := false }
/-- A NaN or infinity encoding. -/
def isSpecial (f : Fmt) (x : Nat) : Bool := isFloat f && decide (maxFin f < magOf f x)

/-! ### Rounding (R96, R97) -/

/-- Whether the truncated significand goes up: t truncated, `rm'` of d dropped bits, and whether more was dropped. -/
def roundsUp (rm : Rm) (neg : Bool) (t rem d : Nat) (sticky : Bool) (r : Nat) : Bool :=
  let half := 2 ^ d / 2
  let some' := rem != 0 || sticky
  match rm with
  | .rne => d != 0 && (decide (half < rem) || (rem == half && (sticky || t % 2 == 1)))
  | .rtz => false
  | .rup => some' && !neg
  | .rdn => some' && neg
  | .rna => d != 0 && decide (half ≤ rem)
  | .sr =>
    let k := if sticky then 32 else min 32 (d - ctzFrom rem d)
    if rem == 0 && !sticky then false else decide (2 ^ k ≤ rem * 2 ^ k / 2 ^ d + r % 2 ^ k)
/-- |x| = (m + δ)·2^e in quanta of 2^q: rounded to an integer. -/
def roundQ (rm : Rm) (neg : Bool) (m : Nat) (e q : Int) (sticky : Bool) (r : Nat) : Nat :=
  if q ≤ e then m * 2 ^ (e - q).toNat
  else
    let d := (q - e).toNat
    let t := m / 2 ^ d
    t + if roundsUp rm neg t (m % 2 ^ d) d sticky r then 1 else 0
/-- The overflow result of a format (R97). -/
def overflowBits (f : Fmt) (rm : Rm) (neg sat : Bool) : Nat :=
  let toInf := match rm with | .rtz => false | .rup => !neg | .rdn => neg | _ => true
  if sat || !toInf then signed f neg (maxFin f)
  else if hasInf f then signed f neg (infBits f)
  else if f == .e4m3 then nanBits f
  else signed f neg (maxFin f)
/-- round_to of a non-zero exact value: |x| = m·2^e, or a little more when `sticky` (R96). -/
def roundTo (f : Fmt) (rm : Rm) (sat : Bool) (r : Nat) (neg : Bool) (m : Nat) (e : Int) (sticky : Bool := false) : FRes :=
  let p1 := (manBits f : Int)
  let emin := 1 - (fmtBias f : Int)
  let b := max ((Nat.log2 m : Int) + e) emin
  let t := roundQ rm neg m e (b - p1) sticky r
  let mag := ((b - emin).toNat) * 2 ^ manBits f + t
  if maxFin f < mag then { FRes.of (overflowBits f rm neg sat) with ovf := !sat }
  else FRes.of (signed f neg mag)

/-- Whether a value is a signalling NaN. -/
def FV.snan : FV → Bool
  | .nan b _ => b
  | _ => false
/-- The canonical NaN as a value. -/
def qnan : FV := .nan false false
/-- An exact value rounded into a format; NaN gives the canonical NaN (R87, R88, R97). -/
def finish (f : Fmt) (rm : Rm) (sat : Bool) (r : Nat) (v : FV) (inv : Bool) : FRes :=
  match v with
  | .nan _ _ => { FRes.of (nanBits f) with inv := inv }
  | .inf neg =>
    if hasInf f then { FRes.of (signed f neg (infBits f)) with inv := inv }
    else { FRes.of (overflowBits f rm neg sat) with inv := inv, ovf := !sat }
  | .num neg m e =>
    if m = 0 then { FRes.of (signed f neg 0) with inv := inv }
    else let z := roundTo f rm sat r neg m e; { z with inv := inv }

/-! ### Exact arithmetic (R88, R99) -/

/-- The sign changed. -/
def FV.neg : FV → FV
  | .nan s n => .nan s n
  | .inf n => .inf (!n)
  | .num n m e => .num (!n) m e
/-- Exact product and whether it is 0 × ∞. -/
def FV.mul : FV → FV → FV × Bool
  | .nan _ _, _ => (qnan, false)
  | _, .nan _ _ => (qnan, false)
  | .inf a, .inf b => (.inf (a != b), false)
  | .inf a, .num b m _ => if m = 0 then (qnan, true) else (.inf (a != b), false)
  | .num b m _, .inf a => if m = 0 then (qnan, true) else (.inf (a != b), false)
  | .num a m e, .num b n k => (.num (a != b) (m * n) (e + k), false)
/-- A signed integer of a sign and a magnitude. -/
def sgnI (neg : Bool) (m : Nat) : Int := if neg then -(m : Int) else m
/-- Exact sum and whether it is ∞ − ∞; the sign of an exact zero follows the mode (R88). -/
def FV.add (rm : Rm) : FV → FV → FV × Bool
  | .nan _ _, _ => (qnan, false)
  | _, .nan _ _ => (qnan, false)
  | .inf a, .inf b => if a = b then (.inf a, false) else (qnan, true)
  | .inf a, .num _ _ _ => (.inf a, false)
  | .num _ _ _, .inf a => (.inf a, false)
  | .num a m e, .num b n k =>
    let q := min e k
    let i := sgnI a (m * 2 ^ (e - q).toNat) + sgnI b (n * 2 ^ (k - q).toNat)
    if i = 0 then (.num (if a = b then a else rm == .rdn) 0 0, false)
    else (.num (decide (i < 0)) i.natAbs q, false)

/-- x + y in a format. -/
def fAdd (f : Fmt) (rm : Rm) (r x y : Nat) : FRes :=
  let a := decodeF f x; let b := decodeF f y
  let z := FV.add rm a b
  finish f rm false r z.1 (z.2 || a.snan || b.snan)
/-- x − y. -/
def fSub (f : Fmt) (rm : Rm) (r x y : Nat) : FRes :=
  let a := decodeF f x; let b := decodeF f y
  let z := FV.add rm a b.neg
  finish f rm false r z.1 (z.2 || a.snan || b.snan)
/-- x·y. -/
def fMul (f : Fmt) (rm : Rm) (r x y : Nat) : FRes :=
  let a := decodeF f x; let b := decodeF f y
  let z := a.mul b
  finish f rm false r z.1 (z.2 || a.snan || b.snan)
/-- ±(x·y) ± z with one rounding. -/
def fFma (f : Fmt) (rm : Rm) (negP negZ : Bool) (r x y z : Nat) : FRes :=
  let a := decodeF f x; let b := decodeF f y; let c := decodeF f z
  let p := a.mul b
  let q := FV.add rm (if negP then p.1.neg else p.1) (if negZ then c.neg else c)
  finish f rm false r q.1 (p.2 || q.2 || a.snan || b.snan || c.snan)
/-- Extra quotient and root bits, above every precision and the 32 bits that SR sees. -/
def guardBitsN : Nat := 160
/-- x / y. -/
def fDiv (f : Fmt) (rm : Rm) (r x y : Nat) : FRes :=
  let a := decodeF f x; let b := decodeF f y
  let inv := a.snan || b.snan
  match a, b with
  | .nan _ _, _ | _, .nan _ _ => { FRes.of (nanBits f) with inv := inv }
  | .inf _, .inf _ => { FRes.of (nanBits f) with inv := true }
  | .inf s, .num t _ _ => FRes.of (signed f (s != t) (infBits f))
  | .num s _ _, .inf t => FRes.of (signed f (s != t) 0)
  | .num s m e, .num t n k =>
    if n = 0 then
      if m = 0 then { FRes.of (nanBits f) with inv := true } else { FRes.of (signed f (s != t) (infBits f)) with dz := true }
    else if m = 0 then FRes.of (signed f (s != t) 0)
    else
      let q := m * 2 ^ guardBitsN / n
      roundTo f rm false r (s != t) q (e - k - guardBitsN) (m * 2 ^ guardBitsN % n != 0)
/-- The integer square root, bit by bit from bit n − 1. -/
def isqrt (x : Nat) : Nat → Nat → Nat
  | 0, a => a
  | n + 1, a => isqrt x n (if (a + 2 ^ n) * (a + 2 ^ n) ≤ x then a + 2 ^ n else a)
/-- An even exponent for a square root. -/
def evenExp (m : Nat) (e : Int) : Nat × Int := if e % 2 = 0 then (m, e) else (m * 2, e - 1)
/-- The square root (R160). -/
def fSqrt (f : Fmt) (rm : Rm) (r x : Nat) : FRes :=
  match decodeF f x with
  | .nan s _ => { FRes.of (nanBits f) with inv := s }
  | .inf neg => if neg then { FRes.of (nanBits f) with inv := true } else FRes.of (infBits f)
  | .num neg m e =>
    if m = 0 then FRes.of (signed f neg 0)
    else if neg then { FRes.of (nanBits f) with inv := true }
    else
      let me := evenExp m e
      let y := me.1 * 2 ^ (2 * guardBitsN)
      let q := isqrt y 200 0
      roundTo f rm false r false q (me.2 / 2 - guardBitsN) (q * q != y)

/-- An order key of an encoding, −0 below +0 (R159). -/
def keyMin (f : Fmt) (x : Nat) : Int := if signOf f x then -(magOf f x : Int) - 1 else magOf f x
/-- An order key with −0 equal to +0 (R166). -/
def keyCmp (f : Fmt) (x : Nat) : Int := sgnI (signOf f x) (magOf f x)
/-- A NaN encoding. -/
def isNanF (f : Fmt) (x : Nat) : Bool := match decodeF f x with | .nan _ _ => true | _ => false
/-- A signalling NaN encoding. -/
def isSnanF (f : Fmt) (x : Nat) : Bool := (decodeF f x).snan
/-- VMIN and VMAX (R159). -/
def fMinMax (f : Fmt) (mx : Bool) (x y : Nat) : FRes :=
  if isNanF f x || isNanF f y then { FRes.of (nanBits f) with inv := isSnanF f x || isSnanF f y }
  else FRes.of (if (decide (keyMin f x < keyMin f y)) != mx then x else y)

/-! ### Conversions (R98) -/

/-- A real value rounded to an integer under a mode (R96 with quantum 1). -/
def roundI (rm : Rm) (r : Nat) (neg : Bool) (m : Nat) (e : Int) : Int := sgnI neg (roundQ rm neg m e 0 false r)
/-- A value converted to an integer type (R98). -/
def toInt (d : Fmt) (rm : Rm) (sat : Bool) (r : Nat) (v : FV) : FRes :=
  let e := fmtBits d
  let sg := isSigned d
  match v with
  | .nan s _ => { FRes.of 0 with inv := s || !sat }
  | .inf neg => { FRes.of (wrapI e (if neg then intMin sg e else intMax sg e)) with inv := !sat }
  | .num neg m k =>
    let i := if m = 0 then 0 else roundI rm r neg m k
    let c := clampI sg e i
    { FRes.of (wrapI e c) with inv := c != i && !sat }
/-- The value of an element of any VCVT source. -/
def valueOf (f : Fmt) (x : Nat) : FV :=
  if isFloat f then decodeF f x
  else let i := intOf (isSigned f) (fmtBits f) x; .num (decide (i < 0)) i.natAbs 0
/-- A value converted to a floating-point format (R97, R98). -/
def toFloat (d : Fmt) (rm : Rm) (sat : Bool) (r : Nat) (v : FV) : FRes :=
  match v with
  | .nan s neg => if hasInf d || d == .e4m3 then { FRes.of (nanBits d) with inv := s } else { FRes.of (signed d neg 0) with inv := true }
  | v => finish d rm sat r v false
/-- VCVT of one element (R98). -/
def convert (src d : Fmt) (rm : Rm) (sat : Bool) (r x : Nat) : FRes :=
  if isFloat d then toFloat d rm sat r (valueOf src x)
  else if isFloat src then toInt d rm sat r (decodeF src x)
  else
    let i := intOf (isSigned src) (fmtBits src) x
    FRes.of (wrapI (fmtBits d) (if sat then clampI (isSigned d) (fmtBits d) i else i))
/-- The residual of an error-feedback conversion (R103): x − y in the source format. -/
def residual (src d : Fmt) (x : Nat) (y : FRes) : Nat :=
  match decodeF src x with
  | .num neg m e =>
    if y.ovf then x
    else
      match FV.add .rne (.num neg m e) (decodeF d y.v).neg with
      | (.num n k q, _) => if k = 0 then 0 else (roundTo src .rne false 0 n k q).v
      | _ => nanBits src
  | _ => nanBits src

/-! ### Block-scaled values (R90, R91) -/

/-- The value of an element field under a scale byte; NaN when the scale is 0xFF. -/
def blockValue (f : Fmt) (x sc : Nat) : FV :=
  if sc = 255 then qnan
  else if f == .qs8 then
    let i := intOf true 8 x
    .num (decide (i < 0)) i.natAbs ((sc : Int) - 127 - 6)
  else match decodeF (elemFmt f) x with
    | .num n m e => .num n m (e + sc - 127)
    | v => v

/-! ### Stochastic rounding (R101) -/

/-- One step of a lane LFSR. -/
def lfsrStep (v : Nat) : Nat := if v % 2 = 1 then v / 2 ^^^ 0x80200003 else v / 2
/-- All 32 LFSRs of a seed stepped. -/
def seedStep (z : VWord) : VWord :=
  BitVec.ofNat 1024 ((List.range 32).foldl (fun a j => a + lfsrStep (bits z.toNat (32 * j) 32) * 2 ^ (32 * j)) 0)
/-- The random value of element i. -/
def randOf (z i : Nat) : Nat :=
  let v := bits z (32 * (i % 32)) 32
  let k := 8 * (i / 32) % 32
  v / 2 ^ k + v % 2 ^ k * 2 ^ (32 - k)

/-! ### Special functions (R164, R165): fixed point with 800 fraction bits, rounded once -/

/-- Fraction bits of the fixed-point evaluation. -/
def fxP : Nat := 800
/-- exp(y) for 0 ≤ y < 1 in fixed point: n terms of its series from term k on. -/
def expSeries (y : Nat) : Nat → Nat → Nat → Nat → Nat
  | 0, _, _, acc => acc
  | n + 1, k, term, acc => expSeries y n (k + 1) (term * y / 2 ^ fxP / (k + 1)) (acc + term)
/-- exp(y) in fixed point. -/
def expFx (y : Nat) : Nat := expSeries y 200 0 (2 ^ fxP) 0
/-- atanh(z) = z + z³/3 + … in fixed point: n terms. -/
def atanhSeries (z2 : Nat) : Nat → Nat → Nat → Nat → Nat
  | 0, _, _, acc => acc
  | n + 1, k, term, acc => atanhSeries z2 n (k + 2) (term * z2 / 2 ^ fxP) (acc + term / k)
/-- ln(a/b) for a/b from 1 to 2, in fixed point. -/
def lnFx (a b : Nat) : Nat :=
  let z := (a - b) * 2 ^ fxP / (a + b)
  2 * atanhSeries (z * z / 2 ^ fxP) 260 1 z 0
/-- ln 2. -/
def ln2Fx : Nat := lnFx 2 1
/-- atan(1/q) in fixed point: terms alternate. -/
def atanInv (q2 : Nat) : Nat → Nat → Nat → Bool → Int → Int
  | 0, _, _, _, acc => acc
  | n + 1, k, term, neg, acc => atanInv q2 n (k + 2) (term / q2) (!neg) (acc + sgnI neg (term / k))
/-- π, by Machin's formula. -/
def piFx : Nat :=
  (16 * atanInv 25 180 1 (2 ^ fxP / 5) false 0 - 4 * atanInv (239 * 239) 60 1 (2 ^ fxP / 239) false 0).toNat
/-- Alternating series x^k/k! from term k by steps of two: cos from k = 0, sin from k = 1. -/
def trigSeries (x2 : Nat) : Nat → Nat → Nat → Bool → Int → Int
  | 0, _, _, _, acc => acc
  | n + 1, k, term, neg, acc =>
    trigSeries x2 n (k + 2) (term * x2 / 2 ^ fxP / ((k + 1) * (k + 2))) (!neg) (acc + sgnI neg term)
/-- sin (k = 1) or cos (k = 0) of a first-quadrant angle. -/
def trigFx (k x : Nat) : Int := trigSeries (x * x / 2 ^ fxP) 110 k (if k = 1 then x else 2 ^ fxP) false 0
/-- m·2^e in fixed point. -/
def toFx (m : Nat) (e : Int) : Nat := if 0 ≤ e + fxP then m * 2 ^ (e + fxP).toNat else m / 2 ^ (-(e + fxP)).toNat
/-- A fixed-point value that is not exact, rounded. -/
def finishFx (f : Fmt) (v : Int) (e : Int := 0) : FRes :=
  if v = 0 then FRes.of 0 else roundTo f .rne false 0 (decide (v < 0)) v.natAbs (e - fxP) true

/-- 2^x of a finite non-zero value. -/
def exp2V (f : Fmt) (neg : Bool) (m : Nat) (e : Int) : FRes :=
  let big := decide (10 ≤ (Nat.log2 m : Int) + e)
  if big then
    if neg then roundTo f .rne false 0 false 1 (-2000) true else { FRes.of (infBits f) with ovf := true }
  else
    let x := sgnI neg (toFx m e)
    let n := x / (2 ^ fxP : Int)
    let fr := (x % (2 ^ fxP : Int)).toNat
    if fr = 0 then roundTo f .rne false 0 false 1 n else finishFx f (expFx (fr * ln2Fx / 2 ^ fxP)) n
/-- log2 of a positive finite value. -/
def log2V (f : Fmt) (m : Nat) (e : Int) : FRes :=
  let l := Nat.log2 m
  let k := (l : Int) + e
  if m = 2 ^ l then (if k = 0 then FRes.of 0 else roundTo f .rne false 0 (decide (k < 0)) k.natAbs 0)
  else finishFx f (k * 2 ^ fxP + (lnFx m (2 ^ l) * 2 ^ fxP / ln2Fx : Nat))
/-- 1/√x of a positive finite value. -/
def rsqV (f : Fmt) (m : Nat) (e : Int) : FRes :=
  let me := evenExp m e
  let y := 2 ^ (2 * guardBitsN) / me.1
  let q := isqrt y 200 0
  roundTo f .rne false 0 false q (-(me.2 / 2) - guardBitsN) (q * q * me.1 != 2 ^ (2 * guardBitsN))
/-- sin (k = 1) or cos (k = 0) of a finite non-zero value: the quadrant of |x| and the angle in it. -/
def trigV (f : Fmt) (k : Nat) (neg : Bool) (m : Nat) (e : Int) : FRes :=
  let h := piFx / 2
  let x := toFx m e
  let q := x / h
  let y := x % h
  let v := match (q + (1 - k)) % 4 with
    | 0 => trigFx 1 y
    | 1 => trigFx 0 y
    | 2 => -(trigFx 1 y)
    | _ => -(trigFx 0 y)
  finishFx f (if k = 1 && neg then -v else v)
/-- tanh of a finite non-zero value: (1 − u)/(1 + u) with u = exp(−2|x|). -/
def tanhV (f : Fmt) (neg : Bool) (m : Nat) (e : Int) : FRes :=
  if 6 ≤ (Nat.log2 m : Int) + e then roundTo f .rne false 0 neg (2 ^ 64 - 1) (-64) true
  else
    let y := 2 * toFx m e
    let n := y / ln2Fx + 1
    let u := expFx (n * ln2Fx - y) / 2 ^ n
    finishFx f (sgnI neg ((2 ^ fxP - u) * 2 ^ fxP / (2 ^ fxP + u)))

/-- The special functions, in the order of R164. -/
inductive Fun1 | exp2 | log2 | rcp | rsq | sin | cos | tanh
  deriving DecidableEq, Repr
/-- A special function of one element (R164, R165). DEDUCED, log entry 30. -/
def fun1 (g : Fun1) (f : Fmt) (x : Nat) : FRes :=
  let bad : FRes := { FRes.of (nanBits f) with inv := true }
  match decodeF f x with
  | .nan s _ => { FRes.of (nanBits f) with inv := s }
  | .inf neg =>
    match g with
    | .exp2 => FRes.of (if neg then 0 else infBits f)
    | .log2 | .rsq => if neg then bad else FRes.of (if g == .rsq then 0 else infBits f)
    | .rcp => FRes.of (signed f neg 0)
    | .sin | .cos => FRes.of (nanBits f)
    | .tanh => finish f .rne false 0 (.num neg 1 0) false
  | .num neg m e =>
    if m = 0 then
      match g with
      | .exp2 | .cos => finish f .rne false 0 (.num false 1 0) false
      | .log2 => { FRes.of (signed f true (infBits f)) with dz := true }
      | .rcp | .rsq => { FRes.of (signed f neg (infBits f)) with dz := true }
      | .sin | .tanh => FRes.of (signed f neg 0)
    else
      match g with
      | .exp2 => exp2V f neg m e
      | .log2 => if neg then bad else log2V f m e
      | .rcp => roundTo f .rne false 0 neg (2 ^ guardBitsN / m) (-e - guardBitsN) (2 ^ guardBitsN % m != 0)
      | .rsq => if neg then bad else rsqV f m e
      | .sin => trigV f 1 neg m e
      | .cos => trigV f 0 neg m e
      | .tanh => tanhV f neg m e

end Sys2Proof.Machine
end

