-- ==== Sys2Proof/Machine/Vec.lean ====
section
/-! DEFINITION. What every vector operation shares: elements, stains, poison, exception classes, seeds (R100, R102, R106,
R150-R156). -/

namespace Sys2Proof.Machine

/-- Element i of a packed string of e-bit elements (R89). -/
def elemAt (v e i : Nat) : Nat := bits v (e * i) e
/-- Elements packed, element 0 lowest (R89). -/
def pack (e : Nat) : List Nat → Nat
  | [] => 0
  | x :: t => x % 2 ^ e + 2 ^ e * pack e t
/-- Elements of an operation on elements of e bits at a width (R151). -/
def elemCount (w : Width) (e : Nat) : Nat := wBits w / max e 8

/-- The stain that an operation's sources give (R154). -/
def State.stainOr (s : State) (u : Use) : Bool := (List.range u.reads.length).any (s.srcStain u)
/-- The poison that an operation's sources give (R155). -/
def State.poisonOr (s : State) (u : Use) : Bool := (List.range u.reads.length).any (s.srcPoison u)
/-- A vector result to destination n of a slot: bits [w-1:0], stain and poison (R152); `e` is the element width of an early read. DESIGN CHOICE,
log entry 90. -/
def State.vOut (s : State) (u : Use) (n : Nat) (w e L v : Nat) (stain poison : Bool) : State :=
  match u.writes[n]? with
  | some d => s.issueRes u.sl u.pos L { Pend.of d (BitVec.ofNat 1024 (v % 2 ^ w)) with
      mask := wMask w, ew := e, stainW := true, stain := stain, poisonW := true, poison := poison }
  | none => s
/-- The seed of a slot as it reads it: its last operand. -/
def State.seedRead (s : State) (u : Use) : Nat := (s.srcV u (u.reads.length - 1)).toNat
/-- The step of the seed that an SR operation makes when it commits (R102, R162). -/
def State.stepSeed (s : State) (u : Use) (rm : Rm) (seed : Nat) : State :=
  if rm == .sr then
    match u.writes.getLast? with
    | some d => s.issueRes u.sl u.pos 1 { Pend.of d (seedStep (BitVec.ofNat 1024 seed)) with ew := 32 }
    | none => s
  else s

/-- The classes that the elements of a slot met: a trap of the first enabled one, or the slot goes on (R100, R106); `k` gets
quarantine_hit. `special`: some result element is a NaN or an infinity; `comp`: a computing operation whose results are no integers
(R84). -/
def fpGo (u : Use) (s : State) (rs : List FRes) (comp special : Bool) (k : Bool → Out) : Out :=
  let x := s.me
  if x.quar then k (comp && (special || rs.any fun r => r.inv || r.dz || r.ovf))
  else
    match (if x.fei then rs.findIdx? (·.inv) else none) with
    | some i => s.trapSlot u 3 i
    | none =>
      match (if x.fez then rs.findIdx? (·.dz) else none) with
      | some i => s.trapSlot u 4 i
      | none =>
        match (if x.feo then rs.findIdx? (·.ovf) else none) with
        | some i => s.trapSlot u 5 i
        | none => k false

/-- An elementwise operation: element i from random value and elements i of up to three sources of e bits, into elements of
d bits of format f. -/
def vecEl (i : Instr) (s : State) (w : Width) (e d L : Nat) (rm : Rm) (comp : Bool) (f : Fmt)
    (g : (r x y z : Nat) → FRes) : Out :=
  slotGo i s fun u s =>
    let n := elemCount w (max e d)
    let seed := s.seedRead u
    let x := (s.srcV u 0).toNat
    let y := (s.srcV u 1).toNat
    let z := (s.srcV u 2).toNat
    let rs := (List.range n).map fun k => g (randOf seed k) (elemAt x e k) (elemAt y e k) (elemAt z e k)
    fpGo u s rs comp (rs.any fun r => isSpecial f r.v) fun hit =>
      .next ((s.vOut u 0 (wBits w) d L (pack d (rs.map (·.v))) (s.stainOr u || hit) (s.poisonOr u)).stepSeed u rm seed)
/-- An elementwise operation of one type that no class concerns. -/
def vecBits (i : Instr) (s : State) (w : Width) (ty : Fmt) (L : Nat) (g : (x y z : Nat) → Nat) : Out :=
  vecEl i s w (fmtBits ty) (fmtBits ty) L .rne false ty fun _ x y z => FRes.of (g x y z)
/-- An operation on whole vectors of elements: all results from all source elements. -/
def vecAll (i : Instr) (s : State) (w : Width) (ty : Fmt) (L : Nat) (g : (x y d : Nat → Nat) → Nat → List Nat) : Out :=
  slotGo i s fun u s =>
    let e := fmtBits ty
    let src (k : Nat) : Nat → Nat := let v := (s.srcV u k).toNat; fun i => elemAt v e i
    .next (s.vOut u 0 (wBits w) e L (pack e (g (src 0) (src 1) (src 2) (elemCount w e))) (s.stainOr u) (s.poisonOr u))

/-- An F or I operation of the arithmetic rows: rounded, or wrapped, or saturated (R157). -/
def vecArith (i : Instr) (s : State) (o : V3) (sat : Bool) (lI lF : Nat) (fi : Int → Int → Int)
    (ff : Fmt → Rm → (r x y : Nat) → FRes) : Out :=
  let e := fmtBits o.ty
  let sg := isSigned o.ty
  vecEl i s o.w e e (if isFloat o.ty then lF else lI) o.rm true o.ty fun r x y _ =>
    if isFloat o.ty then ff o.ty o.rm r x y
    else
      let v := fi (intOf sg e x) (intOf sg e y)
      FRes.of (wrapI e (if sat then clampI sg e v else v))

/-- A reduction operation on two elements (R174). -/
def redEl (op : RedOp) (f : Fmt) (rm : Rm) (x y : Nat) : FRes :=
  let e := fmtBits f
  let a := intOf (isSigned f) e x
  let b := intOf (isSigned f) e y
  match op with
  | .add => if isFloat f then fAdd f rm 0 x y else FRes.of (wrapI e (a + b))
  | .min => if isFloat f then fMinMax f false x y else FRes.of (wrapI e (min a b))
  | .max => if isFloat f then fMinMax f true x y else FRes.of (wrapI e (max a b))
  | .and => FRes.of (x &&& y)
  | .or => FRes.of (x ||| y)
  | .xor => FRes.of (x ^^^ y)
/-- The classes of two results joined, with the bits of the second. -/
def FRes.after (p q : FRes) : FRes := { v := q.v, inv := p.inv || q.inv, dz := p.dz || q.dz, ovf := p.ovf || q.ovf }
/-- The pairs of a list combined: element i from 2i and 2i + 1. -/
def pairsOf (f : FRes → FRes → FRes) : List FRes → List FRes
  | a :: b :: t => f a b :: pairsOf f t
  | l => l
/-- One operation on two results with the classes met on the way. DEDUCED, log entry 30. -/
def redStep (op : RedOp) (f : Fmt) (rm : Rm) (a b : FRes) : FRes := (a.after b).after (redEl op f rm a.v b.v)
/-- The pairwise tree of R110: the results of every step. DEDUCED, log entry 30. -/
def redTree (op : RedOp) (f : Fmt) (rm : Rm) : Nat → List Nat → List (List FRes)
  | 0, _ => []
  | n + 1, l =>
    let r := pairsOf (fun a b => redEl op f rm a.v b.v) (l.map FRes.of)
    r :: redTree op f rm n (r.map (·.v))
/-- The steps of a scan (R112). -/
def scanSteps (op : RedOp) (f : Fmt) (rm : Rm) : Nat → Nat → List FRes → List FRes
  | 0, _, l => l
  | n + 1, d, l =>
    let a := l.toArray
    scanSteps op f rm n (2 * d) (l.zipIdx.map fun p =>
      if p.2 < d then p.1 else
        let z := redEl op f rm (a.getD (p.2 - d) (FRes.of 0)).v p.1.v
        { z with inv := z.inv || p.1.inv, dz := z.dz || p.1.dz, ovf := z.ovf || p.1.ovf })
/-- Results of one element index over several steps joined. -/
def joinSteps (l : List (List FRes)) (n : Nat) : List FRes :=
  (List.range n).map fun i => l.foldl (fun a r => a.after (r.getD i (FRes.of 0))) (FRes.of 0)

/-! ### Quantisation (R171-R173) -/

/-- The largest exponent of an element format (R171). -/
def emaxOf : Fmt → Int
  | .qe5m2 => 15 | .qe4m3 => 8 | .qe3m2 => 4 | .qe2m3 | .qe2m1 => 2
  | _ => 0
/-- floor_log2 of a non-zero finite value. -/
def log2Of : FV → Option Int
  | .num _ m e => if m = 0 then none else some ((Nat.log2 m : Int) + e)
  | _ => none
/-- The scale of a block (R171). -/
def blockScale (d : Fmt) (xs : List FV) : Nat :=
  match (xs.filterMap log2Of).max? with
  | none => 127
  | some l => (min (max (l - emaxOf d + 127) 0) 254).toNat
/-- An element of a block-scaled format from a value already divided by its scale. -/
def quantEl (d : Fmt) (rm : Rm) (r : Nat) (v : FV) : Nat :=
  match v with
  | .num neg m e =>
    if d == .qs8 then wrapI 8 (clampI true 8 (if m = 0 then 0 else roundI rm r neg m (e + 6)))
    else (finish (elemFmt d) rm true r (.num neg m e) false).v
  | _ => 0
/-- One block quantised: the scale byte and the element results; `rs` are the random values. -/
def quantBlock (d : Fmt) (rm : Rm) (rs : List Nat) (xs : List FV) : Nat × List FRes :=
  if xs.any fun v => match v with | .num _ _ _ => false | _ => true then
    (255, xs.map fun v => match v with
      | .nan s _ => { FRes.of 0 with inv := s }
      | .inf _ => { FRes.of 0 with ovf := true }
      | _ => FRes.of 0)
  else
    let sc := blockScale d xs
    (sc, (xs.zip rs).map fun p => FRes.of (quantEl d rm p.2 (match p.1 with
      | .num n m e => .num n m (e + 127 - sc)
      | v => v)))
/-- The rank of an element for sparse packing (R173): NaN above every other value, then magnitude. -/
def packRank (f : Fmt) (x : Nat) : Nat :=
  if isFloat f then (if isNanF f x then 2 ^ 64 else magOf f x) else (intOf true (fmtBits f) x).natAbs
/-- The positions that a group keeps: the N of largest rank, ties to the lower position. -/
def keptOf (n : Nat) (ranks : List Nat) : List Bool :=
  ranks.zipIdx.map fun p =>
    decide (((ranks.zipIdx.filter fun q => decide (p.1 < q.1 ∨ (q.1 = p.1 ∧ q.2 < p.2))).length) < n)
/-- N of an N-of-48 code. -/
def nOf : NCode → Nat
  | .n12 => 12 | .n16 => 16 | .n24 => 24

end Sys2Proof.Machine
end

