-- ==== Sys2Proof/Machine/Press.lean ====
section
/-! DEFINITION. The Press: Mangle slots, accumulators, its queues, exceptions and captures (R181-R213, R426, R427). -/

namespace Sys2Proof.Machine

/-! ### Formats, banks and times (R107, R182, R183, R186, R188) -/

/-- The accumulator format of an operand format (R107). -/
def accTag : Fmt → AcTag
  | .f64 => .f64
  | .s8 => .s32
  | _ => .f32
/-- The K-block of an operand format (R107). -/
def kBlock : Fmt → Nat
  | .f64 => 8
  | .f32 => 16
  | _ => 32
/-- The element format of an accumulator type; a ZERO bank reads as +0. -/
def tagFmt : AcTag → Fmt
  | .f64 => .f64
  | .s32 => .s32
  | _ => .f32
/-- The banks of accumulator d in a type (R182). -/
def banksOf (t : AcTag) (d : Nat) : List Nat := if t == .f64 then [2 * d, 2 * d + 1] else [d]
/-- The banks of the pair of bank d when it is tagged F64, else bank d (R201, R205). -/
def pairOf (t : AcTag) (d : Nat) : List Nat := if t == .f64 then [d / 2 * 2, d / 2 * 2 + 1] else [d]
/-- R183: every bank has tag ZERO or the matching tag. -/
def Press.tagOk (p : Press) (t : AcTag) (d : Nat) : Bool :=
  (banksOf t d).all fun b => let z := (p.bank b).tag; z == .zero || z == t
/-- Whether a format is one that MMA accepts (R79). -/
def mmaFmt : Fmt → Bool
  | .s8 | .f64 | .f32 | .bf16 | .f16 | .e5m2 | .e4m3 | .e3m2 | .e2m3 | .e2m1 | .qe5m2 | .qe4m3 | .qe3m2 | .qe2m3 | .qe2m1
  | .qs8 => true
  | _ => false
/-- Cycles for k dense positions of a format (R36, R188). -/
def macCycles (f : Fmt) (k : Nat) : Nat :=
  match f with
  | .f64 => 4 * k
  | .f32 => k
  | .bf16 | .f16 => ceilDiv k 8
  | .e2m1 | .qe2m1 => ceilDiv k 32
  | _ => ceilDiv k 16
/-- The divisor that sparsity gives to the rate: min(48/N, 3). -/
def spRate : NCode → Nat
  | .n24 => 2
  | _ => 3
/-- The operands of a matrix command: accumulator, slots, format, N code, cell operations. -/
structure MatOp where
  d : Nat
  a : Nat
  w : Nat
  fmt : Fmt
  n : Option NCode
  cseq : Nat
  deriving DecidableEq, Repr
/-- The matrix command of an operation, if it is one. -/
def matOf : Instr → Option MatOp
  | .mma o => some { d := o.d.toNat, a := o.s1.toNat, w := o.s2.toNat, fmt := o.fmt, n := none, cseq := 0 }
  | .mmasp o => some { d := o.d.toNat, a := o.s1.toNat, w := o.s2.toNat, fmt := o.fmt, n := some o.n, cseq := 0 }
  | .mmac o => some { d := o.d.toNat, a := o.s1.toNat, w := o.s2.toNat, fmt := o.fmt, n := none, cseq := o.cseq.toNat }
  | _ => none
/-- Cycles of k dense positions of a matrix command. -/
def MatOp.cycles (o : MatOp) (k : Nat) : Nat :=
  match o.n with
  | some n => macCycles o.fmt (ceilDiv k (spRate n))
  | none => macCycles o.fmt k
/-- The Basin tile of a Press command and the role it takes it in (R217). DESIGN CHOICE, log entry 83. -/
def pressTiles : Instr → List (BitVec 8 × Role)
  | .mgfill o => [(o.tile, .source)]
  | .mgspfill o => if o.tile = o.mask then [(o.tile, .source)] else [(o.tile, .source), (o.mask, .source)]
  | .acload o | .acscale o => [(o.tile, .source)]
  | .acdrain o => [(o.tile, .dest)]
  | _ => []
/-- A Basin tile number as a tile. -/
def btile (t : BitVec 8) : TileId := { lvl := .basin, idx := t.toNat }
/-- Packed bytes of a row of a sparse fill: groups, data bytes (R195). -/
def spGroups (e : Tile) (n : NCode) : Nat := e.pitch / (nOf n * fmtBits e.fmt / 8)

/-- T of a command (R188), in the state in which it starts. DEDUCED, log entry 28. -/
def State.pressTime (s : State) (r : Nat) (c : PressCmd) : Nat :=
  let p := (s.rn r).press
  let tl (t : BitVec 8) := s.tile r (btile t)
  match matOf c.i with
  | some o => 6 + o.cycles ((p.slot o.a).k - c.from0 * kBlock o.fmt)
  | none =>
    match c.i with
    | .mgfill o => (match tl o.tile with | some e => 4 + ceilDiv (e.rows * e.pitch) 512 | none => 4)
    | .mgspfill o => (match tl o.tile with
        | some e => 4 + ceilDiv (e.rows * (e.pitch + 6 * spGroups e o.n)) 512
        | none => 4)
    | .acz _ => 2
    | .acload o | .acdrain o => (match tl o.tile with | some e => 4 + ceilDiv (e.rows * rowBytes e.fmt 32) 512 | none => 4)
    | .acscale _ => 6
    | _ => 1

/-! ### Elements of slots and banks (R93, R94, R182, R186) -/

/-- Positions of a group's mask with the number of kept bits below each; only the N lowest set bits are kept (R94). -/
def maskIndex (mask n : Nat) : Nat → Nat → List (Option Nat)
  | 0, _ => []
  | c + 1, k =>
    let j := 48 - (c + 1)
    if mask.testBit j && decide (k < n) then some k :: maskIndex mask n c (k + 1) else none :: maskIndex mask n c k
/-- Element k of a slot row as a value. -/
def slotValue (m : MgSlot) (row k : Nat) : FV :=
  let e := fmtBits m.fmt
  match m.spn with
  | none =>
    let x := elemAt row e k
    if m.fmt.isQ then blockValue m.fmt x (bits row (8 * (m.k * e / 8 + k / 32)) 8) else valueOf m.fmt x
  | some n =>
    let g := k / 48
    let base := m.k / 48 * (nOf n * e / 8)
    match (maskIndex (bits row (8 * base + 48 * g) 48) (nOf n) 48 0).getD (k % 48) none with
    | some q => valueOf m.fmt (elemAt row e (nOf n * g + q))
    | none => .num false 0 0
/-- The values of K-block b of a slot row. -/
def slotBlock (m : MgSlot) (row blk b : Nat) : List FV :=
  (List.range (min blk (m.k - b * blk))).map fun j => slotValue m row (b * blk + j)
/-- Row r of a slot as a number. -/
def MgSlot.row (m : MgSlot) (r : Nat) : Nat := (m.d.getD r 0).toNat
/-- Element (i, j) of accumulator d in a type. -/
def Press.acc (p : Press) (t : AcTag) (d i j : Nat) : Nat :=
  match banksOf t d with
  | [l, h] => ((p.bank l).d.getD (32 * i + j) 0).toNat + ((p.bank h).d.getD (32 * i + j) 0).toNat * 2 ^ 32
  | _ => ((p.bank d).d.getD (32 * i + j) 0).toNat
/-- Accumulator d with new elements, in order, and its rows' stains joined with some. -/
def Press.setAcc (p : Press) (t : AcTag) (d : Nat) (vals : List Nat) (stain : BitVec 32) : Press :=
  (banksOf t d).zipIdx.foldl (fun p bk => p.modBank bk.1 fun b =>
    { b with d := vals.map fun v => BitVec.ofNat 32 (v / 2 ^ (32 * bk.2)), stain := stain }) p
/-- The stains of accumulator d. DESIGN CHOICE, log entry 82. -/
def Press.accStain (p : Press) (t : AcTag) (d : Nat) : BitVec 32 := (p.bank ((banksOf t d).headD 0)).stain
/-- Set bits of a list of rows. -/
def rowMask (l : List Nat) : BitVec 32 := l.foldl (fun m i => m ||| (1#32 <<< i)) 0

/-! ### Cell operations (R108, R198) -/

/-- Whether x < y among exact values that are not NaN, −0 below +0. -/
def FV.lt : FV → FV → Bool
  | .inf true, .inf true => false
  | .inf true, _ => true
  | _, .inf true => false
  | .inf false, _ => false
  | _, .inf false => true
  | .num a m e, .num b n k =>
    let q := min e k
    let x := sgnI a (m * 2 ^ (e - q).toNat)
    let y := sgnI b (n * 2 ^ (k - q).toNat)
    decide (x < y) || (x == y && m == 0 && n == 0 && a && !b)
  | _, _ => false
/-- A NaN value. -/
def FV.isNan : FV → Bool
  | .nan _ _ => true
  | _ => false
/-- The sign cleared. -/
def FV.abs : FV → FV
  | .inf _ => .inf false
  | .num _ m e => .num false m e
  | v => v
/-- An exact sum of terms, and whether opposite infinities meet (R108). -/
def sumV (l : List FV) : FV × Bool :=
  let both := l.contains (.inf true) && l.contains (.inf false)
  (match l with
    | [] => .num false 0 0
    | v :: t => t.foldl (fun a b => (FV.add .rne a b).1) v, both)
/-- The larger or smaller of two values; NaN when either is. -/
def pickV (mx : Bool) (a b : FV) : FV :=
  if a.isNan || b.isNan then qnan else if (a.lt b) != mx then a else b
/-- blk of a cell operation on one row and column, and whether the block meets FP_INVALID (R198). -/
def blockOf (code : Nat) (a w : List FV) : FV × Bool :=
  let sn := a.any FV.snan || w.any FV.snan
  let z := a.zip w
  match code with
  | 0 =>
    let ps := z.map fun p => p.1.mul p.2
    let t := sumV (ps.map (·.1))
    (t.1, sn || t.2 || ps.any (·.2))
  | 1 =>
    let ds := z.map fun p => FV.add .rne p.1 p.2.neg
    ((sumV (ds.map fun d => d.1.abs)).1, sn || ds.any (·.2))
  | c =>
    let ds := z.map fun p => FV.add .rne p.1 p.2
    ((match ds.map (·.1) with
      | [] => qnan
      | v :: t => t.foldl (pickV (c == 2)) v), sn || ds.any (·.2))
/-- The accumulator element after a block (R108, R198). -/
def cellOp (code : Nat) (t : AcTag) (acc : Nat) (blk : FV × Bool) : FRes :=
  let f := tagFmt t
  let a := valueOf f acc
  let r := if code ≤ 1 then FV.add .rne a blk.1 else (pickV (code == 2) a blk.1, false)
  if isFloat f then finish f .rne false 0 r.1 (r.2 || blk.2 || a.snan)
  else match r.1 with
    | .num n m e => FRes.of (wrapI 32 (sgnI n (m * 2 ^ e.toNat)))
    | _ => FRes.of 0

/-! ### Uncorrectable errors (R209, R221) -/

/-- Those of some rows of a tile that hold failed words. -/
def State.badRows (s : State) (r : Nat) (t : TileId) (e : Tile) (l : List Nat) : List Nat :=
  l.filter fun i => !(s.spFails r t.lvl (e.base + i * e.pitch) e.pitch).isEmpty
/-- Some rows of a tile read by a command: an error in a row-mapped tile stains the rows that it touches, in any other tile the leg is rewound
(R221). Answers whether the command may go on. -/
def State.readRowsOf (s : State) (r : Nat) (t : TileId) (e : Tile) (rows : List Nat) : State × Bool :=
  let s := rows.foldl (fun s i => s.spCorrects r t.lvl (e.base + i * e.pitch) e.pitch) s
  match s.badRows r t e rows with
  | [] => (s, true)
  | l =>
    let bad := (l.flatMap fun i => s.spFails r t.lvl (e.base + i * e.pitch) e.pitch).eraseDups
    let s := (s.logWords r bad).stainUnits r t.lvl bad
    if e.rmap then (s, true) else (s.rewind r 2 [], false)
/-- As `readRowsOf`, of the first n rows. -/
def State.readRows (s : State) (r : Nat) (t : TileId) (e : Tile) (n : Nat) : State × Bool := s.readRowsOf r t e (List.range n)
/-- The bytes of a slot row that hold `n` bits from bit `b` on: offset and length. -/
def bitBytes (b n : Nat) : Nat × Nat := (b / 8, (b + n + 7) / 8 - b / 8)
/-- The bytes of a slot row that K-block b of `blk` positions reads: its elements, with the scale of a block-scaled one, or the groups it
meets with their masks (R186, R195, R197). -/
def MgSlot.blockBytes (m : MgSlot) (blk b : Nat) : List (Nat × Nat) :=
  let e := fmtBits m.fmt
  let lo := b * blk
  let n := min blk (m.k - lo)
  match m.spn with
  | none => bitBytes (lo * e) (n * e) :: if m.fmt.isQ then [(m.k * e / 8 + lo / 32, 1)] else []
  | some c =>
    let g := nOf c * e / 8
    let gs := (List.range (ceilDiv (lo + n) 48)).drop (lo / 48)
    gs.flatMap fun k => [(k * g, g), (m.k / 48 * g + 6 * k, 6)]
/-- The failed words that K-block b of a matrix command reads in row i of slot k. -/
def State.slotFails (s : State) (r k i : Nat) (l : List (Nat × Nat)) : List FailW :=
  (l.flatMap fun p => s.failsIn 1 r (k * 32768 + i * 1024 + p.1) p.2).eraseDups
/-- The failed words among the first `cols` elements of row i of an accumulator. -/
def State.accFails (s : State) (r : Nat) (bs : List Nat) (i cols : Nat) : List FailW :=
  bs.flatMap fun b => s.failsIn 2 r (b * 4096 + i * 128) (4 * cols)
/-- A Press command of a runner drops its capture: it cannot be audited (R426). DEDUCED, log entry 29. -/
def State.dropCapture (s : State) (r : Nat) : State := { s with fw := { s.fw with capture := adel s.fw.capture r } }
/-- The head of a Press queue has met an uncorrectable error and the leg has been rewound: unless the rewind abandoned it, it starts
again no earlier than the leg (R209, R221). DEDUCED, log entry 28. -/
def State.pressFail (s : State) (r : Nat) (q : PressQ) : State :=
  s.modR r fun x =>
    let at_ := match x.rewind with | some w => w.at_ | none => s.cycle
    let again (l : List PressCmd) : List PressCmd := match l with | [] => [] | c :: t => { c with start := none } :: t
    { x with press := match q with
      | .fill => { x.press with fq := again x.press.fq, fqFree := max x.press.fqFree at_ }
      | .compute => { x.press with cq := again x.press.cq, cqFree := max x.press.cqFree at_ } }
/-- The bytes of a slot that K-block b of a matrix command reads: an error stains the row of a row-mapped slot, and rewinds the leg in any
other (R209). -/
def State.readSlot (s : State) (r k blk b : Nat) : State × Bool :=
  let m := ((s.rn r).press).slot k
  let z := m.blockBytes blk b
  let s := (List.range m.rows).foldl (fun s i => z.foldl (fun s p => s.corrects r 1 r (k * 32768 + i * 1024 + p.1) p.2) s) s
  match (List.range m.rows).filter fun i => !(s.slotFails r k i z).isEmpty with
  | [] => (s, true)
  | l =>
    let s := l.foldl (fun s i => s.logWords r (s.slotFails r k i z)) s
    if m.rmap then
      ((s.modR r fun x => { x with press := x.press.modSlot k fun m => { m with stain := m.stain ||| rowMask l } }).dropCapture r, true)
    else (s.rewind r 2 [], false)
/-- The first `cols` elements of the first n rows of an accumulator read by a command (R209). -/
def State.readAcc (s : State) (r : Nat) (t : AcTag) (d n cols : Nat) : State × Bool :=
  let bs := banksOf t d
  let s := bs.foldl (fun s b => (List.range n).foldl (fun s i => s.corrects r 2 r (b * 4096 + i * 128) (4 * cols)) s) s
  let own := (s.rn r).leg.cellcfg.getLsbD (bs.headD 0)
  match (List.range n).filter fun i => !(s.accFails r bs i cols).isEmpty with
  | [] => (s, true)
  | l =>
    let s := l.foldl (fun s i => s.logWords r (s.accFails r bs i cols)) s
    if own then
      ((s.modR r fun x => { x with press := bs.foldl (fun p b => p.modBank b fun z =>
        { z with stain := z.stain ||| rowMask l }) x.press }).dropCapture r, true)
    else (s.rewind r 2 [], false)
/-! ### Issue (R183-R187, R191-R205) -/

/-- An M-slot operation: its ILLEGAL_OPERAND checks, a pending Press exception, its issue condition, its effect. `ends`: it
ends the leg. DESIGN CHOICE, log entry 84. -/
def mSlot (i : Instr) (s : State) (bad : State → Option Nat) (rdy : State → Bool) (ends : Bool) (k : Use → State → State) : Out :=
  slotGo i s fun u s =>
    match bad s with
    | some d => s.trapWhole u 0x02 d
    | none => pressFirst u s fun s =>
      if !rdy s || (ends && !s.me.saq.isEmpty) then s.waits
      else
        let s := k u s
        .next (if ends then { s with cur := { s.cur with endLeg := true } } else s)
/-- The Press of the runner of the bundle changed. -/
def State.modPress (s : State) (f : Press → Press) : State := s.modMe fun x => { x with press := f x.press }
/-- A command of the current bundle. -/
def State.pressCmd (s : State) (i : Instr) (src : AcTag) : PressCmd :=
  let x := s.me
  { id := s.seq, i := i, src := src, pc := s.cur.pc, leg := x.legNo, quar := x.quar, fei := x.fei, fez := x.fez, feo := x.feo,
    start := none, from0 := 0, spoilt := false }
/-- Tiles of a command taken in their roles. -/
def State.takePress (s : State) (i : Instr) : State :=
  (pressTiles i).foldl (fun s tr => s.takeTile s.cur.run s.seq (btile tr.1) tr.2) s
/-- Whether every tile of a command meets its role's condition, as the issue checks of this cycle see it. -/
def State.tilesReady (s : State) (i : Instr) : Bool :=
  (pressTiles i).all fun tr => s.roleFree s.cur.run (btile tr.1) tr.2
/-- A command enters the fill queue. -/
def State.pushFill (s : State) (i : Instr) : State :=
  let c := s.pressCmd i .zero
  let s := s.takePress i
  { s.modPress (fun p => { p with fq := p.fq ++ [c] }) with seq := s.seq + 1 }
/-- A command enters the compute queue; banks take a tag at issue, and the tag that a rewind restores is kept (R181, R183,
R210). -/
def State.pushCompute (s : State) (i : Instr) (src : AcTag) (banks : List Nat) (tag : Option AcTag) : State :=
  let c := s.pressCmd i src
  let s := s.takePress i
  let s := { s.modPress (fun p => { p with cq := p.cq ++ [c] }) with seq := s.seq + 1 }
  match tag with
  | none => s
  | some t => s.modPress fun p => banks.foldl (fun p b =>
      { p.modBank b fun z => { z with tag := t } with shtags := p.shtags ++ [(c.id, b, (p.bank b).tag)] }) p
/-- A slot changed by an operation that ends the leg; what it was is kept until the boundary is made (R210). -/
def State.setSlot (s : State) (d : Nat) (f : MgSlot → MgSlot) : State :=
  s.modPress fun p => { p.modSlot d f with mgUndo := p.mgUndo ++ [(s.seq, d, p.slot d)] }
/-- A free entry of the fill queue. -/
def fillRoom (s : State) : Bool := decide (s.me.press.fq.length < 4)
/-- A free entry of the compute queue. -/
def computeRoom (s : State) : Bool := decide (s.me.press.cq.length < 8)
/-- The state of slot d. -/
def State.mgSt (s : State) (d : RegIx) : MgState := (s.me.press.slot d.toNat).st
/-- A slot that may be filled or released now (R185). -/
def State.mgIdle (s : State) (d : RegIx) : Bool :=
  let m := s.me.press.slot d.toNat
  m.st == .empty || (m.st == .ready && m.rd == 0)

/-- MGCLAIM (R185, R193). -/
def execMgclaim (o : GD) (s : State) : Out :=
  mSlot (.mgclaim o) s (fun s => if s.mgSt o.d == .free then none else some 5) (fun _ => true) true fun _ s =>
    { s.setSlot o.d.toNat fun m => { m with st := .empty } with seq := s.seq + 1 }
/-- MGREL (R185, R193): data, stains and descriptor are zeroed. -/
def execMgrel (o : GD) (s : State) : Out :=
  mSlot (.mgrel o) s (fun s => if s.mgSt o.d == .free then some 5 else none) (fun s => s.mgIdle o.d) true fun _ s =>
    { s.setSlot o.d.toNat fun _ => MgSlot.reset with seq := s.seq + 1 }.wrote s.cur.run 1 s.cur.run (o.d.toNat * 32768) 32768
/-- Whether a tile may not fill a dense slot (R194). A reserved tile is waited for (R217, R224). -/
def fillBad (e : Tile) : Bool := !e.resv && (!mmaFmt e.fmt || decide (32 < e.rows ∨ 1024 < e.pitch ∨ kOf e.fmt e.pitch = 0))
/-- MGFILL (R194). -/
def execMgfill (o : MgFillO) (s : State) : Out :=
  mSlot (.mgfill o) s
    (fun s => if s.mgSt o.d == .free then some 5 else
      match s.tileSeen s.cur.run (btile o.tile) with
      | none => some 5
      | some e => if fillBad e then some 5 else none)
    (fun s => s.mgIdle o.d && s.tilesReady (.mgfill o) && fillRoom s) true fun _ s =>
      match s.tile s.cur.run (btile o.tile) with
      | none => s
      | some e => (s.setSlot o.d.toNat fun m =>
          { m with st := .filling, fmt := e.fmt, k := kOf e.fmt e.pitch, spn := none, rows := e.rows, rmap := e.rmap }).pushFill (.mgfill o)
/-- Whether two tiles may not fill a sparse slot (R195). -/
def spBad (e m : Tile) (n : NCode) : Bool :=
  let ok := match e.fmt with | .bf16 | .f16 | .e5m2 | .e4m3 | .s8 => true | _ => false
  let rb := nOf n * fmtBits e.fmt / 8
  let g := e.pitch / rb
  !e.resv && !m.resv && (!ok || e.rows != m.rows || decide (32 < e.rows ∨ e.pitch % rb ≠ 0 ∨ g = 0 ∨ m.pitch < 6 * g ∨ 1024 < g * (rb + 6)))
/-- MGSPFILL (R195). -/
def execMgspfill (o : MgSpO) (s : State) : Out :=
  mSlot (.mgspfill o) s
    (fun s => if s.mgSt o.d == .free then some 5 else
      match s.tileSeen s.cur.run (btile o.tile), s.tileSeen s.cur.run (btile o.mask) with
      | some e, some m => if spBad e m o.n then some 5 else none
      | _, _ => some 5)
    (fun s => s.mgIdle o.d && s.tilesReady (.mgspfill o) && fillRoom s) true fun _ s =>
      match s.tile s.cur.run (btile o.tile), s.tile s.cur.run (btile o.mask) with
      | some e, some m => (s.setSlot o.d.toNat fun z =>
          { z with st := .filling, fmt := e.fmt, k := 48 * spGroups e o.n, spn := some o.n, rows := e.rows,
                   rmap := e.rmap && m.rmap }).pushFill (.mgspfill o)
      | _, _ => s

/-- Whether a matrix command's operands are illegal (R185, R196). DESIGN CHOICE, log entry 84. -/
def matBad (p : Press) (o : MatOp) : Bool :=
  let a := p.slot o.a
  let w := p.slot o.w
  let dead (m : MgSlot) : Bool := m.st == .free || m.st == .empty
  dead a || dead w || a.fmt != o.fmt || w.fmt != o.fmt || a.spn.isSome || w.spn != o.n || a.k != w.k
    || !p.tagOk (accTag o.fmt) o.d
/-- The issue of a matrix command; a tag that does not fit and D above 3 with an f64 tile are reported as tile or slot state. DESIGN CHOICE,
log entry 92. -/
def matIssue (i : Instr) (s : State) (o : MatOp) : Out :=
  let t := accTag o.fmt
  mSlot i s (fun s => if matBad s.me.press o then some 5 else none)
    (fun s => (s.me.press.slot o.a).st == .ready && (s.me.press.slot o.w).st == .ready && computeRoom s) false fun _ s =>
      (s.pushCompute i t (banksOf t o.d) (some t)).modPress fun p =>
        (mgNames i).foldl (fun p k => p.modSlot k fun m => { m with rd := m.rd + 1 }) p
/-- MMA (R196). -/
def execMma (o : MmaO) (s : State) : Out :=
  matIssue (.mma o) s { d := o.d.toNat, a := o.s1.toNat, w := o.s2.toNat, fmt := o.fmt, n := none, cseq := 0 }
/-- MMASP (R196). -/
def execMmasp (o : MmaSpO) (s : State) : Out :=
  matIssue (.mmasp o) s { d := o.d.toNat, a := o.s1.toNat, w := o.s2.toNat, fmt := o.fmt, n := some o.n, cseq := 0 }
/-- MMAC (R196, R198). -/
def execMmac (o : MmacO) (s : State) : Out :=
  matIssue (.mmac o) s
    { d := o.d.toNat, a := o.s1.toNat, w := o.s2.toNat, fmt := o.fmt, n := none, cseq := o.cseq.toNat }

/-- ACZ (R201): the pair of an F64 bank together. DEDUCED, log entry 28. -/
def execAcz (o : GD) (s : State) : Out :=
  mSlot (.acz o) s (fun _ => none) computeRoom false fun _ s =>
    let t := (s.me.press.bank o.d.toNat).tag
    s.pushCompute (.acz o) t (pairOf t o.d.toNat) (some .zero)
/-- The accumulator type that a tile loads, if any (R202). -/
def loadTag : Fmt → Option AcTag
  | .f32 => some .f32
  | .s32 => some .s32
  | .f64 => some .f64
  | _ => none
/-- ACLOAD (R202). -/
def execAcload (o : AcTileO) (s : State) : Out :=
  let d := o.ac.toNat
  mSlot (.acload o) s
    (fun s => match s.tileSeen s.cur.run (btile o.tile) with
      | none => some 5
      | some e =>
        if e.resv then none else
        match loadTag e.fmt with
        | none => some 5
        | some t => if (t == .f64 && decide (3 < d)) || decide (32 < e.rows ∨ e.pitch < rowBytes e.fmt 32)
            || !s.me.press.tagOk t d then some 5 else none)
    (fun s => s.tilesReady (.acload o) && computeRoom s) false fun _ s =>
      match (s.tile s.cur.run (btile o.tile)).bind fun e => loadTag e.fmt with
      | some t => s.pushCompute (.acload o) t (banksOf t d) (some t)
      | none => s
/-- Whether a bank of a tag drains into a tile format (R203). -/
def drainFmt (t : AcTag) (f : Fmt) : Bool :=
  match t, f with
  | .s32, .s32 | .s32, .s16 | .s32, .s8 | .s32, .f32 | .s32, .bf16 | .s32, .f16 => true
  | .f32, f | .zero, f => (mmaFmt f && f != .f64) || f == .s32 || f == .s16
  | _, _ => false
/-- The type a drain reads accumulator d in, if the tile's format is accepted. -/
def Press.drainTag (p : Press) (f : Fmt) (d : Nat) : Option AcTag :=
  if f == .f64 then
    let ts := if d ≤ 3 then [(p.bank (2 * d)).tag, (p.bank (2 * d + 1)).tag] else []
    if ts == [.f64, .f64] || ts == [.zero, .zero] then some .f64 else none
  else
    let t := (p.bank d).tag
    if drainFmt t f then some t else none
/-- ACDRAIN (R203). -/
def execAcdrain (o : AcTileO) (s : State) : Out :=
  let d := o.ac.toNat
  mSlot (.acdrain o) s
    (fun s => match s.tileSeen s.cur.run (btile o.tile) with
      | none => some 5
      | some e => if e.resv then none else if (s.me.press.drainTag e.fmt d).isNone || decide (32 < e.rows ∨ e.pitch < rowBytes e.fmt 32) then some 5
          else none)
    (fun s => s.tilesReady (.acdrain o) && computeRoom s) false fun _ s =>
      match (s.tile s.cur.run (btile o.tile)).bind fun e => s.me.press.drainTag e.fmt d with
      | some t => s.pushCompute (.acdrain o) t [] none
      | none => s
/-- The type ACSCALE reads accumulator d in, if the tile's format is accepted (R204). -/
def Press.scaleTag (p : Press) (f : Fmt) (d : Nat) : Option AcTag :=
  let t := (p.bank d).tag
  if f == .f32 && t != .f64 then some t
  else if f == .f64 && decide (d ≤ 3) && (p.bank (2 * d)).tag == .f64 && (p.bank (2 * d + 1)).tag == .f64 then some .f64
  else none
/-- ACSCALE (R204). -/
def execAcscale (o : AcTileO) (s : State) : Out :=
  let d := o.ac.toNat
  mSlot (.acscale o) s
    (fun s => match s.tileSeen s.cur.run (btile o.tile) with
      | none => some 5
      | some e => if e.resv then none else if (s.me.press.scaleTag e.fmt d).isNone || decide (2 < e.rows ∨ e.pitch < rowBytes e.fmt 32) then some 5
          else none)
    (fun s => s.tilesReady (.acscale o) && computeRoom s) false fun _ s =>
      match (s.tile s.cur.run (btile o.tile)).bind fun e => s.me.press.scaleTag e.fmt d with
      | some t => s.pushCompute (.acscale o) t (banksOf t d) (some (if t == .f64 then .f64 else .f32))
      | none => s
/-- ACSTAIN (R205). -/
def execAcstain (o : AcRowO) (s : State) : Out :=
  mSlot (.acstain o) s (fun _ => none) computeRoom false fun _ s =>
    s.pushCompute (.acstain o) (s.me.press.bank o.d.toNat).tag [] none
/-- ACCLEAN (R205). -/
def execAcclean (o : AcRowO) (s : State) : Out :=
  mSlot (.acclean o) s (fun _ => none) computeRoom false fun _ s =>
    s.pushCompute (.acclean o) (s.me.press.bank o.d.toNat).tag [] none

/-! ### Synchronisation and status (R207, R208) -/

/-- The Press queue by name. -/
def Press.queue (p : Press) : PressQ → List PressCmd
  | .fill => p.fq
  | .compute => p.cq
/-- Whether every K-block of a command has committed. -/
def Press.allBlocks (p : Press) (c : PressCmd) : Bool :=
  match matOf c.i with
  | some o => decide ((p.slot o.a).k ≤ p.step * kBlock o.fmt)
  | none => true
/-- The CLS code of a held class. -/
def clsCode : Option FpCls → Nat
  | none => 0
  | some .invalid => 1
  | some .divzero => 2
  | some .overflow => 3
/-- The Press status word (R208). -/
def Press.word (p : Press) : Nat :=
  (if p.pend then 2 ^ 31 else 0) + (if p.held.isSome then 2 ^ 30 else 0) + clsCode p.held * 2 ^ 28
    + p.fq.length * 2 ^ 24 + p.cq.length * 2 ^ 20
    + ((p.mg.toList.zipIdx.map fun m => if m.1.st == .ready then 2 ^ m.2 else 0).sum)
/-- The status word of an engine written to ESNAP of ESC_P with L = 2, and to the engine's own ESNAP in c + 2; `clear` then clears the
engine's sticky fields (R208). -/
def estatGo (i : Instr) (s : State) (w : State → Nat) (also : Option Dst) (clear : Runner → Runner) : Out :=
  mSlot i s (fun _ => none) (fun _ => true) false fun u s =>
    let v := BitVec.ofNat 1024 (w s)
    let s := s.issueRes .c 3 2 { Pend.of .esnapP v with ew := 32 }
    match also with
    | some d => (s.issueRes u.sl 3 2 { Pend.of d v with ew := 32, cross := true } true).modMe clear
    | none => s
/-- ESTAT of the Press (R208). -/
def execEstatPress (o : GO) (s : State) : Out := estatGo (.estatPress o) s (fun s => s.me.press.word) none id

/-! ### Commands as they run (R187, R188, R197-R200, R210) -/

/-- The head of a Press queue changed. -/
def Press.modHead (p : Press) (q : PressQ) (f : PressCmd → PressCmd) : Press :=
  match q with
  | .fill => { p with fq := (match p.fq with | [] => [] | c :: t => f c :: t) }
  | .compute => { p with cq := (match p.cq with | [] => [] | c :: t => f c :: t) }
/-- A bank is about to be written by a command: the shadow of the current leg keeps it (R210). DEDUCED, log entry 28. -/
def Runner.shade (x : Runner) (c : PressCmd) (banks : List Nat) : Runner :=
  if c.leg = x.legNo then
    { x with press := banks.foldl (fun p b => if (aget p.shadow b).isSome then p
        else { p with shadow := p.shadow ++ [(b, p.bank b)] }) x.press }
  else x
/-- The capture of a matrix command's operands and initial banks as it first starts (R427); a command that goes on keeps the one it has, and one
that was held under R199 has none (R426). DEDUCED, log entry 29. -/
def State.capture (s : State) (r : Nat) (c : PressCmd) : State :=
  let p := (s.rn r).press
  match matOf c.i with
  | some o =>
    if c.spoilt || 0 < p.step then s else
    let e := ((mgNames c.i).map (fun k => (k, p.slot k)), (banksOf (accTag o.fmt) o.d).map fun b => (b, p.bank b))
    { s with fw := { s.fw with capture := aput s.fw.capture r e } }
  | none => s
/-- The head of a Press queue starts (R187): not while the compute queue is held, nor once pre-emption is asked for. -/
def execPressCommandStart (r : Nat) (q : PressQ) (s : State) : Out :=
  let x := s.rn r
  let free := match q with | .fill => x.press.fqFree | .compute => x.press.cqFree
  match x.press.queue q with
  | c :: _ =>
    if c.start.isSome || x.preempt || decide (s.cycle < free) || (q == .fill && !x.past c.id) || (q == .compute && x.press.held.isSome) then .next s
    else
      match q with
      | .compute =>
        .next ((s.modR r fun x => { x with press := x.press.modHead .compute fun c =>
          { c with start := some s.cycle, from0 := x.press.step } }).capture r c)
      | .fill => .next (s.modR r fun x => { x with press := x.press.modHead .fill fun c => { c with start := some s.cycle } })
  | [] => .next s

/-- The first enabled class among results (R100, R199). -/
def PressCmd.hold (c : PressCmd) (rs : List FRes) : Option FpCls :=
  if c.quar then none
  else if c.fei && rs.any (·.inv) then some .invalid
  else if c.fez && rs.any (·.dz) then some .divzero
  else if c.feo && rs.any (·.ovf) then some .overflow
  else none
/-- Rows with a quarantine hit, in no integer format (R84, R106). DEDUCED, log entry 79. -/
def PressCmd.hits (c : PressCmd) (f : Fmt) (rows : List (List FRes)) : List Nat :=
  if c.quar && (isFloat f || f.isQ) then (rows.zipIdx.filter fun p => p.1.any fun r => r.inv || r.dz || r.ovf || isSpecial f r.v).map (·.2) else []
/-- A Press exception (R199): the K-block does not commit and the compute queue is held; after the C slice's DONE the heat ends
(R200). -/
def State.pressHold (s : State) (r : Nat) (cls : FpCls) (k : Nat) : State :=
  let x := s.rn r
  let pc := match x.press.cq with | c :: _ => c.pc | [] => 0
  let s := (s.modR r fun x => { x with press :=
    { x.press.modHead .compute (fun c => { c with start := none, spoilt := true }) with pend := true, held := some cls, kheld := k } }).dropCapture r
  if x.leg.c.done then s.fatalTrap r .c (PTrap.mk' (fpCause cls) (k % 65536 + 2 ^ 31) 0 pc) x.leg.c.pc else s
/-- Element results of K-block b of a matrix command, row by row, over the rows and columns in use. -/
def Press.blockRes (p : Press) (o : MatOp) (b : Nat) : List (List FRes) :=
  let a := p.slot o.a
  let w := p.slot o.w
  let t := accTag o.fmt
  let blk := kBlock o.fmt
  let cols := (List.range w.rows).map fun j => slotBlock w (w.row j) blk b
  let code := bits o.cseq (2 * (b % 4)) 2
  (List.range a.rows).map fun i =>
    let ra := slotBlock a (a.row i) blk b
    cols.zipIdx.map fun cj => cellOp code t (p.acc t o.d i cj.2) (blockOf code ra cj.1)
/-- A new 32 × 32 block of elements: results where there are some, else the old elements. -/
def Press.merged (p : Press) (t : AcTag) (d : Nat) (rows : List (List FRes)) : List Nat :=
  (List.range 32).flatMap fun i =>
    let row := rows.getD i []
    (List.range 32).map fun j => match row[j]? with | some r => r.v | none => p.acc t d i j
/-- The first n bytes of each of some rows of a bank have been written (R209, R465). -/
def State.wroteRows (s : State) (r bank rows n : Nat) : State :=
  (List.range rows).foldl (fun s i => s.wrote r 2 r (bank * 4096 + i * 128) n) s
/-- A K-block commits for every element at once, or does not (R197, R199, R209); on pre-emption the command stops after it (R211). -/
def execKBlockCommit (r : Nat) (s : State) : Out :=
  let x := s.rn r
  match x.press.cq with
  | c :: _ =>
    match matOf c.i, c.start with
    | some o, some st =>
      let blk := kBlock o.fmt
      let k := (x.press.slot o.a).k
      let b := x.press.step
      if k ≤ b * blk || decide (s.cycle < st + 5 + o.cycles (min k ((b + 1) * blk) - c.from0 * blk)) then .next s
      else
        match s.readSlot r o.a blk b with
        | (s, false) => .next (s.pressFail r .compute)
        | (s, true) =>
          match s.readSlot r o.w blk b with
          | (s, false) => .next (s.pressFail r .compute)
          | (s, true) =>
            match s.readAcc r (accTag o.fmt) o.d (x.press.slot o.a).rows (x.press.slot o.w).rows with
            | (s, false) => .next (s.pressFail r .compute)
            | (s, true) =>
              let p := (s.rn r).press
              let t := accTag o.fmt
              let rows := p.blockRes o b
              match c.hold rows.flatten with
              | some cls => .next (s.pressHold r cls b)
              | none =>
                let a := p.slot o.a
                let w := p.slot o.w
                let wst := (List.range w.rows).any fun j => w.stain.getLsbD j
                let st := rowMask (((List.range a.rows).filter fun i => wst || a.stain.getLsbD i) ++ c.hits (tagFmt t) rows)
                let s := (banksOf t o.d).foldl (fun s k => s.wroteRows r k a.rows (4 * w.rows)) s
                .next (s.modR r fun x =>
                  let stops := x.preempt && decide ((b + 1) * blk < k)
                  let x := x.shade c (banksOf t o.d)
                  let p := { x.press.setAcc t o.d (x.press.merged t o.d rows) (x.press.accStain t o.d ||| st) with step := b + 1 }
                  { x with press := if stops then p.modHead .compute fun c => { c with start := none } else p })
    | _, _ => .next s
  | [] => .next s

/-- A command leaves its queue: tiles and reader counts are released, and DONEC counts it (R188, R196). -/
def State.pressLeave (s : State) (r : Nat) (q : PressQ) (c : PressCmd) : State :=
  let s := (pressTiles c.i).foldl (fun s tr => s.leaveTile r c.id (btile tr.1) tr.2) s
  s.modR r fun x =>
    let p := x.press.releaseReaders c
    { x with press := match q with
      | .fill => { p with fq := p.fq.tail, fqFree := s.cycle }
      | .compute => { p with cq := p.cq.tail, cqFree := s.cycle, step := 0, donec := p.donec + 1,
                             legDone := p.legDone + (if c.leg = x.legNo then 1 else 0) } }
/-- Row i of a slot from a row of a tile, as a fill makes it (R186, R195). -/
def fillRow (bs : List Byte) (f : Fmt) (k : Nat) : MRow :=
  let n := leNat bs
  BitVec.ofNat 8192 (if f.isQ then n % 2 ^ (8 * rowBytes f k) else n % 2 ^ (k * fmtBits f))
/-- A fill completes (R194, R195). DEDUCED, log entry 19. -/
def State.fillDone (s : State) (r : Nat) (c : PressCmd) : State :=
  let upd (s : State) (d : RegIx) (f : MgSlot → MgSlot) : State :=
    ((s.modR r fun x => { x with press := x.press.modSlot d.toNat f }).wrote r 1 r (d.toNat * 32768) 32768).pressLeave r .fill c
  let again (s : State) : State := s.pressFail r .fill
  match c.i with
  | .mgfill o =>
    match s.tile r (btile o.tile) with
    | none => s.pressLeave r .fill c
    | some e =>
      match s.readRows r (btile o.tile) e e.rows with
      | (s, false) => again s
      | (s, true) =>
        let e := (s.tile r (btile o.tile)).getD e
        upd s o.d fun m =>
          { m with
            st := .ready
            d := (List.range 32).map fun i =>
              if i < e.rows then fillRow (s.tileRow r (btile o.tile) e i) m.fmt m.k else 0
            stain := rowMask ((List.range e.rows).filter fun i => e.stain.getLsbD i) }
  | .mgspfill o =>
    match s.tile r (btile o.tile), s.tile r (btile o.mask) with
    | some e, some k =>
      match s.readRows r (btile o.tile) e e.rows with
      | (s, false) => again s
      | (s, true) =>
        match s.readRows r (btile o.mask) k k.rows with
        | (s, false) => again s
        | (s, true) =>
          let e := (s.tile r (btile o.tile)).getD e
          let k := (s.tile r (btile o.mask)).getD k
          let g := spGroups e o.n
          upd s o.d fun m =>
            { m with
              st := .ready
              d := (List.range 32).map fun i =>
                if i < e.rows then
                  BitVec.ofNat 8192 (leNat (s.tileRow r (btile o.tile) e i ++ (s.tileRow r (btile o.mask) k i).take (6 * g)))
                else 0
              stain := rowMask ((List.range e.rows).filter fun i => e.stain.getLsbD i || k.stain.getLsbD i) }
    | _, _ => s.pressLeave r .fill c
  | _ => s.pressLeave r .fill c

/-- Bytes of a drained row: elements packed, then the block's scale (R203). -/
def drainRow (f : Fmt) (vals : List Nat) (sc : Option Nat) : List Byte :=
  natLe (4 * fmtBits f) (pack (fmtBits f) vals) ++ (match sc with | some b => [BitVec.ofNat 8 b] | none => [])
/-- The rows a drain writes: element results and block scale (R203). -/
def Press.drainRows (p : Press) (t : AcTag) (d : Nat) (e : Tile) (rm : Rm) : List (List FRes × Option Nat) :=
  (List.range e.rows).map fun i =>
    let xs := (List.range 32).map fun j => p.acc t d i j
    let src := tagFmt t
    if e.fmt.isQ then
      let z := quantBlock e.fmt rm (List.replicate 32 0) (xs.map (valueOf src))
      (z.2, some z.1)
    else (xs.map (convert src e.fmt rm true 0), none)
/-- A drain completes, or is held (R199, R203). -/
def State.drainDone (s : State) (r : Nat) (c : PressCmd) (o : AcTileO) : State :=
  match s.tile r (btile o.tile) with
  | none => s.pressLeave r .compute c
  | some e =>
    match s.readAcc r c.src o.ac.toNat e.rows 32 with
    | (s, false) => s.pressFail r .compute
    | (s, true) =>
      let p := (s.rn r).press
      let rows := p.drainRows c.src o.ac.toNat e o.rm
      match c.hold (rows.flatMap (·.1)) with
      | some cls => s.pressHold r cls 0
      | none =>
        let nanBlk := (rows.zipIdx.filter fun z => c.quar && z.1.2 == some 255).map (·.2)
        let hit := rowMask (c.hits e.fmt (rows.map (·.1)) ++ nanBlk)
        let st := p.accStain c.src o.ac.toNat ||| hit
        let s := rows.zipIdx.foldl (fun s z => s.setTileRow r (btile o.tile) e z.2 (drainRow e.fmt (z.1.1.map (·.v)) z.1.2)) s
        let m : BitVec 256 := BitVec.ofNat 256 (2 ^ e.rows - 1)
        (s.modTile r (btile o.tile) fun e => { e with stain := (e.stain &&& ~~~m) ||| (st.setWidth 256 &&& m) }).pressLeave r
          .compute c
/-- ACLOAD completes (R202). -/
def State.loadDone (s : State) (r : Nat) (c : PressCmd) (o : AcTileO) : State :=
  match s.tile r (btile o.tile) with
  | none => s.pressLeave r .compute c
  | some e =>
    match s.readRows r (btile o.tile) e e.rows with
    | (s, false) => s.pressFail r .compute
    | (s, true) =>
      let e := (s.tile r (btile o.tile)).getD e
      let w := fmtBits e.fmt
      let vals := (List.range 32).flatMap fun i =>
        let row := if i < e.rows then leNat (s.tileRow r (btile o.tile) e i) else 0
        (List.range 32).map fun j => elemAt row w j
      let st := rowMask ((List.range e.rows).filter fun i => e.stain.getLsbD i)
      let bs := banksOf c.src o.ac.toNat
      let s := s.modR r fun x => let x := x.shade c bs; { x with press := x.press.setAcc c.src o.ac.toNat vals st }
      (bs.foldl (fun s b => s.wrote r 2 r (b * 4096) 4096) s).pressLeave r .compute c
/-- ACSCALE completes, or is held (R199, R204). -/
def State.scaleDone (s : State) (r : Nat) (c : PressCmd) (o : AcTileO) : State :=
  let d := o.ac.toNat
  match s.tile r (btile o.tile) with
  | none => s.pressLeave r .compute c
  | some e =>
    match s.readRows r (btile o.tile) e e.rows with
    | (s, false) => s.pressFail r .compute
    | (s, true) =>
      match s.readAcc r c.src d 32 32 with
      | (s, false) => s.pressFail r .compute
      | (s, true) =>
        let e := (s.tile r (btile o.tile)).getD e
        let p := (s.rn r).press
        let f := if c.src == .f64 then Fmt.f64 else .f32
        let row (i : Nat) := leNat (s.tileRow r (btile o.tile) e i)
        let col (j : Nat) := decodeF f (elemAt (row 0) (fmtBits f) j)
        let q (i : Nat) : FV := if 2 ≤ e.rows then decodeF f (elemAt (row 1) (fmtBits f) i) else .num false 1 0
        let el (i j : Nat) : FRes :=
          let a := valueOf (tagFmt c.src) (p.acc c.src d i j)
          let m := a.mul (col j)
          let n := m.1.mul (q i)
          finish f o.rm false 0 n.1 (m.2 || n.2 || a.snan || (col j).snan || (q i).snan)
        let rows := (List.range 32).map fun i => (List.range 32).map (el i)
        match c.hold rows.flatten with
        | some cls => s.pressHold r cls 0
        | none =>
          let all := e.stain.getLsbD 0 || (e.rows == 2 && e.stain.getLsbD 1)
          let st := p.accStain c.src d ||| rowMask (c.hits f rows) ||| (if all then ~~~0 else 0)
          let s := s.modR r fun x =>
            let x := x.shade c (banksOf c.src d)
            { x with press := x.press.setAcc c.src d ((rows.flatten).map (·.v)) st }
          ((banksOf c.src d).foldl (fun s b => s.wrote r 2 r (b * 4096) 4096) s).pressLeave r .compute c
/-- Row stains of a bank, or of both banks of an F64 pair, set or cleared (R205). -/
def State.stainDone (s : State) (r : Nat) (c : PressCmd) (o : AcRowO) (b : Bool) : State :=
  let m : BitVec 32 := if o.all then ~~~0 else 1#32 <<< o.row.toNat
  let bs := pairOf c.src o.d.toNat
  (s.modR r fun x =>
    let x := x.shade c bs
    { x with press := bs.foldl (fun p k => p.modBank k fun z =>
      { z with stain := if b then z.stain ||| m else z.stain &&& ~~~m }) x.press }).pressLeave r .compute c
/-- ACZ completes (R201). -/
def State.zeroDone (s : State) (r : Nat) (c : PressCmd) (o : GD) : State :=
  let bs := pairOf c.src o.d.toNat
  let s := s.modR r fun x =>
    let x := x.shade c bs
    { x with press := bs.foldl (fun p k => p.modBank k fun z => { z with d := List.replicate 1024 0, stain := 0 }) x.press }
  (bs.foldl (fun s b => s.wrote r 2 r (b * 4096) 4096) s).pressLeave r .compute c

/-! ### Passes of the auditor (R426, R427) -/

/-- CRC-64/ECMA-182 of some bytes (R427). -/
def crcStep : Nat → BitVec 64 → BitVec 64
  | 0, v => v
  | n + 1, v => crcStep n (if v.getLsbD 63 then (v <<< 1) ^^^ 0x42F0E1EBA9EA3693 else v <<< 1)
/-- CRC-64/ECMA-182. -/
def crc64 (bs : List Byte) : BitVec 64 := bs.foldl (fun v b => crcStep 8 (v ^^^ (BitVec.ofNat 64 (b.toNat * 2 ^ 56)))) 0
/-- The signature of a pass: its result banks in address order, then the row stains (R427). -/
def Press.signature (p : Press) (t : AcTag) (d : Nat) : BitVec 64 :=
  crc64 ((banksOf t d).flatMap (fun b => (p.bank b).d.flatMap fun w => natLe 4 w.toNat) ++ natLe 4 (p.accStain t d).toNat)
/-- An owner's audit settings. -/
def Tables.audOf (t : Tables) (o : Nat) : AudCfg :=
  agetD t.aud o { fracv := 0, polv := false, fracf := 0, polf := false, sel := 0, skip := 0, mis := 0 }
/-- Audit runners of a die in service. -/
def State.auditors (s : State) (d : Nat) : List Nat :=
  [0, 1].filter fun k => let n := 256 + 64 * d + k; !(s.rn n).withdrawn && !(s.fw.retired.contains n)
/-- SEL of a die stepped by R101. -/
def selStep (v : BitVec 32) : BitVec 32 := BitVec.ofNat 32 (lfsrStep v.toNat)
/-- A completed pass steps SEL of its die and may be selected (R426). DEDUCED, log entry 29. -/
def State.passDone (s : State) (r : Nat) (c : PressCmd) (o : MatOp) : State :=
  let x := s.rn r
  let d := dieOf r
  let v := selStep (s.fw.sel.toList.getD d 0)
  let s := { s with fw := { s.fw with sel := s.fw.sel.setIfInBounds d v } }
  let a := s.tabs.audOf x.owner
  let f := max a.fracv a.fracf
  if f = 0 || f ≤ bits v.toNat 0 10 then s.dropCapture r
  else
    let t := accTag o.fmt
    let sto := agetD s.fw.store d []
    match aget s.fw.capture r with
    | some (ops, banks) =>
      if decide (sto.length < 8) && !(s.auditors d).isEmpty then
        let pz : Pass := { id := s.seq, run := r, heat := x.heatid, owner := x.owner, pc := c.pc, cmd := c, ops := ops, banks := banks,
                           sig := x.press.signature t o.d, due := 0, first := none, kill := a.polv || a.polf }
        { s.dropCapture r with
          seq := s.seq + 1
          fw := { (s.dropCapture r).fw with store := aput s.fw.store d (sto ++ [pz]) }
          tabs := { s.tabs with aud := aput s.tabs.aud x.owner { a with sel := (a.sel + 1) % 2 ^ 48 } } }
      else { s.dropCapture r with tabs := { s.tabs with aud := aput s.tabs.aud x.owner { a with skip := (a.skip + 1) % 2 ^ 16 } } }
    | none => { s with tabs := { s.tabs with aud := aput s.tabs.aud x.owner { a with skip := (a.skip + 1) % 2 ^ 16 } } }

/-- A compute command completes (R188). -/
def State.computeDone (s : State) (r : Nat) (c : PressCmd) : State :=
  match c.i with
  | .acz o => s.zeroDone r c o
  | .acload o => s.loadDone r c o
  | .acdrain o => s.drainDone r c o
  | .acscale o => s.scaleDone r c o
  | .acstain o => s.stainDone r c o true
  | .acclean o => s.stainDone r c o false
  | i =>
    match matOf i with
    | some o => (s.passDone r c o).pressLeave r .compute c
    | none => s.pressLeave r .compute c
/-- The head of a Press queue completes. -/
def State.pressDone (s : State) (r : Nat) (q : PressQ) (c : PressCmd) : State :=
  match q with
  | .fill => s.fillDone r c
  | .compute => s.computeDone r c
/-- The head of a Press queue completes when its T cycles are over (R188). -/
def execPressCommandComplete (r : Nat) (q : PressQ) (s : State) : Out :=
  let x := s.rn r
  match x.press.queue q with
  | c :: _ =>
    match c.start with
    | some st =>
      if x.press.allBlocks c && decide (st + s.pressTime r c ≤ s.cycle) then .next (s.pressDone r q c)
      else .next s
    | none => .next s
  | [] => .next s

/-- Whether the commands of a Press queue have all completed by the end of the current cycle (R188, R207): the last one's T cycles
are over then, and it neither is held nor meets an error that restarts it. -/
def State.queueOver (s : State) (q : PressQ) : Bool :=
  let x := s.me
  match x.press.queue q with
  | [] => true
  | [c] =>
    match c.start with
    | some st => x.press.allBlocks c && decide (st + s.pressTime x.num c ≤ s.cycle + 1)
        && (((s.pressDone x.num q c).me.press.queue q).isEmpty && (s.pressDone x.num q c).me.rewind == x.rewind)
    | none => false
  | _ => false
/-- ESYNC (R207): the bundle waits until every command has completed; a held compute queue does not count. -/
def execEsync (o : GO) (s : State) : Out :=
  mSlot (.esync o) s (fun _ => none)
    (fun s => s.queueOver .fill && (s.queueOver .compute || s.me.press.held.isSome)) false fun _ s => s

/-- The Press steps of a runner in a cycle: completions, K-blocks (sparse 8-bit formats commit up to two in a cycle, R188), starts. -/
def pressSteps (x : Runner) : List Todo :=
  (if x.press.fq.isEmpty then [] else [.act (.pressCommandComplete x.num .fill)])
  ++ (if x.press.cq.isEmpty then [] else [.act (.pressCommandComplete x.num .compute), .act (.kBlockCommit x.num), .act (.kBlockCommit x.num)])
  ++ (if x.press.fq.isEmpty then [] else [.act (.pressCommandStart x.num .fill)])
  ++ (if x.press.cq.isEmpty then [] else [.act (.pressCommandStart x.num .compute)])

end Sys2Proof.Machine
end

