-- ==== Sys2Proof/Machine/Sprinter.lean ====
section
/-! DEFINITION. Tile loads, stores, copies and fills, SEAL and UNSEAL, TWAIT, the Sprinter as it runs, and ESTAT of the
Sprinter and the Relay (R208, R217, R261-R263, R270-R277, R283, R467). -/

namespace Sys2Proof.Machine

/-! ### Tile operands of the AT slot (R214, R217, R275) -/

/-- A defined tile named by operand n of a slot, as the issue checks of this cycle see it; a malformed or undefined one raises
ILLEGAL_OPERAND. DEDUCED, log entry 69. -/
def tileArg (u : Use) (s : State) (n : Nat) (k : TileId → Tile → Out) : Out :=
  match s.me.tileId (s.src u n) with
  | none => s.trapWhole u 0x02 (if n = 0 then 2 else 3)
  | some t =>
    match s.tileSeen s.cur.run t with
    | some e => k t e
    | none => s.trapWhole u 0x02 5
/-- Whether a tile is held DRAINING by a TST or SEAL of the current leg (R275). -/
def State.gated (s : State) (t : TileId) : Bool :=
  s.me.hamper.any fun h => !h.committed && h.kind != .store && h.tile == t
/-- A slot waits on a tile; one held by a TST or SEAL of the current leg makes the Hamper commit first (R275). -/
def State.tileWaits (s : State) (t : TileId) (e : Tile) : Out :=
  if e.state == .draining && s.gated t then s.boundFirst .a else s.waits
/-- The condition of a role, waited for (R217). -/
def needRole (s : State) (t : TileId) (e : Tile) (ro : Role) (k : State → Out) : Out :=
  if s.roleFree s.cur.run t ro then k s else s.tileWaits t e
/-- The key of an owner's SEAL entry (R257). -/
def State.sealEntry (s : State) (own : Nat) : Option (BitVec 256) := ((s.tabs.tkey own).sealIx.bind fun i => aget s.tabs.keys i).map (·.key)
/-- A free entry of the Sprinter queue (R271), beside those of committed TSTs and SEALs of the Hamper, which go ahead (R274). -/
def needSpr (s : State) (k : State → Out) : Out :=
  let x := s.me
  if x.spr.q.length + (x.hamper.filter fun h => h.committed && h.kind != .store).length < 16 then k s else s.waits

/-- A Sprinter command of the current bundle. -/
def State.sprCmd (s : State) (i : Instr) (s1 s2 sd : Word) (tile src : Option TileId) : SprCmd :=
  let x := s.me
  { id := s.seq, i := i, s1 := s1, s2 := s2, sd := sd, tile := tile, src := src, leg := x.legNo, quar := x.quar,
    start := none, chunk := 0, from0 := 0, issued := 0, written := [], gen := none, relays := [], held := false, stop := false,
    stamp := s.srs x, nonce := 0, ok := true, buf := [], bad := [], after := 0, key := 0 }
/-- A command enters the Sprinter queue. -/
def State.pushSpr (s : State) (c : SprCmd) : State :=
  { s.modMe (fun x => { x with spr := { x.spr with q := x.spr.q ++ [c] } }) with seq := s.seq + 1 }

/-! ### Issue checks of memory ranges (R228, R232, R273) -/

/-- The first bytes of shape row q, dimension RANK − 1 not wrapped: where a row beyond the last would begin. -/
def Shape.rowPast (z : Shape) (q : Nat) : Nat :=
  if z.rank ≤ 1 then z.stop
  else
    let es := (z.exts.drop 1).take (z.rank - 2)
    let n := es.foldl (· * ·) 1
    z.base + rowOffset es z.strides (q % n) + q / n * z.strides.getD (z.rank - 2) 0
/-- The first byte of shape rows [q, q + n), all beyond the last, that lies outside the footprint; where none does, the first byte of row q
(R228). DEDUCED, log entry 56. -/
def Shape.firstOut (z : Shape) (q n : Nat) : Nat :=
  ((List.range n).findSome? fun i =>
    let a := z.rowPast (q + i)
    if z.stop ≤ a then some a else if z.stop < a + z.rowLen then some z.stop else none).getD (z.rowPast q)
/-- The shape checks of a tile command (R228, R273): none when it passes, otherwise cause and XADDR, or an operand field. -/
inductive ShapeBad
  | operand (field : Nat)
  | fatal (cause : Nat) (xaddr : Word)
  deriving DecidableEq, Repr
/-- The checks of a shaped TLD or TST in their order. DEDUCED, log entry 56. -/
def Runner.shapeBad (x : Runner) (e : Tile) (sd s2 : Word) (wr : Bool) : Option ShapeBad :=
  let ix := bits sd.toNat 0 16
  match x.shape ix with
  | none => some (.fatal 0x21 (BitVec.ofNat 64 ix))
  | some z =>
    if Fmt.ofCode z.fmt != some e.fmt then some (.operand 5)
    else if e.pitch < z.rowLen then some (.operand 5)
    else
      let q := s2.toNat
      let first := max q z.rows
      if z.rows < q + e.rows then some (.fatal 0x21 (BitVec.ofNat 64 (z.firstOut first (q + e.rows - first))))
      else if !z.rights.testBit (if wr then 1 else 0) then some (.fatal 0x22 (BitVec.ofNat 64 (z.rowAt q)))
      else none
/-- The extent checks of some memory spans: the first BOUNDS address, and the extents not present. -/
def Runner.spansBad (x : Runner) (l : List (Nat × Nat)) (wr : Bool) : Option Nat × List Nat :=
  let rs := l.map fun p => (p.1, checkExt x.extents p.1 p.2 (!wr) wr false)
  ((rs.find? fun p => p.2 == .bounds).map (·.1),
   (rs.filterMap fun p => match p.2 with | .notPresent i => some i | _ => none).eraseDups)
/-- The memory checks of a tile command, then its effect. -/
def memChecked (u : Use) (s : State) (l : List (Nat × Nat)) (wr : Bool) (k : State → Out) : Out :=
  match s.me.spansBad l wr with
  | (some a, _) => s.fatalBundle .a 0x20 (BitVec.ofNat 64 a) u.pos
  | (none, []) => k s
  | (none, np) => s.npBundle np

/-- Whether spans meet a Hamper entry of the current leg, or a store that is still to become one (R275, R304). DEDUCED, log entry 76. -/
def State.meetsHamper (s : State) (l : List (Nat × Nat)) : Bool :=
  (s.me.hamper.any fun h => !h.committed && (s.hamSpans s.cur.run h).any fun z => l.any fun p => meets p.1 p.2 z.1 z.2)
  || s.me.saq.any fun e => e.addrs.any fun a => l.any fun p => meets p.1 p.2 a.toNat (sizeBits e.size / 8)

/-- TLD (R273, R275). -/
def execTld (o : GDSS) (s : State) : Out :=
  slotGo (.tld o) s fun u s => tileArg u s 0 fun t e =>
    let a := s.src u 1
    let sd := s.src u 2
    let go (s : State) : Out := needRole s t e .dest fun s => needSpr s fun s =>
      let l := tileSpans s.me e (.tld o) a (bits sd.toNat 0 16)
      memChecked u s l false fun s =>
        if s.meetsHamper l then s.boundFirst .a
        else
          let c := s.sprCmd (.tld o) (s.src u 0) a sd (some t) none
          .next ((s.takeTile s.cur.run c.id t .dest).pushSpr c)
    if o.d = 0 || e.resv then go s
    else match s.me.shapeBad e sd a false with
      | some (.operand f) => s.trapWhole u 0x02 f
      | some (.fatal c xa) => s.fatalBundle .a c xa u.pos
      | none => go s
/-- A Hamper entry of a tile store or a SEAL (R274). -/
def State.tileHam (s : State) (i : Instr) (kind : HamKind) (t : TileId) (a row0 nonce : Word) : HamE :=
  let x := s.me
  { id := s.seq, kind := kind, size := .z8, base := 0, stride := 0, idx := 0, addrs := [], data := 0, i := i, tile := t, addr := a, row0 := row0, nonce := nonce,
    committed := false, left := none, held := false, quar := x.quar, stamp := s.srs x, leg := x.legNo, issue := s.cycle, cno := 0, key := 0 }
/-- TST (R273, R274). -/
def execTst (o : GDSS) (s : State) : Out :=
  slotGo (.tst o) s fun u s => tileArg u s 0 fun t e =>
    let a := s.src u 1
    let sd := s.src u 2
    let go (s : State) : Out := needRole s t e .storeOut fun s =>
      memChecked u s (tileSpans s.me e (.tst o) a (bits sd.toNat 0 16)) true fun s =>
        let h := s.tileHam (.tst o) .tst t a sd 0
        let s := s.takeTile s.cur.run h.id t .storeOut
        .next ({ s with seq := s.seq + 1 }.addHam s.cur.run h)
    if o.d = 0 || e.resv then go s
    else match s.me.shapeBad e sd a true with
      | some (.operand f) => s.trapWhole u 0x02 f
      | some (.fatal c xa) => s.fatalBundle .a c xa u.pos
      | none => go s
/-- A copy from a source tile to a destination tile (R276). -/
def tileCopy (i : Instr) (s : State) (bad : Tile → Tile → Bool) : Out :=
  slotGo i s fun u s => tileArg u s 0 fun t e => tileArg u s 1 fun z f =>
    if t == z || (!e.resv && !f.resv && bad e f) then s.trapWhole u 0x02 5
    else needRole s t e .dest fun s => needRole s z f .source fun s => needSpr s fun s =>
      let c := s.sprCmd i (s.src u 0) (s.src u 1) 0 (some t) (some z)
      .next (((s.takeTile s.cur.run c.id t .dest).takeTile s.cur.run c.id z .source).pushSpr c)
/-- TMOV (R276): neither side may be block-scaled. -/
def execTmov (o : GSS) (s : State) : Out := tileCopy (.tmov o) s fun e f => e.fmt.isQ || f.fmt.isQ
/-- TCOPY (R276). -/
def execTcopy (o : GSS) (s : State) : Out := tileCopy (.tcopy o) s fun _ _ => false
/-- TFILL (R276). -/
def execTfill (o : GSS) (s : State) : Out :=
  slotGo (.tfill o) s fun u s => tileArg u s 0 fun t e => needRole s t e .dest fun s => needSpr s fun s =>
    let c := s.sprCmd (.tfill o) (s.src u 0) (s.src u 1) 0 (some t) none
    .next ((s.takeTile s.cur.run c.id t .dest).pushSpr c)
/-- TZERO (R276). -/
def execTzero (o : GS) (s : State) : Out :=
  slotGo (.tzero o) s fun u s => tileArg u s 0 fun t e => needRole s t e .dest fun s => needSpr s fun s =>
    let c := s.sprCmd (.tzero o) (s.src u 0) 0 0 (some t) none
    .next ((s.takeTile s.cur.run c.id t .dest).pushSpr c)
/-- TWAIT (R277). -/
def execTwait (o : GS) (s : State) : Out :=
  slotGo (.twait o) s fun u s => tileArg u s 0 fun t e =>
    if e.state == .empty || e.state == .ready then .next s else s.tileWaits t e
/-- SEAL (R246, R262, R266, R418): SEALCTR is read into NONCE and increased; it never wraps. It ends the leg. A KEYLD that clears the SEAL
entry later does not reach it. -/
def execSeal (o : GSS) (s : State) : Out :=
  slotGo (.seal o) s fun u s => tileArg u s 0 fun t e =>
    let a := s.src u 1
    if a.toNat % 64 ≠ 0 then s.trapWhole u 0x02 6
    else
      let own := s.me.owner
      let k := s.tabs.tkey own
      needRole s t e .storeOut fun s =>
        if k.sealIx.isNone || decide (2 ^ 64 - 1 ≤ k.sealctr) then s.trapSlot u 0x0B 0x60A
        else if s.me.saqWaits s.cycle then s.waits
        else memChecked u s [(a.toNat, blobLen e)] true fun s =>
          let h := { s.tileHam (.seal o) .seal t a 0 (BitVec.ofNat 64 k.sealctr) with key := (s.sealEntry own).getD 0 }
          let s := s.takeTile s.cur.run h.id t .storeOut
          let s := { s with
            seq := s.seq + 1
            cur := { s.cur with endLeg := true }
            tabs := { s.tabs with tkeys := aput s.tabs.tkeys own { k with sealctr := k.sealctr + 1 } } }
          .next (s.addHam s.cur.run h)
/-- UNSEAL (R263). -/
def execUnseal (o : GSS) (s : State) : Out :=
  slotGo (.unseal o) s fun u s => tileArg u s 0 fun t e =>
    let a := s.src u 1
    if a.toNat % 64 ≠ 0 then s.trapWhole u 0x02 6
    else needRole s t e .dest fun s => needSpr s fun s =>
      let l := [(a.toNat, blobLen e)]
      memChecked u s l false fun s =>
        if s.meetsHamper l then s.boundFirst .a
        else
          let c := s.sprCmd (.unseal o) (s.src u 0) a 0 (some t) none
          .next ((s.takeTile s.cur.run c.id t .dest).pushSpr c)

/-! ### Engine status words (R208, R283) -/

/-- The Sprinter status word. -/
def Sprinter.word (p : Sprinter) : Nat :=
  let tl := match p.q with
    | c :: _ => (match c.i with | .bararr _ => 0 | _ => (match c.tile with | some t => tileWord t | none => 0))
    | [] => 0
  p.usr.toNat * 2 ^ 29 + (if p.stale then 2 ^ 28 else 0) + p.q.length * 2 ^ 20 + tl
/-- The Relay status word. -/
def Relay.word (p : Relay) : Nat :=
  p.err.toNat * 2 ^ 29 + (if p.stale then 2 ^ 28 else 0) + p.q.length * 2 ^ 20
    + (match p.q with | c :: _ => tileWord c.tile | [] => 0)
/-- ESTAT of the Sprinter: its sticky fields are cleared after they are sampled. -/
def execEstatSprinter (o : GO) (s : State) : Out :=
  estatGo (.estatSprinter o) s (fun s => s.me.spr.word) (some .esnapS) fun x => { x with spr := { x.spr with usr := 0, stale := false } }
/-- ESTAT of the Relay. -/
def execEstatRelay (o : GO) (s : State) : Out :=
  estatGo (.estatRelay o) s (fun s => s.me.relay.word) (some .esnapL) fun x => { x with relay := { x.relay with err := 0, stale := false } }

/-! ### Commands as they run: chunks (R271, R276, R467) -/

/-- The destination bytes of a command, over which its chunks are taken: of a SEAL those of its blob, of an UNSEAL those of its tile (R271). -/
def State.sprBytes (s : State) (r : Nat) (c : SprCmd) : Nat :=
  let e := c.tile.bind (s.tile r)
  let f := c.src.bind (s.tile r)
  match c.i, e, f with
  | .seal _, some e, _ => blobLen e
  | .tcopy _, some e, some f => min e.rows f.rows * min e.pitch f.pitch
  | .tmov _, some e, some f =>
    min e.rows f.rows * ((min (kOf f.fmt f.pitch) (kOf e.fmt e.pitch) * fmtBits e.fmt + 7) / 8)
  | _, some e, _ => e.rows * e.pitch
  | _, none, _ => 0
/-- The number of chunks of a command. -/
def State.sprChunks (s : State) (r : Nat) (c : SprCmd) : Nat := max 1 (ceilDiv (s.sprBytes r c) 4096)
/-- The slower of the transfer rates of a command's levels (R268). -/
def sprRate (c : SprCmd) : Nat :=
  let a := match c.tile with | some t => lvlRate t.lvl | none => 512
  let b := match c.src with | some t => lvlRate t.lvl | none => 512
  min a b
/-- The cycles between chunk starts. -/
def chunkGap (c : SprCmd) : Nat := ceilDiv 4096 (sprRate c)
/-- Whether a command moves bytes between memory and a tile. -/
def sprMem (i : Instr) : Bool :=
  match i with
  | .tld _ | .tst _ | .seal _ | .unseal _ => true
  | _ => false
/-- Whether a memory command writes memory. -/
def sprWrites (i : Instr) : Bool :=
  match i with
  | .tst _ | .seal _ => true
  | _ => false
/-- T of a copy or fill (R276), for the chunks from `from0` on. DEDUCED, log entry 53. -/
def State.sprTime (s : State) (r : Nat) (c : SprCmd) : Nat :=
  let n := s.sprBytes r c - 4096 * c.from0
  match c.i with
  | .tcopy _ | .tmov _ => (match c.src with | some t => lvlLatency t.lvl | none => 0) + ceilDiv n (sprRate c)
  | _ => 2 + ceilDiv n 512
/-- The pieces of memory that chunk k of a command covers: address, bytes, offset in the tile or blob. The first chunk of an UNSEAL brings the
blob's header too. DEDUCED, log entry 53. -/
def chunkPieces (x : Runner) (e : Tile) (c : SprCmd) (k : Nat) : List (Nat × Nat × Nat) :=
  let opens : Bool := match c.i with | .unseal _ => true | _ => false
  let spans : List (Nat × Nat × Nat) :=
    match c.i with
    | .seal _ => [(c.s2.toNat, blobLen e, 0)]
    | .unseal _ => [(c.s2.toNat, blobLen e, 0)]
    | i =>
      if shapedOp i then (List.range e.rows).map fun r =>
        let z := rowSpan x e i c.s2 (bits c.sd.toNat 0 16) r
        (z.1, z.2, r * e.pitch)
      else [(c.s2.toNat, e.rows * e.pitch, 0)]
  spans.filterMap fun p =>
    let lo := max p.2.2 (4096 * k + if opens && k != 0 then 128 else 0)
    let hi := min (p.2.2 + p.2.1) (4096 * (k + 1) + if opens then 128 else 0)
    if lo < hi then some (p.1 + (lo - p.2.2), hi - lo, lo) else none
/-- The 256-byte blocks of a chunk, in address order. -/
def chunkBlocks (x : Runner) (e : Tile) (c : SprCmd) (k : Nat) : List Nat :=
  (((chunkPieces x e c k).flatMap fun p => (blocksOf p.1 p.2.1).map fun b => b.1 / 256).mergeSort (· ≤ ·)).eraseDups
/-- The pieces of a chunk inside one block. -/
def blockPieces (x : Runner) (e : Tile) (c : SprCmd) (k b : Nat) : List (Nat × Nat × Nat) :=
  (chunkPieces x e c k).filterMap fun p =>
    let lo := max p.1 (256 * b)
    let hi := min (p.1 + p.2.1) (256 * (b + 1))
    if lo < hi then some (lo, hi - lo, p.2.2 + (lo - p.1)) else none

/-! ### Sealed blobs (R261-R263) -/

/-- The header of a blob: bytes 0 to 111. -/
def blobHead (own : Nat) (nonce : Word) (e : Tile) (m : BitVec 256) : List Byte :=
  [0x53, 0x45, 0x41, 0x4C] ++ natLe 2 1 ++ natLe 2 own ++ natLe 8 nonce.toNat ++ natLe 2 e.pitch ++ natLe 1 (e.rows - 1)
  ++ natLe 1 (Fmt.code e.fmt) ++ natLe 1 (if e.rmap then 1 else 0) ++ List.replicate 11 0 ++ natLe 32 e.stain.toNat
  ++ natLe 32 m.toNat ++ List.replicate 16 0
/-- The sealing key made of a SEAL entry's key. -/
def State.sealKey (s : State) (k : BitVec 256) : BitVec 256 :=
  Config.shake256 ([0x4C, 0x42, 0x39, 0x53, 0x45, 0x41, 0x4C] ++ natLe 32 k.toNat ++ natLe 32 s.bnd.m.toNat)
/-- The IV of a blob. -/
def sealIv (nonce own : List Byte) : List Byte := nonce ++ own ++ [0, 0]
/-- The rows of a tile as one string. -/
def State.tileBytes (s : State) (r : Nat) (t : TileId) (e : Tile) : List Byte :=
  (List.range e.rows).flatMap fun i => s.tileRow r t e i
/-- The blob a SEAL writes. -/
def State.blob (s : State) (r : Nat) (c : SprCmd) (t : TileId) (e : Tile) : List Byte :=
  let own := (s.rn r).owner
  let hd := blobHead own c.nonce e s.bnd.m
  let z := Config.gcmSeal (s.sealKey c.key) (sealIv (natLe 8 c.nonce.toNat) (natLe 2 own)) hd (s.tileBytes r t e)
  hd ++ (z.2 ++ List.replicate 16 0).take 16 ++ z.1
/-- What an UNSEAL finds in a blob: the plaintext and the stain, or the reason of its failure (R263): the first of 1, 2, 3, 4, 6, 5 that holds.
DESIGN CHOICE, log entry 95. -/
def State.openBlob (s : State) (r : Nat) (e : Tile) (b : List Byte) : Except Nat (List Byte × BitVec 256) :=
  let own := (s.rn r).owner
  if b.take 4 != [0x53, 0x45, 0x41, 0x4C] || fieldLe b 4 2 != 1 then .error 1
  else if fieldLe b 6 2 != own then .error 2
  else if fieldLe b 64 32 != s.bnd.m.toNat then .error 3
  else if fieldLe b 16 2 != e.pitch || fieldLe b 18 1 != e.rows - 1 || fieldLe b 19 1 != Fmt.code e.fmt then .error 4
  else match s.sealEntry own with
    | none => .error 6
    | some k =>
      match Config.gcmOpen (s.sealKey k) (sealIv ((b.drop 8).take 8) ((b.drop 6).take 2)) (b.take 112) (b.drop 128) ((b.drop 112).take 16) with
      | some p => .ok (p, BitVec.ofNat 256 (fieldLe b 32 32))
      | none => .error 5
/-- An UNSEAL's tile written. -/
def State.unsealDone (s : State) (r : Nat) (c : SprCmd) (t : TileId) (e : Tile) : State :=
  let put (s : State) (bs : List Byte) (st : BitVec 256) : State :=
    ((List.range e.rows).foldl (fun s i => s.setTileRow r t e i (((bs.drop (i * e.pitch)) ++ List.replicate e.pitch 0).take e.pitch)) s).modTile
      r t fun e => { e with stain := st }
  match s.openBlob r e (c.buf.read 0 (blobLen e)) with
  | .ok (p, st) => put s p (st ||| if e.rmap then stainRows c.bad else 0)
  | .error n => (put s [] (~~~0)).modR r fun x => { x with spr := { x.spr with usr := BitVec.ofNat 3 n } }

/-! ### Chunks under way (R272, R273, R467) -/

/-- The bytes of a tile or blob that go to memory. -/
def State.outBytes (s : State) (r : Nat) (c : SprCmd) (t : TileId) (e : Tile) (off n : Nat) : List Byte :=
  match c.i with
  | .seal _ => ((s.blob r c t e).drop off).take n
  | _ => s.spRead r t.lvl (e.base + off) n
/-- The physical address of a checked byte of a runner. -/
def physAt (x : Runner) (a n : Nat) : Nat × Nat := (x.physOf (BitVec.ofNat 64 a) n).getD (0, 0)
/-- A command of the Sprinter queue changed. -/
def State.modSpr (s : State) (r id : Nat) (f : SprCmd → SprCmd) : State :=
  s.modR r fun x => { x with spr := { x.spr with q := x.spr.q.map fun c => if c.id == id then f c else c } }
/-- The requests of a command dropped. -/
def State.dropChunks (s : State) (r id : Nat) : State :=
  s.modMem fun m => { m with reqs := m.reqs.filter fun q => match q.use with
    | .chunk r' id' _ => !(r' == r && id' == id)
    | _ => true }
/-- A command starts over from its first chunk not committed. DEDUCED, log entry 19. -/
def State.restartSpr (s : State) (r : Nat) (c : SprCmd) (held : Bool) : State :=
  (s.dropChunks r c.id).modSpr r c.id fun c => { c with
    start := none, issued := c.chunk, written := [], held := held, bad := match c.i with | .unseal _ => c.bad | _ => [] }
/-- A RACE of a chunk: the command waits for RFT (R313). -/
def State.sprRace (s : State) (r : Nat) (c : SprCmd) (rc : Nat × Word) : State := (s.restartSpr r c true).raceA r rc.1 rc.2
/-- A command whose error has rewound the leg: unless the rewind abandoned it, it starts again no earlier than the leg. DEDUCED, log entry 19. -/
def State.sprAgain (s : State) (r : Nat) (c : SprCmd) : State :=
  let at_ := match (s.rn r).rewind with | some w => w.at_ | none => s.cycle
  (s.restartSpr r c false).modSpr r c.id fun c => { c with after := at_ }
/-- An uncorrectable error outside a row-mapped tile: the leg is rewound, and a command of an earlier leg reads again (R30,
R273). DEDUCED, log entry 19. -/
def State.sprUe (s : State) (r : Nat) (c : SprCmd) : State := (s.rewind r 2 []).sprAgain r c

/-- A Tub or Vat address of a tile row as RACE reports it: scratchpad form (R269). -/
def spAddr (t : TileId) (off : Nat) : Word :=
  BitVec.ofNat 64 (3 * 2 ^ 62 + (match t.lvl with | .basin => 0 | .tub => 1 | .vat => 2) * 2 ^ 60 + off)
/-- The bytes of the tile that chunk k of a memory command covers: from the tile's BASE, and how many. -/
def chunkOfTile (e : Tile) (k : Nat) : Nat × Nat := (4096 * k, min (e.rows * e.pitch) (4096 * (k + 1)) - 4096 * k)
/-- Chunk k of a TLD, all of whose blocks have come, written into the tile after its race check, its stain bits with it: those of the rows
that begin in it are cleared, and those of rows that failing lines touch are set (R273, R304, R309). DEDUCED, log entry 52.
DEDUCED, log entry 53. -/
def State.tldChunk (s : State) (r : Nat) (c : SprCmd) (t : TileId) (e : Tile) (k : Nat) : State :=
  let x := s.rn r
  let z := chunkOfTile e k
  let gs := spGranules x t.lvl (e.base + z.1) z.2
  match s.raceOf x (spAddr t (e.base + z.1)) z.2 gs true false with
  | some rc => s.sprRace r c rc
  | none =>
    let fresh := (List.range e.rows).filter fun i => decide (z.1 ≤ i * e.pitch ∧ i * e.pitch < z.1 + z.2)
    let hurt := (e.rowsOf (e.base + z.1) z.2).filter c.bad.contains
    let s := (s.recordAll x gs true false c.stamp).spWrite r t.lvl (e.base + z.1) (c.buf.read z.1 z.2)
    let s := s.modTile r t fun e => { e with stain := (e.stain &&& ~~~(stainRows fresh)) ||| stainRows hurt }
    s.modSpr r c.id fun c => { c with buf := c.buf.filter fun p => !decide (z.1 ≤ p.1 ∧ p.1 < z.1 + z.2) }
/-- The last block of a chunk is done. -/
def State.endChunk (s : State) (r id k : Nat) : State :=
  match (s.rn r).spr.q.find? fun c => c.id == id with
  | none => s
  | some c =>
    match c.i, c.tile.bind fun t => (s.tile r t).map fun e => (t, e) with
    | .tld _, some (t, e) => s.tldChunk r c t e k
    | _, _ => s
/-- A block of a chunk is done. -/
def State.blockDone (s : State) (r id k : Nat) : State :=
  let s := s.modSpr r id fun c => { c with written := c.written.map fun p => if p.1 = k then (p.1, p.2 - 1) else p }
  if (s.rn r).spr.q.any fun c => c.id == id && c.written.contains (k, 0) then s.endChunk r id k else s
/-- The rows that chunk k of a TST or SEAL reads: a blob is made of the whole tile. -/
def sourceRows (e : Tile) (i : Instr) (k from0 : Nat) : List Nat :=
  match i with
  | .tst _ => let z := chunkOfTile e k; e.rowsOf (e.base + z.1) z.2
  | .seal _ => if k = from0 then List.range e.rows else []
  | _ => []
/-- Chunk k of a memory command starts: a TST or SEAL reads its tile, and there is one request for each block it touches (R221, R467). -/
def State.startChunk (s : State) (r : Nat) (c : SprCmd) (k : Nat) : State :=
  match c.tile.bind fun t => (s.tile r t).map fun e => (t, e) with
  | none => s
  | some (t, e) =>
    match s.readRowsOf r t e (sourceRows e c.i k c.from0) with
    | (s, false) => s.sprAgain r c
    | (s, true) =>
      let x := s.rn r
      let bs := chunkBlocks x e c k
      let s := s.modSpr r c.id fun c => { c with issued := k + 1, written := c.written ++ [(k, bs.length)] }
      if bs.isEmpty then s.endChunk r c.id k
      else bs.foldl (fun s b =>
        let els := (blockPieces x e c k b).map fun p => ((physAt x p.1 p.2.1).2, p.2.1, if sprWrites c.i then s.outBytes r c t e p.2.2 p.2.1 else [])
        s.post r els (BitVec.ofNat 64 (256 * b)) (sprWrites c.i) (s.cycle + 4) (.chunk r c.id k)) s
/-- The chunks of the head command whose time has come start; none once pre-emption is asked for (R272, R467). -/
def State.startChunks (s : State) (r : Nat) : State :=
  let x := s.rn r
  match x.spr.q with
  | c :: _ =>
    match c.start with
    | some st =>
      if !x.preempt && !c.held && decide (c.issued < s.sprChunks r c ∧ st + (c.issued - c.from0) * chunkGap c ≤ s.cycle)
      then (if sprMem c.i then s.startChunk r c c.issued else s.modSpr r c.id fun c => { c with issued := c.issued + 1 }) else s
    | none => s
  | [] => s

/-- Whether a store writes bytes of a tile. -/
def Runner.storesInto (x : Runner) (h : HamE) (t : TileId) (e : Tile) : Bool :=
  let n := sizeBits h.size / 8
  h.kind == .store && h.addrs.any fun a => isScratch a && match x.scratch a n with
    | some (l, off) => l == t.lvl && meets off n e.base (e.rows * e.pitch)
    | none => false
/-- Whether a memory command must wait for an earlier access of its runner: a store of the Hamper to its bytes or to the tile it stores,
a strong access, and if it writes, a load (R275, R304). DEDUCED, log entry 76. -/
def State.sprBlocked (s : State) (r : Nat) (c : SprCmd) (t : TileId) (e : Tile) : Bool :=
  let x := s.rn r
  let l := s.sprSpans r c
  let wr := sprWrites c.i
  sprMem c.i && ((x.hamper.any fun h => decide (h.id < c.id) &&
      (((s.hamSpans r h).any fun z => l.any fun p => meets p.1 p.2 z.1 z.2) || (wr && x.storesInto h t e)))
    || l.any fun p => x.strongMeets c.id wr p.1 p.2 || (wr && s.loadMeets r c.id p.1 p.2))
/-- The Sprinter takes the head of its queue (R271), after the accesses that it follows; a barrier arrival has its own event.
DEDUCED, log entry 76. -/
def execSprinterCommandStart (r : Nat) (s : State) : Out :=
  let x := s.rn r
  match x.spr.q with
  | c :: _ =>
    match c.i, c.start, c.tile.bind fun t => (s.tile r t).map fun e => (t, e) with
    | .bararr _, _, _ => .next s
    | _, none, some (t, e) =>
      if x.preempt || c.held || decide (s.cycle < c.after) || s.sprBlocked r c t e || (sprAccess c && acqGate x c.id) then .next s
      else .next (s.modSpr r c.id fun c => { c with start := some s.cycle, from0 := c.chunk, issued := c.chunk, written := [] })
    | _, _, _ => .next s
  | [] => .next s

/-- The granules of rows of a tile. -/
def rowGranules (x : Runner) (t : TileId) (e : Tile) (rows : List Nat) : List Granule :=
  rows.flatMap fun i => spGranules x t.lvl (e.base + i * e.pitch) e.pitch
/-- The rows of a tile that chunk k of w-byte rows ends. DEDUCED, log entry 53. -/
def chunkRows (w n k : Nat) : List Nat :=
  (List.range n).filter fun i => decide (4096 * k ≤ (i + 1) * w - 1 ∧ (i + 1) * w - 1 < 4096 * (k + 1))
/-- The race that an access to some rows of a tile meets (R303, R312). -/
def State.tileRace (s : State) (r : Nat) (t : TileId) (e : Tile) (rows : List Nat) (wr : Bool) : Option (Nat × Word) :=
  match rows with
  | [] => none
  | i :: _ => s.raceOf (s.rn r) (spAddr t (e.base + i * e.pitch)) e.pitch ((rowGranules (s.rn r) t e rows).eraseDups) wr false
/-- An access to some rows of a tile recorded. -/
def State.tileRecord (s : State) (r : Nat) (t : TileId) (e : Tile) (rows : List Nat) (wr : Bool) (stamp : BitVec 20) : State :=
  s.recordAll (s.rn r) ((rowGranules (s.rn r) t e rows).eraseDups) wr false stamp

/-- Row r of a TMOV (R276): its bytes and whether an element meets R106, which none of an integer format does (R84). DEDUCED, log entry 79. -/
def tmovRow (e f : Tile) (n : Nat) (old new : List Byte) : List Byte × Bool :=
  let src := leNat new
  let rs := (List.range n).map fun k => convert f.fmt e.fmt .rne true 0 (elemAt src (fmtBits f.fmt) k)
  let w := n * fmtBits e.fmt
  let keep := leNat old / 2 ^ w * 2 ^ w
  (natLe old.length (keep + pack (fmtBits e.fmt) (rs.map (·.v))),
   isFloat e.fmt && rs.any fun z => z.inv || z.dz || z.ovf || isSpecial e.fmt z.v)
/-- The bytes of a TFILL row (R276). -/
def fillBytes (e : Tile) (v : Word) : List Byte :=
  let k := kOf e.fmt e.pitch
  let body := pack (fmtBits e.fmt) (List.replicate k (v.toNat % 2 ^ fmtBits e.fmt))
  let el := natLe ((k * fmtBits e.fmt + 7) / 8) body
  let sc := if e.fmt.isQ then List.replicate (k / 32) (BitVec.ofNat 8 (bits v.toNat 8 8)) else []
  (el ++ sc ++ List.replicate e.pitch 0).take e.pitch
/-- One row of a copy or fill written. -/
def State.copyRow (s : State) (r : Nat) (c : SprCmd) (t : TileId) (e : Tile) (i : Nat) : State :=
  let stainRow (s : State) (b : Bool) : State := s.modTile r t fun e =>
    { e with stain := if b then e.stain ||| (1#256 <<< i) else e.stain &&& ~~~(1#256 <<< i) }
  match c.i, c.src.bind fun z => (s.tile r z).map fun f => (z, f) with
  | .tcopy _, some (z, f) =>
    stainRow (s.setTileRow r t e i ((s.tileRow r z f i).take (min e.pitch f.pitch))) (f.stain.getLsbD i)
  | .tmov _, some (z, f) =>
    let n := min (kOf f.fmt f.pitch) (kOf e.fmt e.pitch)
    let m := tmovRow e f n (s.tileRow r t e i) (s.tileRow r z f i)
    stainRow (s.setTileRow r t e i m.1) (f.stain.getLsbD i || (c.quar && m.2))
  | .tfill _, _ => (s.setTileRow r t e i (fillBytes e c.s2)).modTile r t fun e => { e with stain := 0 }
  | .tzero _, _ => (s.setTileRow r t e i (List.replicate e.pitch 0)).modTile r t fun e => { e with stain := 0 }
  | _, _ => s

/-! ### Blocks of a chunk performed (R273, R291, R312) -/

/-- Tile rows that the failing lines of some pieces touch (R273, R301). -/
def State.badBlockRows (s : State) (x : Runner) (e : Tile) (i : Instr) (ps : List (Nat × Nat × Nat)) : List Nat :=
  let from_ := match i with | .unseal _ => 128 | _ => 0
  (ps.flatMap fun p => (List.range p.2.1).filterMap fun j =>
    if (s.line (((physAt x (p.1 + j) 1).2) / 64)).failed && decide (from_ ≤ p.2.2 + j) then some ((p.2.2 + j - from_) / e.pitch)
    else none).eraseDups
/-- A block of chunk k is performed in its slot: checked for a race and recorded; a TLD's or UNSEAL's bytes are read, a TST's or SEAL's
written. Answers the bytes read, and whether a line of them fails outside a row-mapped tile. -/
def State.performBlock (s : State) (r id k b : Nat) : State × Option (List Byte × Bool) :=
  let x := s.rn r
  match x.spr.q.find? fun c => c.id == id with
  | none => (s, none)
  | some c =>
    match c.tile.bind fun t => (s.tile r t).map fun e => (t, e) with
    | none => (s, none)
    | some (t, e) =>
      let ps := blockPieces x e c k b
      let gs := (ps.flatMap fun p => let h := physAt x p.1 p.2.1; x.granules h.1 h.2 p.2.1).eraseDups
      let wr := sprWrites c.i
      match s.raceOf x (BitVec.ofNat 64 (256 * b)) 1 gs wr false with
      | some rc => (s.sprRace r c rc, none)
      | none =>
        let s := s.recordAll x gs wr false c.stamp
        if wr then
          let s := s.physWrites r x.owner (ps.map fun p => ((physAt x p.1 p.2.1).2, s.outBytes r c t e p.2.2 p.2.1))
          (s.blockDone r id k, none)
        else
          let rd := ps.map fun p => s.physRead (physAt x p.1 p.2.1).2 p.2.1
          if !rd.any (·.2) then (s, some (rd.flatMap (·.1), false))
          else
            let rows := s.badBlockRows x e c.i ps
            let s := ps.foldl (fun s p => s.logRead r (physAt x p.1 p.2.1).2 p.2.1) s
            (s.modSpr r id fun c => { c with bad := (c.bad ++ rows).eraseDups }, some (rd.flatMap (·.1), !e.rmap))
/-- The bytes of a block arrive: they are kept until their chunk is written into the tile, those of an UNSEAL until its last (R273, R292). -/
def State.arriveBlock (s : State) (r id k b : Nat) (bs : List Byte) (bad : Bool) : State :=
  let x := s.rn r
  match x.spr.q.find? fun c => c.id == id with
  | none => s
  | some c =>
    match c.tile.bind (s.tile r) with
    | none => s
    | some e =>
      if bad then s.sprUe r c
      else
        let parts := ((blockPieces x e c k b).foldl (fun (a : List (Nat × List Byte) × List Byte) p =>
          (a.1 ++ [(p.2.2, a.2.take p.2.1)], a.2.drop p.2.1)) ([], bs)).1
        (s.modSpr r id fun c => { c with buf := parts.foldl (fun m p => m.write p.1 p.2) c.buf }).blockDone r id k

/-! ### Commit and completion (R271, R467) -/

/-- Whether the next chunk of the command at the head has been written: of a memory command with its last block, of a copy or fill at its
time (R467), after a request for pre-emption only if it has started (R272). -/
def State.chunkWritten (s : State) (r : Nat) (c : SprCmd) : Bool :=
  match c.start with
  | none => false
  | some st =>
    let n := s.sprChunks r c
    decide (c.chunk < n) && !c.held &&
    if sprMem c.i then c.written.contains (c.chunk, 0)
    else (!(s.rn r).preempt || decide (c.chunk < c.issued))
      && decide (st + ceilDiv ((c.chunk - c.from0 + 1) * s.sprTime r c) (n - c.from0) ≤ s.cycle + 1)
/-- The destination rows that chunk k of a copy, a fill or an UNSEAL writes. DEDUCED, log entry 53. -/
def State.destRows (s : State) (r : Nat) (c : SprCmd) (e : Tile) (k : Nat) : List Nat :=
  match c.i, c.src.bind (s.tile r) with
  | .tcopy _, some f => chunkRows (min e.pitch f.pitch) (min e.rows f.rows) k
  | .tmov _, some f =>
    chunkRows ((min (kOf f.fmt f.pitch) (kOf e.fmt e.pitch) * fmtBits e.fmt + 7) / 8) (min e.rows f.rows) k
  | .unseal _, _ => if k + 1 = s.sprChunks r c then List.range e.rows else []
  | .tfill _, _ | .tzero _, _ => chunkRows e.pitch e.rows k
  | _, _ => []
/-- The next chunk of the head command commits in the cycle in which it has been written; a copy's, fill's and UNSEAL's writes to its tile
are performed with it, after their race checks (R303, R309, R467). The chunks after it that have been written commit too. -/
def execSprinterChunkCommit (r : Nat) (s : State) : Out :=
  let x := s.rn r
  match x.spr.q with
  | c :: _ =>
    match c.tile.bind fun t => (s.tile r t).map fun e => (t, e) with
    | some (t, e) =>
      if !s.chunkWritten r c then .next s
      else
        let rows := s.destRows r c e c.chunk
        let sf := c.src.bind fun z => (s.tile r z).map fun f => (z, f)
        let race := match sf with
          | some (z, f) => (s.tileRace r z f rows false).orElse fun _ => s.tileRace r t e rows true
          | none => s.tileRace r t e rows true
        match race with
        | some rc => .next (s.sprRace r c rc)
        | none =>
          match (match sf with | some (z, f) => s.readRowsOf r z f rows | none => (s, true)) with
          | (s, false) => .next (s.sprAgain r c)
          | (s, true) =>
            let s := match sf with | some (z, f) => s.tileRecord r z f rows false c.stamp | none => s
            let s := s.tileRecord r t e rows true c.stamp
            let s := match c.i with
              | .unseal _ => if rows.isEmpty then s else s.unsealDone r c t e
              | _ => rows.foldl (fun s i => s.copyRow r c t e i) s
            let s := s.modSpr r c.id fun c => { c with chunk := c.chunk + 1 }
            let more := match (s.rn r).spr.q with | c :: _ => s.chunkWritten r c | [] => false
            .next (if more then { s with agenda := .act (.sprinterChunkCommit r) :: s.agenda } else s)
    | none => .next s
  | [] => .next s
/-- The head command completes: its tiles leave their roles, and DONEC counts it (R217, R271). -/
def execSprinterCommandComplete (r : Nat) (s : State) : Out :=
  let x := s.rn r
  match x.spr.q with
  | c :: _ =>
    match c.start, c.tile with
    | some _, some t =>
      if c.chunk < s.sprChunks r c then .next s
      else
        let s := s.leaveTile r c.id t (if sprWrites c.i then .storeOut else .dest)
        let s := match c.src with | some z => s.leaveTile r c.id z .source | none => s
        .next (s.modR r fun x => { x with spr := { x.spr with
          q := x.spr.q.tail
          donec := x.spr.donec + 1
          legDone := x.spr.legDone + (if c.leg = x.legNo then 1 else 0) } })
    | _, _ => .next s
  | [] => .next s

/-- The Sprinter steps of a runner in a cycle. A commit of the cycle before completes its command first. -/
def sprSteps (x : Runner) : List Todo :=
  if x.spr.q.isEmpty then []
  else [.act (.sprinterCommandComplete x.num), .act (.barrierArrival x.num), .act (.sprinterCommandStart x.num),
        .act (.sprinterChunkCommit x.num)]

end Sys2Proof.Machine
end

