-- ==== Sys2Proof/Machine/Relay.lean ====
section
/-! DEFINITION. The Relay collectives (R278-R282). -/

namespace Sys2Proof.Machine

/-- The members of a mask in ascending index order. -/
def maskMembers (m : Word) : List Nat := setBitsOf m
/-- The operation, tile operand, mask operand and reduction of a collective. -/
def colRed : Instr → Option RedOp
  | .calr o | .crsc o => some (match o.red with | .add => .add | .min => .min | .max => .max)
  | _ => none
/-- A format that a reducing collective takes (R279). -/
def colFmt : Fmt → Bool
  | .f64 | .f32 | .bf16 | .f16 | .s32 | .s64 | .z32 | .z64 => true
  | _ => false
/-- The issue of a collective (R279): it ends the leg. A 65th member mask raises ILLEGAL_OPERAND (R386). -/
def colIssue (i : Instr) (s : State) : Out :=
  slotGo i s fun u s => tileArg u s 0 fun t e =>
    let x := s.me
    let m := s.src u 1
    if t.lvl != .basin || (colRed i).isSome && !e.resv && !colFmt e.fmt then s.trapWhole u 0x02 5
    else if m = 0 ∨ 2 ^ s.squadSize x ≤ m.toNat ∨ m.getLsbD x.idx = false then s.trapWhole u 0x02 3
    else if (aget x.relay.seqs m.toNat).isNone && decide (64 ≤ x.relay.seqs.length) then s.trapWhole u 0x02 3
    else needRole s t e .dest fun s =>
      if !decide (x.relay.q.length < 4) || x.saqWaits s.cycle then s.waits
      else
        let n := agetD x.relay.seqs m.toNat 0
        let c : RelCmd := { id := s.seq, i := i, tile := t, mask := m, seqNo := n, quar := x.quar, started := false, due := 0, rows := [] }
        let s := s.takeTile s.cur.run c.id t .dest
        let s := s.modMe fun x => { x with relay := { x.relay with
          q := x.relay.q ++ [c], seqs := aput x.relay.seqs m.toNat ((n + 1) % 2 ^ 32) } }
        .next { s with seq := s.seq + 1, cur := { s.cur with endLeg := true } }
/-- CALR (R279). -/
def execCalr (o : ColO) (s : State) : Out := colIssue (.calr o) s
/-- CAGA (R279). -/
def execCaga (o : GSS) (s : State) : Out := colIssue (.caga o) s
/-- CRSC (R279). -/
def execCrsc (o : ColO) (s : State) : Out := colIssue (.crsc o) s
/-- CA2A (R279). -/
def execCa2a (o : GSS) (s : State) : Out := colIssue (.ca2a o) s
/-- CBCS (R279). -/
def execCbcs (o : GSS) (s : State) : Out := colIssue (.cbcs o) s

/-- A member of a collective: runner, command, tile. -/
structure Member where
  r : Nat
  c : RelCmd
  e : Tile
  deriving DecidableEq, Repr
/-- The members of squad q's collective with a mask when every member has its matching command at the head of its queue (R280,
R281). -/
def State.members (s : State) (q : Nat) (mask : Word) : Option (List Member) :=
  match s.fw.squads.find? fun z => z.id == q with
  | none => none
  | some z =>
    let ms := (maskMembers mask).filterMap fun i => (z.runners[i]?).bind fun r =>
      match (s.rn r).relay.q with
      | c :: _ => if c.mask = mask then (s.tile r c.tile).map fun e => { r := r, c := c, e := e } else none
      | [] => none
    match ms with
    | [] => none
    | m :: t =>
      if ms.length = (maskMembers mask).length ∧ (z.state = .running ∨ z.state = .saving) ∧ t.all (fun n => n.c.seqNo == m.c.seqNo) then some ms
      else none
/-- The operation code of a collective with its reduction, for matching (R281). -/
def colCode : Instr → Nat × Option RedOp
  | .calr o => (0, colRed (.calr o))
  | .caga _ => (1, none)
  | .crsc o => (2, colRed (.crsc o))
  | .ca2a _ => (3, none)
  | _ => (4, none)
/-- Why a collective fails: 0 when it does not (R281, R283). DEDUCED, log entry 54. -/
def colErr (ms : List Member) : Nat :=
  match ms with
  | [] => 0
  | m :: t =>
    if t.any fun n => colCode n.c.i != colCode m.c.i then 1
    else if t.any fun n => n.e.fmt != m.e.fmt then 2
    else if t.any fun n => n.e.rows != m.e.rows || n.e.pitch != m.e.pitch then 3
    else if (colCode m.c.i).1 ∈ [1, 2, 3] ∧ m.e.rows % ms.length ≠ 0 then 4
    else 0
/-- The steps of a collective (R282). -/
def colSteps (e : Tile) : Nat := max 1 (ceilDiv (e.rows * e.pitch) 4096)
/-- A cycle in which the next step of a collective of m members completes, within 64 + 32·m cycles of the end `from_` of the step before
(R282). -/
def State.stepDue (s : State) (from_ : Nat) (ms : List Member) : Nat :=
  from_ + 1 + Config.within 7 ((ms.head?.map (·.r)).getD 0) s.cycle % (64 + 32 * ms.length)
/-- The head command of a member's Relay queue changed. -/
def State.modCol (s : State) (m : Member) (f : RelCmd → RelCmd) : State :=
  s.modR m.r fun x => { x with relay := { x.relay with q := (match x.relay.q with | [] => [] | c :: t => f c :: t) } }
/-- The step time recorded at every member. -/
def State.setStep (s : State) (ms : List Member) (due : Nat) : State :=
  ms.foldl (fun s m => s.modCol m fun c => { c with started := true, due := due }) { s with seq := s.seq + 1 }
/-- The rows of its tile that the member of rank q gives to a collective of m members (R280). -/
def rowsGiven (i : Instr) (e : Tile) (m q : Nat) : List Nat :=
  let b := e.rows / m
  if m ≤ 1 then []
  else match (colCode i).1 with
    | 1 => (List.range e.rows).filter fun r => decide (q * b ≤ r ∧ r < (q + 1) * b)
    | 4 => if q = 0 then List.range e.rows else []
    | _ => List.range e.rows
/-- Every member's rows read as they stand when the collective starts (R221, R280); an error outside a row-mapped tile rewinds its runner's
leg, and the collective starts no earlier than that leg. DEDUCED, log entry 19. DEDUCED, log entry 54. -/
def State.readCol (s : State) (ms : List Member) : State × Bool :=
  ms.zipIdx.foldl (fun a mq =>
    let m := mq.1
    match a.1.readRowsOf m.r m.c.tile m.e (rowsGiven m.c.i m.e ms.length mq.2) with
    | (s, true) =>
      let e := (s.tile m.r m.c.tile).getD m.e
      (s.modCol m fun c => { c with rows := (List.range e.rows).map fun i => (s.tileRow m.r m.c.tile e i, e.stain.getLsbD i) }, a.2)
    | (s, false) =>
      let at_ := match (s.rn m.r).rewind with | some w => w.at_ | none => s.cycle
      (s.modCol m fun c => { c with due := at_ }, false)) (s, true)
/-- A collective starts when every member has issued its matching command (R280), and goes on after a pre-emption with the step that it had
reached. DEDUCED, log entry 54. -/
def execCollectiveStart (q : Nat) (mask : Word) (s : State) : Out :=
  match s.members q mask with
  | some ms =>
    if ms.any fun m => m.c.started || (s.rn m.r).preempt || decide (s.cycle < m.c.due) then .next s
    else if colErr ms ≠ 0 ∨ ms.all fun m => decide (0 < (s.rn m.r).relay.step) then .next (s.setStep ms (s.stepDue s.cycle ms))
    else match s.readCol ms with
      | (s, true) => .next (s.setStep ms (s.stepDue s.cycle ms))
      | (s, false) => .next s
  | none => .next s

/-- A reduced row: the fold of the members' rows in rank order, and whether a result meets R106 (R280). -/
def foldRow (op : RedOp) (e : Tile) (rows : List (List Byte)) : List Nat × Bool :=
  let n := kOf e.fmt e.pitch
  let w := fmtBits e.fmt
  let el (bs : List Byte) : List FRes := let v := leNat bs; (List.range n).map fun k => FRes.of (elemAt v w k)
  match rows with
  | [] => ([], false)
  | r0 :: t =>
    let rs := t.foldl (fun a bs => (a.zip (el bs)).map fun p => redStep op e.fmt .rne p.1 p.2) (el r0)
    (rs.map (·.v), rs.any fun z => z.inv || z.dz || z.ovf || isSpecial e.fmt z.v)
/-- What the member of rank q finds in row r of its tile: bytes and stain, or nothing new (R280). -/
def colRow (ms : List Member) (q r : Nat) : Option (List Byte × Bool) :=
  match ms[q]? with
  | none => none
  | some me =>
    let b := me.e.rows / ms.length
    let rowOf (k i : Nat) : List Byte × Bool :=
      match ms[k]? with
      | some m => m.c.rows.getD i ([], false)
      | none => ([], false)
    let red (op : RedOp) : List Byte × Bool :=
      let f := foldRow op me.e (ms.map fun m => (m.c.rows.getD r ([], false)).1)
      let w := kOf me.e.fmt me.e.pitch * fmtBits me.e.fmt
      let old := leNat (rowOf q r).1
      (natLe me.e.pitch (old / 2 ^ w * 2 ^ w + pack (fmtBits me.e.fmt) f.1),
       (ms.any fun m => (m.c.rows.getD r ([], false)).2) || (me.c.quar && f.2))
    if ms.length ≤ 1 then none
    else match colCode me.c.i with
      | (0, some op) => some (red op)
      | (2, some op) => if q * b ≤ r ∧ r < (q + 1) * b then some (red op) else none
      | (1, _) => some (rowOf (r / b) r)
      | (3, _) => some (rowOf (r / b) (q * b + r % b))
      | _ => some (rowOf 0 r)
/-- Step k of a collective at the member of rank q: the next 4 KiB of its tile take their result, a row's stain bit with its last byte
(R280, R282). DEDUCED, log entry 54. -/
def State.colPart (s : State) (ms : List Member) (m : Member) (q k : Nat) : State :=
  (List.range m.e.rows).foldl (fun s r =>
    let lo := max (r * m.e.pitch) (4096 * k)
    let hi := min ((r + 1) * m.e.pitch) (4096 * (k + 1))
    if hi ≤ lo then s
    else match colRow ms q r with
      | none => s
      | some (bs, st) =>
        let s := s.spWrite m.r m.c.tile.lvl (m.e.base + lo) ((bs.drop (lo - r * m.e.pitch)).take (hi - lo))
        if hi = (r + 1) * m.e.pitch then s.modTile m.r m.c.tile fun e =>
          { e with stain := if st then e.stain ||| (1#256 <<< r) else e.stain &&& ~~~(1#256 <<< r) }
        else s) s
/-- The collective is over: every member's tile leaves its role; after a failure it is stained whole and its bytes are unchanged (R281). -/
def State.finishCol (s : State) (ms : List Member) (err : Nat) : State :=
  ms.foldl (fun s m =>
    let s := if err = 0 then s
      else (s.modTile m.r m.c.tile fun e => { e with stain := ~~~0 }).modR m.r fun x =>
        { x with relay := { x.relay with err := BitVec.ofNat 3 err } }
    (s.leaveTile m.r m.c.id m.c.tile .dest).modR m.r fun x => { x with relay := { x.relay with
      q := x.relay.q.tail, donec := x.relay.donec + 1, step := 0 } }) s
/-- A step of a collective is over (R282); pre-emption stops every member at its end. -/
def execCollectiveStep (q : Nat) (mask : Word) (s : State) : Out :=
  match s.members q mask with
  | some (m :: t) =>
    let ms := m :: t
    if ms.any fun z => !z.c.started || decide (s.cycle ≤ z.c.due) then .next s
    else
      let k := (s.rn m.r).relay.step
      let err := colErr ms
      let s := if err = 0 then ms.zipIdx.foldl (fun s z => s.colPart ms z.1 z.2 k) s else s
      if err ≠ 0 ∨ colSteps m.e ≤ k + 1 then .next (s.finishCol ms err)
      else
        let s := ms.foldl (fun s z => s.modR z.r fun x => { x with relay := { x.relay with step := k + 1 } }) s
        if (s.rn m.r).preempt then .next (ms.foldl (fun s z => s.modCol z fun c => { c with started := false }) s)
        else .next (s.setStep ms (s.stepDue m.c.due ms))
  | _ => .next s

/-- The Relay steps of a squad in a cycle. -/
def relaySteps (s : State) (z : Squad) : List Todo :=
  match z.runners with
  | [] => []
  | rs =>
    let masks := (rs.filterMap fun r => (match (s.rn r).relay.q with | c :: _ => some c.mask | [] => none)).eraseDups
    masks.flatMap fun m => [.act (.collectiveStep z.id m), .act (.collectiveStart z.id m)]

end Sys2Proof.Machine
end

