-- ==== Sys2Proof/Machine/Strong.lean ====
section
/-! DEFINITION. Strong accesses: LDS, STS, AMO, SIG, fences, BARS and the barrier objects; the strong path, releases and
acquires (R305-R308, R311, R313, R316-R327, R466). -/

namespace Sys2Proof.Machine

/-! ### Issue (R305, R317, R336) -/

/-- An entry of the strong path. -/
def State.strongE (s : State) (i : Instr) (s1 s2 s3 : Word) (ix dat : VWord) (stain : Bool) : StrongE :=
  { id := s.seq, i := i, s1 := s1, s2 := s2, s3 := s3, ix := ix, dat := dat, stain := stain, stamp := s.srs s.me,
    issue := s.cycle, elig := none, tries := 0, lane := 0, acc := 0, held := false, barsNo := 0, due := 0, rel := none, cas := none }
/-- Whether an operation is a FENCE, which takes no place in the strong path. -/
def isFence (i : Instr) : Bool := match i with | .fence _ => true | _ => false
/-- A free place in the strong path (R305). -/
def Runner.strongFree (x : Runner) : Bool := decide ((x.strong.filter fun e => !isFence e.i).length < 16)
/-- An entry joins the strong path, and its operation ends the leg. -/
def State.pushStrong (s : State) (e : StrongE) : State :=
  { s.modMe (fun x => { x with strong := x.strong ++ [e] }) with seq := s.seq + 1, cur := { s.cur with endLeg := true } }
/-- Whether a leg-ending operation of the AT slot must wait: for a place in the path, or for stores of earlier bundles. -/
def State.strongWaits (s : State) : Bool := !s.me.strongFree || s.me.saqWaits s.cycle
/-- The extent check of a strong access (R232): none when it passes. -/
def Runner.strongFail (x : Runner) (rd wr : Bool) (align n : Nat) (a : Word) : Option ElemFail :=
  if a.toNat % align ≠ 0 then some (.misaligned a)
  else if isScratch a then some (.bounds a)
  else match x.check a n rd wr true with
    | .ok _ _ => none
    | .bounds => some (.bounds a)
    | .notPresent i => some (.notPresent i)
/-- The checks of a strong operation on its addresses, each with its length, then its effect (R317). -/
def strongChecked (u : Use) (s : State) (rd wr : Bool) (align n : Nat) (addrs : List Word) (k : State → Out) : Out :=
  if s.strongWaits then s.waits
  else match addrs.findSome? (s.me.strongFail rd wr align n) with
    | some (.misaligned _) => s.trapSlot u 0x02 6
    | some (.bounds a) => s.fatalBundle .a 0x20 a u.pos
    | some (.notPresent i) => s.npBundle [i]
    | none => k s
/-- The LDQ position a result takes (R336). -/
def State.reserveStrong (s : State) (one : Bool) (id : Nat) : State :=
  s.modMe fun x => x.reserve one (reserved id none false)

/-- LDS (R318). -/
def execLds (o : LdsO) (s : State) : Out :=
  slotGo (.lds o) s fun u s =>
    let n := if o.w32 then 4 else 8
    let a := s.src u 0
    strongChecked u s true false n n [a] fun s =>
      let e := s.strongE (.lds o) a 0 0 0 0 false
      .next ((s.reserveStrong o.res1 e.id).pushStrong e)
/-- STS (R318). -/
def execSts (o : StsO) (s : State) : Out :=
  slotGo (.sts o) s fun u s =>
    let n := if o.w32 then 4 else 8
    let a := s.src u 0
    strongChecked u s false true n n [a] fun s =>
      .next (s.pushStrong (s.strongE (.sts o) a (s.src u 1) 0 0 0 false))
/-- Scalar AMO (R319). -/
def execAmo (o : AmoO) (s : State) : Out :=
  slotGo (.amo o) s fun u s =>
    let n := if o.w32 then 4 else 8
    let a := s.src u 0
    strongChecked u s true true n n [a] fun s =>
      let e := s.strongE (.amo o) a (s.src u 1) (s.src u 2) 0 0 false
      .next ((s.reserveStrong o.res1 e.id).pushStrong e)
/-- Vector AMO (R320): it takes the SDQ entry after those of the unmatched stores before it (R340). -/
def execAmoVector (o : AmoVO) (s : State) : Out :=
  slotGo (.amoVector o) s fun u s =>
    let n := if o.w32 then 4 else 8
    match s.me.leg.ixq.head?, s.me.leg.sdq[s.me.saq.length]? with
    | some ix, some d =>
      let a := s.src u 0
      strongChecked u s true true n n ((List.range (amoLanes o)).map (amoAddr o a ix.data)) fun s =>
        let e := s.strongE (.amoVector o) a 0 0 ix.data d.data (ix.stain || d.stain)
        let k := s.me.saq.length
        let s := s.popIxq
        let s := s.modMe fun x => (x.modLeg fun l => { l with sdq := l.sdq.eraseIdx k }).free .sdq s.cycle
        .next ((if o.res then s.reserveStrong false e.id else s).pushStrong e)
    | _, _ => .next s
/-- SIG (R323). -/
def execSig (o : SigO) (s : State) : Out :=
  slotGo (.sig o) s fun u s =>
    let a := s.src u 0
    strongChecked u s o.add true 8 8 [a] fun s =>
      .next (s.pushStrong (s.strongE (.sig o) a (s.src u 1) 0 0 0 false))
/-- FENCE (R321): it takes its place in program order and makes no access. -/
def execFence (o : FenceO) (s : State) : Out :=
  slotGo (.fence o) s fun _ s =>
    if s.me.saqWaits s.cycle then s.waits else .next (s.pushStrong (s.strongE (.fence o) 0 0 0 0 0 false))
/-- BARS (R322). -/
def execBars (o : GO) (s : State) : Out :=
  slotGo (.bars o) s fun _ s =>
    if s.strongWaits then s.waits
    else
      let e := { s.strongE (.bars o) 0 0 0 0 0 false with barsNo := s.me.bars + 1 }
      .next ((s.modMe fun x => { x with bars := x.bars + 1 }).pushStrong e)
/-- BARINIT (R325). DEDUCED, log entry 24. -/
def execBarinit (o : GSS) (s : State) : Out :=
  slotGo (.barinit o) s fun u s =>
    let v := s.src u 1
    if v = 0 ∨ 65535 < v.toNat then s.trapSlot u 0x02 3
    else strongChecked u s true true 16 16 [s.src u 0] fun s =>
      .next (s.pushStrong (s.strongE (.barinit o) (s.src u 0) v 0 0 0 false))
/-- BARINV (R325). DEDUCED, log entry 24. -/
def execBarinv (o : GS) (s : State) : Out :=
  slotGo (.barinv o) s fun u s =>
    strongChecked u s true true 16 16 [s.src u 0] fun s =>
      .next (s.pushStrong (s.strongE (.barinv o) (s.src u 0) 0 0 0 0 false))
/-- f(m, x) of an AMO of w bits (R319); none writes nothing. -/
def amoVal (op : AmoOp) (w m x y : Nat) : Option Nat :=
  let m := m % 2 ^ w
  let x := x % 2 ^ w
  match op with
  | .add => some ((m + x) % 2 ^ w)
  | .and => some (m &&& x)
  | .or => some (m ||| x)
  | .xor => some (m ^^^ x)
  | .min => some (if intOf true w m ≤ intOf true w x then m else x)
  | .max => some (if intOf true w m ≤ intOf true w x then x else m)
  | .minz => some (min m x)
  | .maxz => some (max m x)
  | .swp => some x
  | .cas => if m = x then some (y % 2 ^ w) else none
/-- The 16 bytes of a barrier object after BARINIT or BARINV (R325). -/
def barBytes (e : StrongE) (b : List Byte) : List Byte :=
  let gen := natLe 4 (fieldLe b 0 4 + 1)
  match e.i with
  | .barinit _ => gen ++ natLe 4 e.s2.toNat ++ natLe 4 0 ++ natLe 4 1
  | _ => gen ++ (b.drop 4).take 4 ++ natLe 4 0 ++ natLe 4 (fieldLe b 12 4 / 2 * 2)
/-- The physical address of an entry's bytes. -/
def strongPa (x : Runner) (a : Word) (n : Nat) : Nat := ((x.physOf a n).getD (0, 0)).2
/-- Bytes at address a as they are once an entry of the path has been performed: its own writes over them. -/
def StrongE.over (e : StrongE) (a : Nat) (bs : List Byte) : List Byte :=
  let put (bs : List Byte) (p : Word × Nat) (f : Nat → Option Nat) : List Byte :=
    let o := p.1.toNat - a
    if a ≤ p.1.toNat ∧ o + p.2 ≤ bs.length then
      match f (fieldLe bs o p.2) with
      | some v => bs.take o ++ natLe p.2 v ++ bs.drop (o + p.2)
      | none => bs
    else bs
  let amo (bs : List Byte) (op : AmoOp) (p : Word × Nat) (x y : Nat) : List Byte := put bs p fun m => amoVal op (8 * p.2) m x y
  match e.i with
  | .sts _ => e.spans.foldl (fun bs p => put bs p fun _ => some e.s2.toNat) bs
  | .sig o => e.spans.foldl (fun bs p => put bs p fun m => some ((if o.add then m else 0) + e.s2.toNat)) bs
  | .amo o => e.spans.foldl (fun bs p => amo bs o.op p e.s2.toNat e.s3.toNat) bs
  | .amoVector o => e.spans.zipIdx.foldl (fun bs p => amo bs o.op p.1 (bits e.dat.toNat (8 * p.1.2 * p.2) (8 * p.1.2)) 0) bs
  | .barinit _ | .barinv _ => if e.s1.toNat = a then barBytes e bs else bs
  | _ => bs
/-- The bytes of a barrier object as a BARARR sees them at its issue: after every earlier access of its runner (R304, R326). DEDUCED, log
entry 24. -/
def State.barSeen (s : State) (a : Word) : List Byte :=
  let x := s.me
  let bs := x.forward s.seq a.toNat (s.physRead (strongPa x a 16) 16).1
  x.strong.foldl (fun bs e => e.over a.toNat bs) bs
/-- What a BARARR captures of an object: GEN, none where V = 0 (R326). -/
def captured (b : List Byte) : Option (BitVec 32) := if fieldLe b 12 4 % 2 = 1 then some (BitVec.ofNat 32 (fieldLe b 0 4)) else none
/-- BARARR (R325, R326): it captures GEN at issue, its access of order `.ar` takes its place in the strong path, and its arrival enters the
Sprinter queue. Where its read meets a failed line, the strong path reads again and captures then (R466). DEDUCED, log entry 24. -/
def execBararr (o : GS) (s : State) : Out :=
  slotGo (.bararr o) s fun u s =>
    needSpr s fun s => strongChecked u s true true 16 16 [s.src u 0] fun s =>
      let pa := strongPa s.me (s.src u 0) 16
      let bad := (s.physRead pa 16).2
      let e := { s.strongE (.bararr o) (s.src u 0) 0 0 0 0 false with tries := if bad then 1 else 0 }
      let c := { s.sprCmd (.bararr o) (s.src u 0) 0 0 none none with
        ok := false, relays := s.me.relay.q.map (·.id), gen := if bad then none else captured (s.barSeen e.s1) }
      let s := if bad then s.logRead s.cur.run pa 16 else s
      .next ((s.modMe fun x => { x with spr := { x.spr with q := x.spr.q ++ [c] } }).pushStrong e)

/-! ### What an entry touches -/

/-- Order of an entry. -/
def StrongE.ord (e : StrongE) : Ord :=
  match e.i with
  | .lds o => o.ord
  | .sts o => o.ord
  | .amo o => o.ord
  | .amoVector o => o.ord
  | .sig _ => .rel
  | .fence o => o.ord
  | .bars _ => .sc
  | _ => .ar
/-- Scope of an entry. -/
def StrongE.scope (e : StrongE) : Scope :=
  match e.i with
  | .lds o => o.scope
  | .sts o => o.scope
  | .amo o => o.scope
  | .amoVector o => o.scope
  | .sig o => o.scope
  | .fence o => o.scope
  | .bars _ => .sqd
  | _ => .pkg
/-- Release orders (R307). -/
def ordRel (o : Ord) : Bool := o == .rel || o == .ar || o == .sc
/-- Acquire orders. -/
def ordAcq (o : Ord) : Bool := o == .acq || o == .ar || o == .sc
/-- A write that an earlier-ordered read of another location may pass: STS, SIG; a barrier write, which acquires too, not (R305, R307).
DEDUCED, log entry 23. -/
def StrongE.passable (e : StrongE) : Bool :=
  match e.i with
  | .sts o => o.ord != .sc
  | .sig _ => true
  | _ => false

/-! ### When an entry may be performed (R305, R307) -/

/-- Whether a Sprinter command makes no further access, or for a TLD reads no more bytes. -/
def State.sprPerformed (s : State) (r : Nat) (c : SprCmd) : Bool :=
  match c.i with
  | .tst _ | .seal _ => false
  | .bararr _ => true
  | .tld _ => c.start.isSome && decide (s.sprChunks r c ≤ c.issued) && !s.mem.reqs.any fun z =>
      match z.use with
      | .chunk r' id _ => r' == r && id == c.id && z.start.isNone
      | _ => false
  | _ => !sprAccess c
/-- Whether every plain access of a runner with a number below `id` has been performed. -/
def State.plainDone (s : State) (r id : Nat) : Bool :=
  let x := s.rn r
  (x.laq.all fun q => decide (id < q.id) || s.loadPerformed r q)
  && (x.hamper.all fun h => decide (id < h.id))
  && (x.spr.q.all fun c => decide (id < c.id) || s.sprPerformed r c)
/-- Whether an earlier plain access of the runner to the entry's bytes is not yet performed (R304). DEDUCED, log entry 23. -/
def State.behindPlain (s : State) (r : Nat) (e : StrongE) : Bool :=
  let x := s.rn r
  let hit (z : Nat × Nat) : Bool := e.spans.any fun b => meets z.1 z.2 b.1.toNat b.2
  (x.laq.any fun q => decide (q.id < e.id) && !s.loadPerformed r q && q.addrs.any fun a => hit (a.toNat, sizeBits q.size / 8))
  || (x.hamper.any fun h => decide (h.id < e.id) && (s.hamSpans r h).any hit)
  || (x.spr.q.any fun c => decide (c.id < e.id) && (s.sprSpans r c).any hit)
/-- Whether R305 and R307 allow an entry to be performed now: `pre` are the entries before it in the path. -/
def State.allowed (s : State) (r : Nat) (pre : List StrongE) (e : StrongE) : Bool :=
  let x := s.rn r
  let meet (p : StrongE) : Bool := p.spans.any fun a => e.spans.any fun b =>
    meets (a.1.toNat / 8 * 8) (ceilDiv (a.1.toNat % 8 + a.2) 8 * 8) (b.1.toNat / 8 * 8) (ceilDiv (b.1.toNat % 8 + b.2) 8 * 8)
  let passes (p : StrongE) : Bool :=
    match e.i with
    | .lds o => o.ord != .sc && (p.passable && !meet p && decide (p.tries = 0) && !p.held
        || (match p.i with | .fence f => f.ord == .rel | _ => false))
    | .fence f => f.ord == .acq && p.passable
    | _ => false
  !e.held && !x.hamper.any (fun h => !h.committed && decide (h.id < e.id)) && decide (e.issue < s.cycle)
    && (match x.legEnd with | some _ => decide (s.seq ≤ e.id) | none => true)
    && pre.all passes && (!ordRel e.ord || s.plainDone r e.id) && !s.behindPlain r e

/-- Blocks of an entry's access, of a vector AMO those of the lanes still to perform, in order (R305, R466). DEDUCED, log entry 23. -/
def StrongE.blocks (e : StrongE) : List (List Word × Nat) :=
  (blockGroups ((e.spans.drop e.lane).zipIdx.map fun p => (p.2, p.1.1))).map fun g => (g.map (·.2), (e.spans.head?.map (·.2)).getD 8)
/-- The bytes that an entry writes without reading first. -/
def StrongE.data (e : StrongE) (n : Nat) : List Byte :=
  match e.i with
  | .sts _ => natLe n e.s2.toNat
  | .sig o => if o.add then [] else natLe n e.s2.toNat
  | _ => []
/-- Whether an entry's write depends on what it reads. -/
def StrongE.readsFirst (e : StrongE) : Bool :=
  match e.i with
  | .sts _ => false
  | .sig o => o.add
  | _ => true
/-- An entry of a runner changed. -/
def State.modStrong (s : State) (r id : Nat) (f : StrongE → StrongE) : State :=
  s.modR r fun x => { x with strong := x.strong.map fun e => if e.id == id then f e else e }
/-- An entry removed. -/
def State.delStrong (s : State) (r id : Nat) : State :=
  s.modR r fun x => { x with strong := x.strong.filter fun e => e.id != id }
/-- The operation and operands of the AMO lane that an entry performs next; SIG with add as an ADD (R323). DEDUCED, log entry 104. -/
def StrongE.lane1 (e : StrongE) : Option (AmoOp × Nat × Nat) :=
  match e.i with
  | .amo o => some (o.op, e.s2.toNat, e.s3.toNat)
  | .amoVector o => let w := if o.w32 then 32 else 64; some (o.op, bits e.dat.toNat (w * e.lane) w, 0)
  | .sig o => if o.add then some (.add, e.s2.toNat, 0) else none
  | _ => none
/-- How an AMO of n bytes is carried to the host: ADD, SWP and CAS as an AtomicOp; the others as a read and then a CAS of the computed value
from the value last returned (R434). -/
def StrongE.atomic (e : StrongE) (n : Nat) : Option (HostOp × List Byte) :=
  e.lane1.map fun z =>
    match z.1, e.cas with
    | .add, _ => (.fetchAdd, natLe n z.2.1)
    | .swp, _ => (.swap, natLe n z.2.1)
    | .cas, _ => (.cas, natLe n z.2.1 ++ natLe n z.2.2)
    | _, none => (.read, [])
    | op, some m => (.cas, natLe n m ++ natLe n ((amoVal op (8 * n) m z.2.1 z.2.2).getD 0))
/-- Whether an AMO is carried as one AtomicOp of its own (R434). -/
def amoDirect (o : AmoOp) : Bool := o == .add || o == .swp || o == .cas
/-- Whether a vector AMO has a lane left in the host window: its lanes then go one by one (R434). -/
def StrongE.byLane (e : StrongE) (x : Runner) : Bool :=
  match e.i with
  | .amoVector _ => (e.spans.drop e.lane).any fun p => pclass (strongPa x p.1 p.2) == .host
  | _ => false
/-- The requests of an entry entered, eligible from `at_`; beyond a link, an access that reads first sends its read, and to the host an AMO is
sent as R434 says. -/
def State.askStrong (s : State) (r : Nat) (e : StrongE) (at_ : Nat) : State :=
  let x := s.rn r
  let bs := if e.byLane x then (match e.blocks with | b :: _ => [(b.1.take 1, b.2)] | [] => []) else e.blocks
  bs.foldl (fun s b =>
    let els := b.1.map fun a => (strongPa x a b.2, b.2, e.data b.2)
    let local_ := (s.chanOf (els.headD (0, 0, [])).1).isSome
    s.post r els (b.1.headD 0) (e.writes && (local_ || !e.readsFirst)) at_ (.strong r e.id) (e.atomic b.2)) s
/-- Entries of a runner that are allowed now and have not asked for their slots. -/
def State.askStrongs (s : State) (r : Nat) : State :=
  let es := (s.rn r).strong
  (List.range es.length).foldl (fun s k =>
    match es[k]? with
    | some e =>
      if e.elig.isNone && !isFence e.i && e.barsNo == 0 && s.allowed r (es.take k) e then
        let at_ := max (e.issue + 4) (s.cycle + 4)
        (s.modStrong r e.id fun e => { e with elig := some at_ }).askStrong r e at_
      else s
    | none => s) s

/-! ### Releases and acquires (R308, R311) -/

/-- The join of two vectors by `newer`. -/
def joinV (a b : List (BitVec 20)) : List (BitVec 20) :=
  match a, b with
  | [], b => b
  | a, [] => a
  | a, b => (a.zip b).map fun p => stampNewer p.1 p.2
/-- A release of runner r: its number, and the vector carried with the value. -/
def State.release (s : State) (r : Nat) : State × List (BitVec 20) :=
  let x := s.rn r
  match x.squad with
  | none => (s, [])
  | some q =>
    let n := s.srs x + 1
    (s.modSquad q fun z => { z with srs := n }, (x.av.toList.set x.idx n))
/-- Runner r takes a released vector. -/
def State.acquire (s : State) (r : Nat) (v : List (BitVec 20)) : State :=
  if v.isEmpty then s
  else s.modR r fun x => { x with av := Vector.ofFn fun k => stampNewer (x.avGet k.val) (v.getD k.val 0) }
/-- The words of a byte range of physical memory, with the squad they are kept for. -/
def relKeys (x : Runner) (pa n : Nat) : List (Nat × Nat) :=
  (List.range ((pa + n + 3) / 4 - pa / 4)).map fun i => (x.squad.getD 0, pa / 4 + i)
/-- The vector released with the value at some bytes. -/
def State.relAt (s : State) (x : Runner) (pa n : Nat) : List (BitVec 20) :=
  (relKeys x pa n).foldl (fun v k => joinV v (agetD s.mem.rels k [])) []
/-- A vector carried with the value written at some bytes. -/
def State.setRel (s : State) (x : Runner) (pa n : Nat) (v : List (BitVec 20)) : State :=
  if v.isEmpty then s
  else s.modMem fun m => { m with rels := (relKeys x pa n).foldl (fun l k => aput l k v) m.rels }
/-- The read side of an entry: an acquire joins AV, another read keeps what it read for an acquire fence (R308). -/
def State.readSync (s : State) (r : Nat) (e : StrongE) (pa n : Nat) : State :=
  let v := s.relAt (s.rn r) pa n
  if e.scope == .run || v.isEmpty then s
  else if ordAcq e.ord then s.acquire r v
  else s.modR r fun x => { x with facq := joinV x.facq v }
/-- The write side of an entry: the vector of a release, of a release fence before it, and for an AMO what it read. -/
def State.writeSync (s : State) (r : Nat) (e : StrongE) (old v : List (BitVec 20)) (pa n : Nat) : State :=
  let x := s.rn r
  let mine := if e.scope == .run then [] else joinV x.frel v
  s.setRel x pa n (joinV old mine)

/-! ### STRONG_ACCESS_PERFORM -/

/-- Whether a result goes to an LDQ. -/
def StrongE.result (e : StrongE) : Bool :=
  match e.i with
  | .lds _ | .amo _ => true
  | .amoVector o => o.res
  | _ => false
/-- Race of an entry's granules, in ascending address order, or lane order for a vector AMO (R312, R320). -/
def State.strongRace (s : State) (r : Nat) (e : StrongE) (wr : Bool) : Option (Nat × Word) :=
  let x := s.rn r
  e.spans.findSome? fun p =>
    let h := (x.physOf p.1 p.2).getD (16, 0)
    s.raceOf x p.1 p.2 (x.granules h.1 h.2 p.2) wr true
/-- A race of an entry (R313): a load fault of its result, or it holds the path. -/
def State.strongRaced (s : State) (r : Nat) (e : StrongE) (rc : Nat × Word) : State :=
  if e.result then
    (s.modR r fun x => x.modEntry e.id fun q => { faultE 0x08 rc.1 rc.2 q with strong := some { e with elig := none } }).delStrong r e.id
  else (s.modStrong r e.id fun e => { e with held := true, elig := none }).raceA r rc.1 rc.2
/-- A failed read (R466): logged, and tried again at most twice more. -/
def State.strongFailed (s : State) (r : Nat) (e : StrongE) : State :=
  if 2 ≤ e.tries then s.hardFault r .a (s.rn r).leg.s.pc 2
  else (s.modStrong r e.id fun z => { z with tries := e.tries + 1, lane := e.lane, acc := e.acc, rel := e.rel }).askStrong r e (s.cycle + 4)
/-- A write of a runner sent beyond a link once it is known, with a request of its own (R296, R445). -/
def State.sendWrite (s : State) (r pa : Nat) (bs : List Byte) : State :=
  let o := (s.rn r).owner
  (s.addReq r [(pa, bs.length, [])] 0 true s.cycle (.fw 0 o)).sendFar s.seq o [(pa, bs.length, bs)] true
/-- A strong write of some bytes with its record and its released vector; beyond a link it is sent once it is known (R296, R298), but for what
an AtomicOp has written (R434). -/
def State.strongWrite (s : State) (r : Nat) (e : StrongE) (a : Word) (bs : List Byte) (old v : List (BitVec 20)) : State :=
  let x := s.rn r
  let pa := strongPa x a bs.length
  let h := (x.physOf a bs.length).getD (16, 0)
  let cl := pclass pa
  let s := if e.readsFirst && cl == .far then s.sendWrite r pa bs
    else if e.readsFirst && e.lane1.isNone && cl == .host then { s with seq := s.seq + 1 }.sendHost s.seq x.owner [(pa, bs.length, bs)] .write
    else s
  ((s.physWrite r x.owner pa bs).recordAll x (x.granules h.1 pa bs.length) true true e.stamp).writeSync r e old v pa bs.length
/-- An entry's result enters its LDQ: its data is fixed now, and it is FILLED when the last of its slots is L cycles old (R292, R305). -/
def State.strongResult (s : State) (r : Nat) (e : StrongE) (v : VWord) : State :=
  let s := s.modR r fun x => x.modEntry e.id fun q => { q with data := v, stain := e.stain }
  if e.due ≤ s.cycle then s.modR r fun x => x.modEntry e.id fun q => { q with st := .filled }
  else
    { (s.modMem fun m => { m with reqs := m.reqs ++
        [{ id := s.seq, run := r, chan := none, pa := 0, va := e.s1, len := 0, els := [], write := false, data := [], elig := s.cycle,
           order := s.seq, use := .strong r e.id, start := some s.cycle, arrive := some e.due, reply := none, fail := false,
           mend := false }] })
      with seq := s.seq + 1 }
/-- The release of an entry that is one, at a scope others see. -/
def State.entryRelease (s : State) (r : Nat) (e : StrongE) : State × List (BitVec 20) :=
  if ordRel e.ord && e.scope != .run then s.release r else (s, [])

/-- One lane of an AMO performed: the value read, none when the read fails. -/
def State.amoLane (s : State) (r : Nat) (e : StrongE) (v : List (BitVec 20)) (op : AmoOp) (n : Nat) (a : Word) (x y : Nat) :
    State × Option Nat :=
  let me := s.rn r
  let pa := strongPa me a n
  let rd := s.physRead pa n
  if rd.2 then (s.logRead r pa n, none)
  else
    let m := leNat rd.1
    let old := s.relAt me pa n
    let s := s.readSync r e pa n
    match amoVal op (8 * n) m x y with
    | some w => (s.strongWrite r e a (natLe n w) old v, some m)
    | none => (s, some m)
/-- The lanes of a vector AMO from `e.lane` on; none left when every lane has been performed. Its one release is made with the first lane
that is performed (R311, R466). -/
def State.amoRun (s : State) (r : Nat) (e : StrongE) (o : AmoVO) : Nat → State × StrongE × Bool
  | 0 => (s, e, true)
  | k + 1 =>
    let w := if o.w32 then 32 else 64
    let a := amoAddr o e.s1 e.ix e.lane
    if amoLanes o ≤ e.lane then (s, e, true)
    else if (s.physRead (strongPa (s.rn r) a (w / 8)) (w / 8)).2 then (s.logRead r (strongPa (s.rn r) a (w / 8)) (w / 8), e, false)
    else
      let z := match e.rel with | some v => (s, v) | none => s.entryRelease r e
      match z.1.amoLane r e z.2 o.op (w / 8) a (bits e.dat.toNat (w * e.lane) w) 0 with
      | (s, m) => State.amoRun s r { e with
          acc := e.acc ||| (BitVec.ofNat 1024 (m.getD 0) <<< (w * e.lane)), lane := e.lane + 1, rel := some z.2 } o k
/-- BARINIT or BARINV makes every pending arrival on the object stale (R326), the runner's own if issued before it.
DEDUCED, log entry 24. -/
def State.staleArrivals (s : State) (r : Nat) (e : StrongE) : State :=
  let pa := strongPa (s.rn r) e.s1 16
  let hit (x : Runner) (c : SprCmd) : Bool :=
    isArrival c && strongPa x c.s1 16 == pa && (x.num != r || decide (c.id < e.id))
  let upd (x : Runner) : Runner :=
    { x with spr := { x.spr with q := x.spr.q.map fun c => if hit x c then { c with stop := true } else c } }
  { s with runners := s.runners.map upd }
/-- An access that reads its bytes first: failed reads are tried again, otherwise the effect. -/
def State.withRead (s : State) (r : Nat) (e : StrongE) (n : Nat) (k : State → List Byte → State) : State :=
  let pa := strongPa (s.rn r) e.s1 n
  let rd := s.physRead pa n
  if rd.2 then (s.logRead r pa n).strongFailed r e else k s rd.1
/-- The effect of an entry whose race checks have passed. -/
def State.strongEffect (s : State) (r : Nat) (e : StrongE) : State :=
  let x := s.rn r
  let own (n : Nat) : Nat := strongPa x e.s1 n
  match e.i with
  | .lds o =>
    let n := if o.w32 then 4 else 8
    s.withRead r e n fun s b =>
      (((s.readSync r e (own n) n).delStrong r e.id).strongResult r e (BitVec.ofNat 1024 (leNat b)))
  | .sts o =>
    let n := if o.w32 then 4 else 8
    let z := s.entryRelease r e
    ((z.1.strongWrite r e e.s1 (natLe n e.s2.toNat) [] z.2).delStrong r e.id)
  | .sig o =>
    let go (s : State) (v : Nat) : State :=
      let z := s.entryRelease r e
      ((z.1.strongWrite r e e.s1 (natLe 8 v) [] z.2).delStrong r e.id)
    if o.add then s.withRead r e 8 fun s b => go s (leNat b + e.s2.toNat) else go s e.s2.toNat
  | .amo o =>
    let n := if o.w32 then 4 else 8
    s.withRead r e n fun s b =>
      let hit := o.op != .cas || leNat b == e.s2.toNat % 2 ^ (8 * n)
      let z := if hit then s.entryRelease r e else (s, [])
      let q := z.1.amoLane r e z.2 o.op n e.s1 e.s2.toNat e.s3.toNat
      (q.1.delStrong r e.id).strongResult r e (BitVec.ofNat 1024 (q.2.getD 0))
  | .amoVector o =>
    match s.amoRun r e o (if e.byLane x then 1 else 32) with
    | (s, e, true) =>
      if e.lane < amoLanes o then
        let e := { e with cas := none }
        (s.modStrong r e.id fun _ => e).askStrong r e (s.cycle + 4)
      else
        let s := s.delStrong r e.id
        if o.res then s.strongResult r e e.acc else s
    | (s, e, false) => s.strongFailed r e
  | .barinit _ | .barinv _ =>
    s.withRead r e 16 fun s b =>
      let z := (s.readSync r e (own 16) 16).entryRelease r e
      ((z.1.strongWrite r e e.s1 (barBytes e b) [] z.2).delStrong r e.id).staleArrivals r e
  | .bararr _ =>
    let go (s : State) (f : SprCmd → SprCmd) : State :=
      let take (c : SprCmd) : SprCmd := if isArrival c && c.id == e.id then { f c with ok := true } else c
      ((s.readSync r e (own 16) 16).modR r fun x => { x with spr := { x.spr with q := x.spr.q.map take } }).delStrong r e.id
    if e.tries = 0 then go s id else s.withRead r e 16 fun s b => go s fun c => { c with gen := captured b }
  | _ => s
/-- The value that the next CAS request of an AMO in the host window compares: after its read, and after a CAS that found another value (R434). -/
def State.casNext (s : State) (r : Nat) (e : StrongE) : Option Nat :=
  match e.lane1, e.spans[e.lane]? with
  | some (op, _, _), some p =>
    let pa := strongPa (s.rn r) p.1 p.2
    let rd := s.physRead pa p.2
    if amoDirect op || pclass pa != .host || rd.2 || e.cas == some (leNat rd.1) then none else some (leNat rd.1)
  | _, _ => none
/-- A strong access is performed in die order once it has its slots (R305, R312, R313, R466). -/
def execStrongAccessPerform (r n : Nat) (s : State) : Out :=
  match (s.rn r).strong.find? fun e => e.id == n with
  | none => .next s
  | some e =>
    let waiting := s.mem.reqs.any fun q => match q.use with | .strong r' id => r' == r && id == n && q.start.isNone | _ => false
    if e.held || e.elig.isNone || waiting then .next s
    else
      let wr := match e.i with
        | .amo o =>
          let k := if o.w32 then 4 else 8
          o.op != .cas || leNat (s.physRead (strongPa (s.rn r) e.s1 k) k).1 == e.s2.toNat % 2 ^ (8 * k)
        | _ => e.writes
      match (if e.lane = 0 then s.strongRace r e wr else none) with
      | some rc => .next (s.strongRaced r e rc)
      | none =>
        match s.casNext r e with
        | some m => let e := { e with cas := some m }
                    .next ((s.modStrong r e.id fun _ => e).askStrong r e (s.cycle + 4))
        | none => .next (s.strongEffect r e)

/-! ### Fences and BARS -/

/-- A FENCE at its place in program order takes effect (R307, R308, R321). -/
def State.fenceDone (s : State) (r : Nat) (e : StrongE) : State :=
  let s :=
    if ordAcq e.ord && e.scope != .run then
      let v := (s.rn r).facq
      (s.acquire r v).modR r fun x => { x with facq := [] }
    else s
  let z := s.entryRelease r e
  let s := if z.2.isEmpty then z.1 else z.1.modR r fun x => { x with frel := z.2 }
  s.delStrong r e.id
/-- Fences of a runner that may take effect now do so, in program order. -/
def State.fences (s : State) (r : Nat) : State :=
  let es := (s.rn r).strong
  es.foldl (fun s e =>
    let pre := (s.rn r).strong.takeWhile fun z => z.id != e.id
    if isFence e.i && s.allowed r pre e then s.fenceDone r e else s) s
/-- Whether a runner's BARS of a number is at its place and everything before it has been performed. -/
def State.barsReady (s : State) (r : Nat) : Option Nat :=
  match (s.rn r).strong with
  | e :: _ => if e.barsNo != 0 && s.allowed r [] e then some e.barsNo else none
  | [] => none
/-- Release and acquire between every pair of a squad's runners (R311). -/
def State.joinSquad (s : State) (rs : List Nat) : State :=
  let z := rs.foldl (fun (a : State × List (List (BitVec 20))) r =>
    let p := a.1.release r
    (p.1, a.2 ++ [p.2])) (s, [])
  rs.foldl (fun s r => z.2.foldl (fun s v => s.acquire r v) s) z.1
/-- BARS completes when every runner of the squad has issued it (R322). -/
def execBarsComplete (q : Nat) (s : State) : Out :=
  match s.fw.squads.find? fun z => z.id == q with
  | some z =>
    match z.runners.map s.barsReady with
    | some k :: t =>
      if t.all (fun o => o == some k) && z.state == .running then
        .next (z.runners.foldl (fun s r => s.modR r fun x => { x with strong := x.strong.tail }) (s.joinSquad z.runners))
      else .next s
    | _ => .next s
  | none => .next s

/-! ### Barrier arrivals (R326) -/

/-- Whether the arrival at the head, a release, may be performed: its BARARR has been, and every plain access, Sprinter command and Relay
collective before it (R307, R326). -/
def State.arrivalReady (s : State) (r : Nat) (c : SprCmd) : Bool :=
  let x := s.rn r
  c.ok && !c.held && s.plainDone r c.id && !(x.relay.q.any fun q => c.relays.contains q.id)
/-- STALE_BARRIER (R283, R326): the arrival is discarded. -/
def State.discard (s : State) (x : Runner) (r : Nat) (c : SprCmd) : State :=
  let s := s.modR r fun x => { x with
    spr := { x.spr with stale := true }
    relay := if c.relays.isEmpty then x.relay else { x.relay with stale := true } }
  let s := { s with fw := { s.fw with heats := s.fw.heats.map fun (h : Heat) => if h.id == x.heatid then { h with stale := true } else h } }
  s.event x.heatid 2 0 c.s1
/-- The arrival's object after it, or its discard. -/
def State.arrive (s : State) (r : Nat) (c : SprCmd) (b : List Byte) : State :=
  let flags := fieldLe b 12 4
  let x := s.rn r
  let e : StrongE := { s.strongE c.i c.s1 0 0 0 0 false with stamp := c.stamp }
  let pop (s : State) : State := s.modR r fun x => { x with spr := { x.spr with q := x.spr.q.tail, donec := x.spr.donec + 1 } }
  match (if c.stop then none else c.gen) with
  | some g =>
    if flags % 2 = 1 ∧ fieldLe b 0 4 = g.toNat then
      let n := fieldLe b 8 4 + 1
      let done := n = fieldLe b 4 4
      let ph := flags / 2 ^ 16 % 2 ^ 16
      let nb := b.take 8 ++ natLe 4 (if done then 0 else n)
        ++ natLe 4 (if done then flags % 2 ^ 16 + (ph + 1) % 2 ^ 16 * 2 ^ 16 else flags)
      let pa := strongPa x c.s1 16
      let z := (s.readSync r e pa 16).release r
      pop (z.1.strongWrite r e c.s1 nb (s.relAt x pa 16) z.2)
    else pop (s.discard x r c)
  | none => pop (s.discard x r c)
/-- A barrier arrival asks for its slot, and is performed when it has it. -/
def execBarrierArrival (r : Nat) (s : State) : Out :=
  let x := s.rn r
  match x.spr.q with
  | c :: _ =>
    if !isArrival c || !s.arrivalReady r c then .next s
    else
      match c.start with
      | none =>
        let pa := strongPa x c.s1 16
        if x.preempt then .next s
        else .next ((s.modSpr r c.id fun c => { c with start := some s.cycle }).post r [(pa, 16, [])] c.s1 (s.chanOf pa).isSome (s.cycle + 4)
          (.strong r c.id))
      | some _ =>
        if s.mem.reqs.any fun q => match q.use with | .strong r' id => r' == r && id == c.id && q.start.isNone | _ => false then .next s
        else
          let pa := strongPa x c.s1 16
          let h := (x.physOf c.s1 16).getD (16, 0)
          match s.raceOf x c.s1 16 (x.granules h.1 pa 16) true true with
          | some rc => .next ((s.modSpr r c.id fun c => { c with held := true, start := none }).raceA r rc.1 rc.2)
          | none =>
            let rd := s.physRead pa 16
            if rd.2 then
              let s := s.logRead r pa 16
              if 2 ≤ c.issued then .next (s.hardFault r .a x.leg.s.pc 2)
              else .next (s.modSpr r c.id fun c => { c with issued := c.issued + 1, start := none })
            else .next (s.arrive r c rd.1)
  | [] => .next s

/-- The strong-path steps of a runner in a cycle: fences, then requests of the accesses that may be performed. -/
def State.strongSteps (s : State) (r : Nat) : State := if (s.rn r).ackm.getLsbD 0 then s else (s.fences r).askStrongs r

end Sys2Proof.Machine
end

