-- ==== Sys2Proof/Machine/Image.lean ====
section
/-! DEFINITION. The bytes of a context image: header, state blocks, entries, engine block, and the sealed image in memory (R216, R230, R287,
R299, R382-R387). -/

namespace Sys2Proof.Machine

/-! ### Pieces of a layout -/

/-- Bytes in a field of n: cut, or filled with zeros. -/
def padTo (n : Nat) (l : List Byte) : List Byte := (l ++ List.replicate n 0).take n
/-- Entries of n bytes in a section of k places, empty ones zero. -/
def section_ (k n : Nat) (l : List (List Byte)) : List Byte := padTo (k * n) ((l.take k).flatMap (padTo n))
/-- A flag as a bit. -/
def bitAt (b : Bool) (k : Nat) : Nat := if b then 2 ^ k else 0
/-- A vector of words, each of n bytes. -/
def wordsLe (n : Nat) (l : List Nat) : List Byte := l.flatMap (natLe n)
/-- The slot word and the extension byte of an instruction (R41, R50). -/
def slotBytes (i : Instr) : List Byte × List Byte :=
  match encode i with
  | some e => (natLe 4 e.word.toNat, natLe 1 (e.ext.getD 0).toNat)
  | none => (natLe 4 0, [0])

/-! ### Entries (R385) -/

/-- FILE and INDEX of a result. -/
def Dst.code : Dst → Nat × Nat
  | .g i => (0, i.toNat) | .a i => (1, i.toNat) | .va i => (2, i.toNat) | .vb i => (3, i.toNat)
  | .p i => (4, i.toNat) | .ap i => (5, i.toNat) | .sda => (6, 0) | .sdb => (7, 0)
  | .sys n => (8, n.toNat) | .loop .c => (8, 0x008) | .loop .a => (8, 0x00A)
  | .esnapP => (8, 0x013) | .esnapS => (8, 0x014) | .esnapL => (8, 0x015)
/-- The entries that a captured result fills: a LOOPSET or LOOPB has one for each register and predicate it writes (R361). -/
def IfqE.parts (e : IfqE) : List IfqE :=
  let v := e.r.val.toNat
  let one (d : Dst) (n : Nat) : IfqE := { e with r := { e.r with dst := d, val := BitVec.ofNat 1024 n } }
  let preds (f : BitVec 4 → Dst) : List IfqE :=
    ((List.range 8).filter fun j => v.testBit (79 + j)).map fun j => one (f (BitVec.ofNat 4 (8 + j))) (bits v (71 + j) 1)
  match e.r.dst with
  | .loop .c => [one (.sys 0x008) (bits v 0 32), one (.sys 0x009) (bits v 32 32), one (.sys 0x00C) (bits v 64 4), one (.sys 0x00D) (bits v 68 3)]
      ++ preds .p
  | .loop .a => [one (.sys 0x00A) (bits v 0 32), one (.sys 0x00B) (bits v 32 32), one (.sys 0x00E) (bits v 64 4 + bits v 68 3 * 16)] ++ preds .ap
  | _ => [e]
/-- An IFQ entry. -/
def IfqE.bytes (e : IfqE) : List Byte :=
  let c := e.r.dst.code
  natLe 128 e.r.val.toNat ++ natLe 1 c.1 ++ natLe 1 c.2 ++ natLe 1 e.d
    ++ natLe 1 (1 + bitAt e.r.stainW 1 + bitAt e.r.stain 2 + bitAt e.r.poison 3) ++ natLe 2 e.r.mask.toNat
/-- A LAQ entry; `pos` is the place of its entry in its LDQ, `now` that it is of the current leg. -/
def LaqE.bytes (q : LaqE) (pos : Nat) (now : Bool) : List Byte :=
  let op := match q.op with | .lda => 1 | .ldaS => 2 | .ldst => 3 | .ldx => 4 | _ => 0
  natLe 1 op ++ natLe 1 q.size.code ++ natLe 1 (if q.tgt1 then 1 else 0) ++ natLe 1 pos ++ natLe 2 q.addrs.length
    ++ natLe 1 (if q.ag1 then 1 else 0) ++ natLe 1 (if now then 1 else 0) ++ natLe 8 q.base.toNat ++ natLe 8 q.stride.toNat
    ++ natLe 8 0 ++ natLe 16 q.taken.toNat ++ natLe 16 q.arrived.toNat ++ natLe 128 q.idx.toNat ++ natLe 128 q.data.toNat
/-- An LDQ entry. -/
def LdqE.bytes (e : LdqE) : List Byte :=
  natLe 1 (match e.st with | .reserved => 1 | .filled => 2 | .fault => 3) ++ natLe 1 (bitAt e.stain 0 + bitAt e.poison 1 + bitAt e.ue 2)
    ++ natLe 1 e.cause.toNat ++ natLe 1 (if e.ag1 then 1 else 0) ++ natLe 4 0 ++ natLe 8 e.addr.toNat ++ natLe 16 0 ++ natLe 128 e.data.toNat
/-- An SAQ entry. -/
def SaqE.bytes (e : SaqE) : List Byte :=
  let op := match e.op with | .sta => 1 | .stst => 2 | .stx => 3 | _ => 0
  natLe 1 op ++ natLe 1 e.size.code ++ natLe 2 e.addrs.length ++ natLe 4 0 ++ natLe 8 e.base.toNat ++ natLe 8 e.stride.toNat ++ natLe 24 0
    ++ natLe 128 e.idx.toNat
/-- An SDQ or IXQ entry. -/
def VqE.bytes (e : VqE) : List Byte := natLe 8 (bitAt e.stain 0) ++ natLe 128 e.data.toNat
/-- A Hamper entry. -/
def HamE.bytes (h : HamE) : List Byte :=
  let k := match h.kind with | .store => 1 | .tst => 2 | .seal => 3
  let o := if h.kind == .store then (h.base.toNat, h.stride.toNat, 0) else (tileWord h.tile, h.addr.toNat, bits h.row0.toNat 0 16)
  natLe 1 k ++ natLe 1 h.size.code ++ natLe 2 h.addrs.length ++ natLe 4 (bitAt h.committed 0) ++ natLe 8 o.1 ++ natLe 8 o.2.1 ++ natLe 8 o.2.2
    ++ natLe 32 0 ++ natLe 128 h.idx.toNat ++ natLe 128 h.data.toNat
/-- A strong-path entry. -/
def StrongE.bytes (e : StrongE) : List Byte :=
  (slotBytes e.i).1 ++ natLe 4 (1 + bitAt e.held 1) ++ natLe 8 e.s1.toNat ++ natLe 8 e.s2.toNat ++ natLe 8 e.s3.toNat
    ++ natLe 4 e.stamp.toNat ++ natLe 28 0 ++ natLe 128 e.ix.toNat ++ natLe 128 e.dat.toNat

/-! ### State blocks (R384) -/

/-- A pending branch. -/
def brWord (b : Option Br) : Nat :=
  match b with
  | some b => 1 + b.left % 4 * 2 + (match b.target with | some t => 8 + t.toNat / 16 * 16 | none => 0)
  | none => 0
/-- A trap shadow. -/
def tshBytes (t : Option Tsh) : List Byte :=
  match t with
  | some t => natLe 8 (brWord t.br) ++ natLe 8 (bitAt t.exp 0 + t.guards.toNat * 2 + 16)
  | none => natLe 16 0
/-- What the control area holds beside the items of the leg: RWCNT, RWCAUSE, HOLDNP, LOD, the pending or held traps. -/
structure CtlX where
  lod : Nat
  rwcnt : Nat
  rwcause : Nat
  holdNp : Bool
  trapC : Option PTrap
  trapA : Option PTrap
  deriving DecidableEq, Repr
/-- The control area. -/
def ctlBytes (l : Leg) (x : CtlX) : List Byte :=
  let trap := match x.trapC, x.trapA with
    | some t, _ => natLe 8 (xcauseWord t .c).toNat ++ natLe 8 t.xaddr.toNat
    | none, some t => natLe 8 (xcauseWord t .a).toNat ++ natLe 8 t.xaddr.toNat
    | none, none => natLe 16 0
  padTo 0x100 (natLe 4 l.gp.toNat ++ wordsLe 4 [l.va.stain.toNat, l.va.poison.toNat, l.vb.stain.toNat, l.vb.poison.toNat]
    ++ wordsLe 2 [l.c.preds.toNat, l.s.preds.toNat] ++ wordsLe 4 [l.c.lc.toNat, l.c.lfc.toNat, l.s.lc.toNat, l.s.lfc.toNat]
    ++ wordsLe 1 [l.c.rot.toNat, l.c.prot.toNat, l.s.rot.toNat + 16 * l.s.prot.toNat, l.lim.toNat] ++ natLe 4 x.lod
    ++ wordsLe 8 [l.c.sw.toNat, l.s.sw.toNat, l.c.pc.toNat, l.s.pc.toNat, brWord l.c.br, brWord l.s.br,
        l.c.xpc.toNat, l.s.xpc.toNat, l.xcause.toNat, l.xaddr.toNat]
    ++ natLe 4 l.xcnt.toNat ++ wordsLe 2 [l.c.wait, l.s.wait] ++ tshBytes l.c.tsh ++ tshBytes l.s.tsh
    ++ natLe 8 (x.rwcnt % 4 + x.rwcause % 8 * 16 + bitAt l.frozen 8 + bitAt x.holdNp 9 + bitAt l.xleg 10 + bitAt x.trapC.isSome 11 + bitAt x.trapA.isSome 12)
    ++ trap ++ natLe 8 l.cellcfg.toNat)
/-- A state block: the items, both in-flight lists, LAQ and SAQ (empty in the Fold block). -/
def stateBlock (l : Leg) (x : CtlX) (ic ia : List IfqE) (laq : List (List Byte)) (saq : List SaqE) : List Byte :=
  padTo 0xE800 (wordsLe 8 (l.g.toList.map (·.toNat)) ++ wordsLe 8 (l.a.toList.map (·.toNat))
    ++ wordsLe 128 (l.va.d.toList.map (·.toNat)) ++ wordsLe 128 (l.vb.d.toList.map (·.toNat)) ++ natLe 128 l.sda.toNat ++ natLe 128 l.sdb.toNat
    ++ ctlBytes l x ++ section_ 32 144 ((ic.flatMap (·.parts)).map (·.bytes)) ++ section_ 16 144 ((ia.flatMap (·.parts)).map (·.bytes))
    ++ section_ 64 320 laq ++ section_ 32 160 (l.ldq0.map (·.bytes)) ++ section_ 32 160 (l.ldq1.map (·.bytes))
    ++ section_ 32 176 (saq.map (·.bytes)) ++ section_ 32 136 (l.sdq.map (·.bytes)) ++ section_ 16 136 (l.ixq.map (·.bytes))
    ++ section_ 16 8 (l.caq.map fun e => natLe 8 e.val.toNat) ++ section_ 16 8 (l.acq.map fun e => natLe 8 e.val.toNat))
/-- The live state block of a stopped runner. -/
def Runner.liveBlock (x : Runner) : List Byte :=
  let place (q : LaqE) : Nat := (if q.tgt1 then x.leg.ldq1 else x.leg.ldq0).findIdx fun e => e.id == q.id
  stateBlock x.leg
    { lod := x.lod.toNat, rwcnt := x.rwcnt, rwcause := x.rwcause, holdNp := !x.holdNp.isEmpty, trapC := x.cx.trap, trapA := x.ax.trap }
    x.leg.c.ifq x.leg.s.ifq (x.laq.map fun q => q.bytes (place q) (q.leg == x.legNo)) x.saq
/-- The Fold block. -/
def Runner.foldBlock (x : Runner) : List Byte :=
  stateBlock x.fold.leg { lod := 0, rwcnt := x.rwcnt, rwcause := x.rwcause, holdNp := false, trapC := none, trapA := none }
    x.fold.inflC x.fold.inflA [] []

/-! ### The engine block (R386) -/

/-- A bank tag. -/
def AcTag.code : AcTag → Nat
  | .zero => 0 | .f32 => 1 | .s32 => 2 | .f64 => 3
/-- A slot descriptor. -/
def MgSlot.word (m : MgSlot) : Nat :=
  (match m.st with | .free => 0 | .empty => 1 | .filling => 2 | .ready => 3) + Fmt.code m.fmt % 32 * 4 + m.k % 4096 * 2 ^ 7
    + (match m.spn with | some n => (n.code + 1) % 4 | none => 0) * 2 ^ 19 + m.rows % 64 * 2 ^ 21 + bitAt m.rmap 27 + m.rd % 16 * 2 ^ 28
/-- A Press queue entry. -/
def PressCmd.bytes (c : PressCmd) : List Byte :=
  let w := slotBytes c.i
  w.1 ++ w.2 ++ natLe 1 (bitAt c.quar 0 + bitAt c.fei 1 + bitAt c.fez 2 + bitAt c.feo 3) ++ natLe 2 1 ++ natLe 8 c.pc.toNat
/-- A Sprinter queue entry; for BARARR the captured GEN stands in place of rd(D). -/
def SprCmd.bytes (c : SprCmd) : List Byte :=
  (slotBytes c.i).1 ++ natLe 4 (1 + bitAt c.gen.isSome 1 + bitAt c.quar 2) ++ natLe 8 c.s1.toNat ++ natLe 8 c.s2.toNat
    ++ natLe 8 (match c.gen with | some g => g.toNat | none => c.sd.toNat)
/-- A Relay queue entry. -/
def RelCmd.bytes (c : RelCmd) : List Byte :=
  (slotBytes c.i).1 ++ natLe 4 (1 + bitAt c.quar 2) ++ natLe 8 (tileWord c.tile) ++ natLe 8 c.mask.toNat
/-- The engine block; `srs` is that of the squad. -/
def Runner.engineBlock (x : Runner) (srs : BitVec 20) : List Byte :=
  let p := x.press
  let tags := (p.ac.toList.zipIdx.map fun b => b.1.tag.code * 4 ^ b.2).sum
  let cls := match p.held with | some .invalid => 1 | some .divzero => 2 | some .overflow => 3 | none => 0
  padTo 0x1000 (wordsLe 8 [p.esc, x.spr.esc, x.relay.esc]
    ++ natLe 8 (tags + bitAt p.pend 16 + bitAt p.held.isSome 17 + cls * 2 ^ 18 + p.shdw.toNat * 2 ^ 20)
    ++ wordsLe 8 (p.mg.toList.map (·.word)) ++ wordsLe 4 (p.mg.toList.map (·.stain.toNat)) ++ wordsLe 4 (p.ac.toList.map (·.stain.toNat))
    ++ section_ 4 32 (p.fq.map (·.bytes)) ++ section_ 8 32 (p.cq.map (·.bytes))
    ++ section_ 16 32 (x.spr.q.map (·.bytes)) ++ section_ 4 32 (x.relay.q.map (·.bytes))
    ++ section_ 64 16 (x.relay.seqs.map fun e => natLe 8 e.1 ++ natLe 4 e.2 ++ natLe 4 1)
    ++ wordsLe 4 (x.av.toList.map (·.toNat)) ++ natLe 4 srs.toNat)

/-! ### The body and the header (R382, R383) -/

/-- A tile-table entry as 48 bytes (R216). -/
def Tile.bytes (e : Tile) : List Byte :=
  natLe 48 (1 + e.rdr % 16 * 2 ^ 32 + (match e.state with | .empty => 0 | .filling => 1 | .ready => 2 | .draining => 3) * 2 ^ 36 + bitAt e.rmap 38
    + Fmt.code e.fmt % 32 * 2 ^ 39 + (e.rows - 1) % 256 * 2 ^ 44 + e.pitch % 2 ^ 16 * 2 ^ 52 + e.base % 2 ^ 28 * 2 ^ 68 + e.stain.toNat * 2 ^ 128)
/-- The entries of a tile table of n places. -/
def tableBytes (n : Nat) (l : List (Nat × Tile)) : List Byte :=
  (List.range n).flatMap fun k => match aget l k with | some e => e.bytes | none => natLe 48 0
/-- An extent-table entry as 24 bytes (R230). -/
def Extent.bytes (e : Extent) : List Byte :=
  natLe 24 (bitAt e.r 0 + bitAt e.w 1 + bitAt e.so 2 + bitAt e.p 3 + 16 + e.vbase / 2 ^ 12 % 2 ^ 44 * 2 ^ 20 + e.len % 2 ^ 56 * 2 ^ 64
    + e.pbase / 2 ^ 12 % 2 ^ 44 * 2 ^ 140)
/-- A window section: its entries, then its bytes. -/
def windowBytes (w : Window) (z : List (Nat × Tile) × Memory) : List Byte := tableBytes w.count z.1 ++ z.2.read 0 w.size
/-- Bytes of a window section. -/
def Window.imgLen (w : Window) : Nat := 48 * w.count + w.size
/-- Whether the image of a runner carries its cluster's Tub section: no runner of its squad in the cluster has a lower index (R383). -/
def State.carriesTub (s : State) (x : Runner) : Bool :=
  !s.runners.any fun y => y.squad == x.squad && y.squad.isSome && clusterOf y.num == clusterOf x.num && decide (y.idx < x.idx)
/-- IMGLEN of the image of a runner (R383). -/
def State.imgLen (s : State) (x : Runner) : Nat :=
  0x2B0000 + (if s.carriesTub x then x.tubWin.imgLen else 0) + (if x.idx = 0 then x.vatWin.imgLen else 0)
/-- Whether an image carries the Tub section: that of the lowest index of each cluster (R383). -/
def Image.hasTub (i : Image) : Bool := decide (0x2B0000 + (if i.idx = 0 then i.run.vatWin.imgLen else 0) < i.len)
/-- The body of an image. -/
def Image.body (i : Image) : List Byte :=
  let x := i.run
  x.liveBlock ++ x.foldBlock ++ section_ 64 320 (x.hamper.map (·.bytes)) ++ x.engineBlock i.srs
    ++ padTo 0x200 ((List.range 16).flatMap (fun k => match aget x.extents k with | some e => e.bytes | none => natLe 24 0)
        ++ wordsLe 8 [x.tubWin.count + x.tubWin.size * 2 ^ 32, x.vatWin.count + x.vatWin.size * 2 ^ 32])
    ++ tableBytes 256 x.tiles ++ x.press.ac.toList.flatMap (fun b => padTo 4096 (wordsLe 4 (b.d.map (·.toNat))))
    ++ section_ 16 320 (x.strong.map (·.bytes)) ++ padTo 0x900 []
    ++ x.press.mg.toList.flatMap (fun m => padTo 0x8000 (if m.st == .free then [] else wordsLe 1024 (m.d.map (·.toNat))))
    ++ x.basin.read 0 0x200000
    ++ (if i.hasTub then windowBytes x.tubWin i.tub else []) ++ (if i.idx = 0 then windowBytes x.vatWin i.vat else [])
/-- Bytes 0 to 111 of the header, which are authenticated. -/
def Image.head (i : Image) : List Byte :=
  padTo 112 ([0x43, 0x54, 0x58, 0x49] ++ natLe 2 1 ++ natLe 2 i.owner ++ natLe 8 i.nonce ++ natLe 8 i.heat.toNat ++ natLe 2 i.sqn ++ natLe 1 i.idx
    ++ natLe 1 (i.nrun - 1) ++ natLe 1 (bitAt i.gen 0) ++ natLe 1 (bitAt i.hasTub 0 + bitAt (i.idx == 0) 1) ++ natLe 2 0
    ++ wordsLe 8 [i.len, i.split, i.hbase, i.nbase] ++ natLe 4 (if i.hasTub then i.run.tubWin.imgLen else 0)
    ++ natLe 4 (if i.idx = 0 then i.run.vatWin.imgLen else 0) ++ natLe 8 i.time)
/-- The whole of an image as it stands in memory: header with TAG and COMMIT, then the body under the tenant's MEM key of generation GEN. -/
def State.sealedImage (s : State) (i : Image) : List Byte :=
  let z := Config.gcmSeal (s.memKey i.owner i.gen) (natLe 8 i.nonce ++ natLe 2 i.owner ++ [0, 0]) i.head i.body
  i.head ++ padTo 16 z.2 ++ natLe 8 i.commit ++ padTo 120 [] ++ z.1
/-- Where an image lies: bytes [0, SPLIT) at HBASE, the rest at NBASE + SPLIT (R382). -/
def Image.parts (i : Image) : List (Nat × Nat) := [(i.hbase, i.split), (i.nbase + i.split, i.len - i.split)].filter fun p => p.2 != 0
/-- An image written, the header after the body. -/
def State.putImage (s : State) (i : Image) : State :=
  let bs := s.sealedImage i
  s.physWrites 0x1FF i.owner ([(i.hbase, bs.take i.split), (i.nbase + i.split, (bs.drop i.split).take (i.len - i.split))].filter fun p => !p.2.isEmpty)
/-- Whether an image in memory passes the checks of R387 on its bytes: MAGIC, VERSION, OWNER, COMMIT, and TAG, which verifies exactly for the
bytes that the save or a sweep wrote. DEDUCED, log entry 33. -/
def State.imageHeld (s : State) (i : Image) : Bool :=
  let rd := i.parts.map fun p => s.physRead p.1 p.2
  !rd.any (·.2) && rd.flatMap (·.1) == s.sealedImage i

end Sys2Proof.Machine
end

