-- ==== Sys2Proof/Machine/MemEvents.lean ====
section
/-! DEFINITION. Calendars and memory events: store matching, data slots and arrivals, laps, mending, rotation sweeps, data-rate
changes (R220, R259, R290-R297, R312, R338, R339, R341, R342, R419-R421, R448). -/

namespace Sys2Proof.Machine

/-- Core cycles in some microseconds, at 1.4 GHz (R35). DEDUCED, log entry 58. -/
def usec (n : Nat) : Nat := 1400 * n

/-! ### Store matching (R341) -/

/-- The SAQ head meets its SDQ entry and becomes a Hamper entry; none does once a 65th entry has been asked for (R368). -/
def execStoreMatch (r : Nat) (s : State) : Out :=
  let x := s.rn r
  match x.saq, x.leg.sdq with
  | e :: _, d :: _ =>
    if !d.shown || x.rewind.isSome || x.hamFull then .next s
    else if (s.queueReads r).2 then .next ((s.queueReads r).1.rewind r 2 [])
    else
      let s := (s.queueReads r).1
      let h : HamE :=
        { id := e.id, kind := .store, size := e.size, base := e.base, stride := e.stride, idx := e.idx, addrs := e.addrs, data := d.data, i := .nop { sl := .a, pos := 0, g := { p := 0, neg := false } },
          tile := { lvl := .basin, idx := 0 }, addr := 0, row0 := 0, nonce := 0, committed := false, left := none, held := false,
          quar := x.quar, stamp := e.stamp, leg := e.leg, issue := e.issue, cno := 0, key := 0 }
      let s := s.modR r fun x => { (x.modLeg fun l => { l with sdq := l.sdq.tail }).free .sdq s.cycle with saq := x.saq.tail }
      .next (s.addHam r h)
  | _, _ => .next s

/-! ### Elements of a load performed (R304, R312, R338, R342) -/

/-- What performing an element gives. -/
inductive ElemRes
  | ok (bs : List Byte) (stain : Bool)
  | race (detail : Nat) (a : Word)
  | failed
  deriving DecidableEq, Repr
/-- A memory element of a load performed. -/
def State.memElem (s : State) (r : Nat) (q : LaqE) (a : Word) : State × ElemRes :=
  let x := s.rn r
  let n := sizeBits q.size / 8
  let h := (x.physOf a n).getD (16, 0)
  let gs := x.granules h.1 h.2 n
  match s.raceOf x a n gs false false with
  | some rc => (s, .race rc.1 rc.2)
  | none =>
    let s := s.recordAll x gs false false q.stamp
    let rd := s.physRead h.2 n
    if rd.2 then (s.logRead r h.2 n, .failed) else (s, .ok (x.forward q.id a.toNat rd.1) false)
/-- Whether some byte among n of a level that an uncorrectable word touches lies outside every row-mapped tile (R342). -/
def State.loadErrs (s : State) (r : Nat) (l : Lvl) (off n : Nat) : Bool :=
  let b := ((s.rn r).window l).base
  let bad := s.spFails r l off n
  let rm := (s.tilesIn r l off n).filter fun t => t.2.rmap
  let hit (lo hi : Nat) : Bool := bad.any fun f => meets (b + lo) (hi - lo) f.unit (unitOf f.arr)
  (List.range n).any fun j => hit (off + j) (off + j + 1) &&
    !rm.any fun t => decide (t.2.base ≤ off + j ∧ off + j < t.2.base + t.2.rows * t.2.pitch)
/-- A scratchpad element of a load performed: its stain is that of every row it touches of row-mapped tiles (R338), and an uncorrectable
word stains the rows of such tiles that it touches (R221). -/
def State.scratchElem (s : State) (r : Nat) (q : LaqE) (a : Word) : State × ElemRes :=
  let x := s.rn r
  let n := sizeBits q.size / 8
  match x.scratch a n with
  | none => (s, .failed)
  | some (l, off) =>
    let gs := spGranules x l off n
    match s.raceOf x a n gs false false with
    | some rc => (s, .race rc.1 rc.2)
    | none =>
      let s := s.recordAll x gs false false q.stamp
      let stained := (s.tilesIn r l off n).any fun t => t.2.rmap && (t.2.rowsOf off n).any t.2.stain.getLsbD
      let bad := s.spFails r l off n
      let z := s.loadErrs r l off n
      let s := ((s.logWords r bad).spCorrects r l off n).stainUnits r l bad
      if z then (s, .failed) else (s, .ok (x.forward q.id a.toNat (s.spRead r l off n)) (stained || !bad.isEmpty))

/-- A load of a runner. -/
def Runner.laqE (x : Runner) (id : Nat) : Option LaqE := x.laq.find? fun q => q.id == id
/-- A load changed. -/
def State.modLaq (s : State) (r id : Nat) (f : LaqE → LaqE) : State :=
  s.modR r fun x => { x with laq := x.laq.map fun q => if q.id == id then f q else q }
/-- A load that met an uncorrectable word: none of its later elements is accessed, in memory or in a level, and its entry fills with UE when
this one would have arrived (R342). -/
def State.ueLoad (s : State) (r id : Nat) : State :=
  (s.modLaq r id fun q => { q with ue := true, taken := ~~~0 }).modMem fun m => { m with reqs := m.reqs.filter fun z =>
    match z.use with
    | .load r' id' _ => !(r' == r && id' == id && (z.start.isNone || isScratch z.va))
    | _ => true }
/-- Elements arrive: their bytes join the result, and the entry is FILLED with the last of them (R338). -/
def State.fillElems (s : State) (r id : Nat) (els : List (Nat × List Byte)) (stain : Bool) : State :=
  let s := (s.queueWrites r).modLaq r id fun q =>
    let e := sizeBits q.size
    { q with
      data := els.foldl (fun d p => d ||| (BitVec.ofNat 1024 (leNat p.2) <<< (e * p.1))) q.data
      arrived := q.arrived ||| elemBits (els.map (·.1))
      stain := q.stain || stain }
  match (s.rn r).laqE id with
  | some q =>
    if (List.range q.addrs.length).all q.arrived.getLsbD then
      (s.dropLoad r id).modR r fun x => (x.modEntry id fun e =>
        { e with st := .filled, data := q.data, stain := q.stain, poison := false, ue := q.ue })
    else s
  | none => s
/-- A load's entry fills with UE (R342); of a speculative load it is poisoned. -/
def State.fillUe (s : State) (r id : Nat) : State :=
  match (s.rn r).laqE id with
  | some q =>
    if q.op == .ldaS then s.failLoad r q 0 0 0
    else (s.dropLoad r id).modR r fun x => x.modEntry id fun e => { e with st := .filled, data := q.data, ue := true }
  | none => s

/-! ### Requests at their slot -/

/-- A request changed. -/
def State.modReq (s : State) (id : Nat) (f : Req → Req) : State :=
  s.modMem fun m => { m with reqs := m.reqs.map fun q => if q.id == id then f q else q }
/-- A request removed. -/
def State.delReq (s : State) (id : Nat) : State := s.modMem fun m => { m with reqs := m.reqs.filter fun q => q.id != id }
/-- The elements of a load's request performed in order: their bytes, or why the load fails. -/
def State.performEls (s : State) (r : Nat) (q : LaqE) : List Nat → State × List (Nat × List Byte) × ElemRes
  | [] => (s, [], .ok [] false)
  | k :: t =>
    match s.memElem r q (q.addrs.getD k 0) with
    | (s, .ok bs _) =>
      match State.performEls s r q t with
      | (s, l, z) => (s, (k, bs) :: l, z)
    | (s, z) => (s, [], z)
/-- Store elements of a committed entry performed in order by one write, up to the first that races (R313, R341, R465). -/
def State.storeEls (s : State) (r : Nat) (h : HamE) (els : List Nat) : State × Option (Nat × Word) :=
  let x := s.rn r
  let n := sizeBits h.size / 8
  let at_ (k : Nat) : Nat × Nat := (x.physOf (h.addrs.getD k 0) n).getD (16, 0)
  let grans (k : Nat) : List Granule := x.granules (at_ k).1 (at_ k).2 n
  let race (k : Nat) : Option (Nat × Word) := s.raceOf x (h.addrs.getD k 0) n (grans k) true false
  let go := els.takeWhile fun k => (race k).isNone
  let t := if go.isEmpty then s else s.physWrites r x.owner (go.map fun k => ((at_ k).2, elemBytes h.data (sizeBits h.size) k))
  (go.foldl (fun t k => t.recordAll x (grans k) true false h.stamp) t, (els.drop go.length).head?.bind race)
/-- The requests of a Hamper entry dropped. -/
def State.dropStore (s : State) (r id : Nat) : State :=
  s.modMem fun m => { m with reqs := m.reqs.filter fun z => match z.use with | .store r' id' _ => !(r' == r && id' == id) | _ => true }
/-- The bytes of some elements as they wait for their arrival. -/
def packEls (l : List (Nat × List Byte)) : List Byte := l.flatMap (·.2)
/-- Where the model keeps the sideband of a line that a peer has leased: its 56-bit tag, which the lessor only stores (R297, R299).
DESIGN CHOICE, log entry 75. -/
def sideband (pa : Nat) : Nat := 2 ^ 57 + pa / 64 * 8
/-- The tile a TDEF names. -/
def TabOp.tile (t : TabOp) (x : Runner) : Option TileId :=
  match t.i with
  | .tdef _ => x.tileId t.s1
  | _ => none
/-- The A slice goes on after a table operation. -/
def State.endTable (s : State) (r : Nat) : State :=
  s.modR r fun x => { (x.modSt .a fun t => { t with wait := max t.wait (s.cycle + 1) }) with tabop := none }
/-- A table operation traps at its slot (R224, R244). DEDUCED, log entry 73. -/
def State.tableTrap (s : State) (r : Nat) (t : TabOp) (cause detail : Nat) (xaddr : Word) : State :=
  (s.endTable r).takeTrap r .a (PTrap.mk' cause detail 3 xaddr) t.pc t.guards t.br t.marked
/-- A descriptor or image read that races: it is not performed, a tile that the operation reserved is free again, and RACE is taken at the
operation's slot, which reads again after RFT (R303, R313). DEDUCED, log entry 73. -/
def State.tableRace (s : State) (r : Nat) (t : TabOp) (detail : Nat) (xaddr : Word) : State :=
  let s := s.modMem fun m => { m with reqs := m.reqs.filter fun q => match q.use with | .table r' => r' != r | _ => true }
  (match t.tile (s.rn r) with | some k => s.setTile r k none | none => s).tableTrap r t 0x08 detail xaddr
/-- Whether a request is a peer's. -/
def Req.isLease (q : Req) : Bool := match q.use with | .lease .. => true | _ => false
/-- What a line or block of a lent range holds: ciphertext and tag as the lessee wrote them (R297). -/
def State.lentBlock (s : State) (i line : Nat) : List Byte :=
  match aget s.tabs.leases i with
  | some e =>
    if e.len ≤ 64 * line then agetD e.resv line (List.replicate 71 0)
    else s.mem.phys.read (e.lbase + 64 * line) 64 ++ s.mem.phys.read (sideband (e.lbase + 64 * line)) 7
  | none => []
/-- The failed lines that firmware reads logged (R301). -/
def State.logFw (s : State) (o pa n : Nat) : State :=
  (linesOf pa n).foldl (fun s ln => if (s.line ln).failed then s.logLine 0x1FF o (ln * 64) else s) s
/-- A request performed in its slot: reads take their bytes and arrive `lat` cycles later, writes are done (R292). -/
def State.performReq (s : State) (q : Req) (lat : Nat) : State :=
  let wait (s : State) (bs : List Byte) (bad : Bool) : State :=
    s.modReq q.id fun z => { z with start := some s.cycle, arrive := some (s.cycle + lat), data := bs, fail := bad }
  let s := match q.use with | .lease .. | .fw .. | .held _ => s | _ => s.meterBytes (s.rn q.run).owner q.els q.write
  match q.use with
  | .load r id els =>
    match (s.rn r).laqE id with
    | none => s.delReq q.id
    | some e =>
      match s.performEls r e els with
      | (s, l, .ok _ _) => wait s (packEls l) false
      | (s, _, .race d a) => (s.delReq q.id).failLoad r e 0x08 d a
      | (s, _, .failed) => (wait s [] true).ueLoad r id
  | .store r id els =>
    match (s.rn r).hamper.find? fun h => h.id == id with
    | none => s.delReq q.id
    | some h =>
      match s.storeEls r h els with
      | (s, some rc) => (s.dropStore r id).holdHam r rc.1 rc.2
      | (s, none) =>
        let s := s.delReq q.id
        match h.left with
        | some (k + 2) => s.modHam r id fun h => { h with left := some (k + 1) }
        | _ => (s.delHam r id).drainHamper r
  | .chunk r id k =>
    match s.performBlock r id k (q.va.toNat / 256) with
    | (s, some (bs, bad)) => wait s bs bad
    | (s, none) => s.delReq q.id
  | .strong r id =>
    let s := (s.delReq q.id).modStrong r id fun e => { e with due := max e.due (s.cycle + lat) }
    let more := s.mem.reqs.any fun z => match z.use with | .strong r' id' => r' == r && id' == id && z.start.isNone | _ => false
    if more then s
    else
      let act := match (s.rn r).strong.find? fun e => e.id == id with
        | some _ => Act.strongAccessPerform r id
        | none => .barrierArrival r
      { s with agenda := .act act :: s.agenda }
  | .table r =>
    let x := s.rn r
    let h := (x.physOf q.va q.len).getD (16, 0)
    let gs := x.granules h.1 h.2 q.len
    match x.tabop, s.raceOf x q.va q.len gs false false with
    | some t, some rc => (s.delReq q.id).tableRace r t rc.1 rc.2
    | some t, none =>
      let s := s.recordAll x gs false false t.stamp
      let rd := s.physRead q.pa q.len
      wait (if rd.2 then s.logRead q.run q.pa q.len else s) rd.1 rd.2
    | none, _ => s.delReq q.id
  | .fw _ o =>
    let s := s.delReq q.id
    if !q.write then s.logFw o q.pa q.len
    else if q.data.isEmpty then s
    else s.physWrite 0x1FF o q.pa q.data
  | .held _ => s
  | .lease i line seqNo =>
    let s := s.delReq q.id
    let s := match aget s.tabs.leases i with
      | some e =>
        let late := match aget e.applied line with | some n => decide (seqNo ≤ n) | none => false
        if !q.write || late then s
        else if e.len ≤ 64 * line then
          { s with tabs := { s.tabs with leases := aput s.tabs.leases i { e with
            resv := aput e.resv line (q.data.take 71), applied := aput e.applied line seqNo } } }
        else
          { (s.modMem fun m => { m with phys := (m.phys.write q.pa (q.data.take 64)).write (sideband q.pa) ((q.data.drop 64).take 7) }) with
            tabs := { s.tabs with leases := aput s.tabs.leases i { e with applied := aput e.applied line seqNo } } }
      | none => s
    s.send (.leaseReply i line true (if q.write then [] else s.lentBlock i line))

/-! ### Data slots (R290, R291, R296) -/

/-- A calendar; unlisted ones have no owners, holders or backlog. -/
def State.chan (s : State) (ch : Nat) : Chan :=
  agetD s.mem.chans ch { own := [], hold := [], due := [], mend := none, stop := false, act := [], badpar := [], mitq := [], stalled := [] }
/-- A calendar changed. -/
def State.modChan (s : State) (ch : Nat) (f : Chan → Chan) : State :=
  s.modMem fun m => { m with chans := aput m.chans ch (f (s.chan ch)) }
/-- The position of the lap that begins in a cycle. -/
def slotPos (now : Nat) : Nat := now % 256 / 4
/-- Whether an inserted mending lap runs. -/
def Chan.mending (c : Chan) (now : Nat) : Bool := match c.mend with | some b => decide (b ≤ now ∧ now < b + 256) | none => false
/-- Whether a data slot begins now. -/
def Chan.dataOpen (c : Chan) (now : Nat) : Bool :=
  decide (now % 4 = 0 ∧ slotPos now % 8 ≠ 7) && !c.mending now && !c.stop
/-- Whether an earlier load of the runner still has an element for this channel that has asked for no slot (R291 rule 3). -/
def State.blockedLoad (s : State) (ch r id : Nat) : Bool :=
  let x := s.rn r
  x.laq.any fun q => decide (q.id < id) && (q.addrs.zipIdx.any fun p =>
    !q.taken.getLsbD p.2 && !isScratch p.1 && s.chanOf ((x.physOf p.1 (sizeBits q.size / 8)).getD (0, 0)).2 == some ch)
/-- The number of the load a request belongs to. -/
def Req.loadId (q : Req) : Option Nat := match q.use with | .load _ id _ => some id | _ => none
/-- Whether an element of a load below those of a request has not been performed: elements are performed in ascending order (R338). -/
def State.elemsBefore (s : State) (q : Req) : Bool :=
  match q.use with
  | .load r id els => s.mem.reqs.any fun z =>
      match z.use with
      | .load r' id' ks => r' == r && id' == id && z.id != q.id && (isScratch z.va || z.start.isNone)
          && decide (ks.foldl min 128 < els.foldl min 128)
      | _ => false
  | _ => false
/-- A request of a runner that may take the slot: eligible, and no earlier load request of the runner before it.
DEDUCED, log entry 59. -/
def State.servable (s : State) (ch : Nat) (q : Req) : Bool :=
  decide (q.elig ≤ s.cycle) && !s.elemsBefore q &&
  match q.loadId with
  | some id => !s.blockedLoad ch q.run id && !s.mem.reqs.any fun z => z.run == q.run && z.chan == some ch && z.start.isNone &&
      match z.loadId with
      | some id' => decide (id' < id ∨ (id' = id ∧ z.order < q.order))
      | none => false
  | none => true
/-- The oldest of some requests by eligibility, then runner, then order. DEDUCED, log entry 59. -/
def oldest (l : List Req) : Option Req :=
  l.foldl (fun b q => match b with
    | none => some q
    | some z => if q.elig < z.elig ∨ (q.elig = z.elig ∧ (q.run < z.run ∨ (q.run = z.run ∧ q.order < z.order))) then some q else b) none
/-- The request a data slot of a channel serves now. DEDUCED, log entry 59. -/
def State.slotChoice (s : State) (ch : Nat) : Option Req :=
  let c := s.chan ch
  let pos := slotPos s.cycle
  let reqs := s.mem.reqs.filter fun q => q.chan == some ch && q.start.isNone && !q.mend
  let mine := reqs.filter fun q => !q.isLease && s.servable ch q
  match aget c.hold pos with
  | some r => oldest (mine.filter fun q => q.run == r)
  | none =>
    match oldest (mine.filter fun q => !c.hold.any fun h => h.2 == q.run) with
    | some q => some q
    | none =>
      let ownerOf (q : Req) : Nat := match q.use with | .lease i _ _ => (match aget s.tabs.leases i with | some e => e.owner | none => 0x7FF) | _ => 0x7FF
      let free (o : Nat) : Bool := (List.range 64).any fun p => p % 8 != 7 && agetD c.own p 0x7FF == o && (aget c.hold p).isNone
      let here := agetD c.own pos 0x7FF
      oldest (reqs.filter fun q => q.isLease && decide (q.elig ≤ s.cycle) &&
        (here == ownerOf q || (!free (ownerOf q) && here == 0x7FF)))
/-- DATA_SLOT: the slot of a channel that begins now serves its request. DEDUCED, log entry 22. -/
def execDataSlot (ch : Nat) (s : State) : Out :=
  if (s.chan ch).dataOpen s.cycle then
    match s.slotChoice ch with
    | some q =>
      let s := s.modReq q.id fun z => { z with start := some s.cycle }
      .next (s.performReq q (chanLatency ch q.run))
    | none => .next s
  else .next s

/-! ### Arrivals (R292, R338) -/

/-- The bytes of a request's elements, in order. -/
def unpackEls (els : List Nat) (n : Nat) (bs : List Byte) : List (Nat × List Byte) :=
  els.zipIdx.map fun p => (p.1, (bs.drop (n * p.2)).take n)
/-- Whether a load's element finds the bytes of its scratchpad address in a tile that is FILLING (R220). -/
def State.levelFills (s : State) (q : Req) : Bool :=
  match q.use with
  | .load r id _ =>
    isScratch q.va && match (s.rn r).laqE id with
    | some e => (match (s.rn r).scratch q.va (sizeBits e.size / 8) with
      | some (l, off) => (s.tilesIn r l off (sizeBits e.size / 8)).any fun t => t.2.state == .filling
      | none => false)
    | none => false
  | _ => false
/-- The effect of a request's arrival. -/
def State.arriveReq (s : State) (q : Req) : State :=
  let s := s.delReq q.id
  match q.use with
  | .load r id els =>
    match (s.rn r).laqE id with
    | none => s
    | some e =>
      let n := sizeBits e.size / 8
      if q.fail then s.fillUe r id
      else if !isScratch q.va then s.fillElems r id (unpackEls els n q.data) false
      else
        if ((s.rn r).scratch q.va n).isNone then s
        else if s.elemsBefore q || s.levelFills q then s.modMem fun m => { m with reqs := m.reqs ++ [{ q with arrive := some (s.cycle + 1) }] }
        else
          match s.scratchElem r e q.va with
          | (s, .ok bs st) => s.fillElems r id [(els.headD 0, bs)] st
          | (s, .race d a) => s.failLoad r e 0x08 d a
          | (s, .failed) => s.fillUe r id
  | .chunk r id k => s.arriveBlock r id k (q.va.toNat / 256) q.data q.fail
  | .strong r id => s.modR r fun x => x.modEntry id fun e => { e with st := .filled }
  | .table r =>
    s.modR r fun x => match x.tabop with
      | some t => { x with tabop := some (if q.fail then { t with bad := true }
          else { t with img := if q.va == t.s2 then q.data ++ t.img else t.img ++ q.data }) }
      | none => x
  | _ => s
/-- DATA_ARRIVAL: the data of request n has come. -/
def execDataArrival (n : Nat) (s : State) : Out :=
  match s.mem.reqs.find? fun q => q.id == n with
  | some q => (match q.arrive with
    | some c => if c ≤ s.cycle then .next (s.arriveReq q) else .next s
    | none => .next s)
  | none => .next s
/-- The answer to a far-tier or host-window request taken: it is performed and arrives at once; of a failed one the lines read fail for
this access (R297, R298, R301). DEDUCED, log entry 25. -/
def State.takeReply (s : State) (q : Req) (a : LinkAns) : State :=
  let ls := (q.els.flatMap fun p => linesOf p.1 p.2).eraseDups
  let was := s.mem.lines
  let ok := a == .good
  let t := if ok then s else s.modMem fun m => { m with
    lines := ls.foldl (fun l ln => aput l ln { s.line ln with failed := true, ecc := a == .error }) m.lines }
  let t := t.performReq q 0
  let t := if pclass q.pa == .far then t.farBack q.id ls q.write (match q.use with | .fw .. => [] | _ => (s.rn q.run).reqGranules q.va q.els) else t
  let t := if ok || q.write then t else t.modMem fun m => { m with
    lines := ls.foldl (fun l ln => match aget was ln with | some e => aput l ln e | none => adel l ln) m.lines }
  match t.mem.reqs.find? fun z => z.id == q.id with
  | some z => if z.arrive.isSome then t.arriveReq z else t
  | none => t
/-- Whether an answer may be taken: after the earlier elements of its load (R338), and a far-tier request not before its 1,200 cycles are over
and after the earlier ones of its runner (R296). DEDUCED, log entry 25. -/
def State.replyDue (s : State) (q : Req) : Bool :=
  !s.elemsBefore q && (pclass q.pa != .far || (decide (q.elig + 1196 ≤ s.cycle)
    && !s.mem.reqs.any fun z => z.run == q.run && z.chan.isNone && z.start.isNone && pclass z.pa == .far && decide (z.order < q.order)))
/-- Every answer taken that may be. -/
def State.takeReplies (s : State) : State :=
  (s.mem.reqs.filter fun q => q.reply.isSome && q.start.isNone).foldl (fun s q =>
    if s.replyDue q && s.mem.reqs.any (fun z => z.id == q.id) then s.takeReply q (q.reply.getD .error) else s) s
/-- An answer to a far-tier or host-window request has come. DEDUCED, log entry 25. -/
def State.linkReply (s : State) (n : Nat) (a : LinkAns) : State := (s.answered n a).takeReplies
/-- The messages of request n that wait for an answer, by entry. -/
def State.farMsgs (s : State) (n : Nat) : List FarMsg := s.tabs.leases.flatMap fun e => e.2.unanswered.filter fun m => m.req == n
/-- What a reply brings for the reads of a request, 71 bytes each in their order: whether every tag verifies under the counter that its tree
held when the read was sent (R297, R300, R301). -/
def State.farVerifies (s : State) (n : Nat) (data : List Byte) : Bool :=
  ((s.farMsgs n).filter fun m => !m.write).zipIdx.all fun p =>
    let d := (data.drop (71 * p.2)).take 71
    d.length == 71 && leNat (d.drop 64) == (s.lineTag p.1.want p.1.addr (d.take 64)).toNat
/-- LEASE_REPLY (R297): nothing passes a port that is not in session (R444); a reply whose tag or counter check fails, that of its lines or of a
node or record with them, counts as an uncorrectable error. DEDUCED, log entry 25. -/
def execLeaseReply (m : LeaseRep) (ok : Bool) (s : State) : Out :=
  if !s.bnd.portUp.getLsbD m.port then .next s
  else
    let a : LinkAns := if !ok then .error else if s.farVerifies m.req m.data then .good else .forged
    .next ((({ s with tabs := { s.tabs with leases := s.tabs.leases.map fun e =>
      (e.1, { e.2 with unanswered := e.2.unanswered.filter fun w => w.req != m.req }) } } : State).flit m.port true).linkReply m.req a)
/-- HOST_COMPLETION (R434): what a read or AtomicOp brings is what the window holds then. DEDUCED, log entry 25. -/
def execHostCompletion (n : Nat) (ok : Bool) (data : List Byte) (s : State) : Out :=
  match s.mem.reqs.find? fun q => q.id == n && q.chan.isNone && q.start.isNone with
  | some q =>
    if pclass q.pa != .host then .next s
    else
      let s := if ok && !q.write then s.modMem fun m => { m with phys := m.phys.write q.pa (data.take q.len) } else s
      .next (s.linkReply n (if ok then .good else .error))
  | none => .next s

/-! ### Laps and mending (R293, R419-R421) -/

/-- LAP_BOUNDARY: owner changes that are due, the end of a stop, and the test of MITQ. -/
def execLapBoundary (ch : Nat) (s : State) : Out :=
  if s.cycle % 256 ≠ 0 then .next s
  else
    let retr := decide (ch < 384) && s.mem.retrain.any fun p => p.1 == ch / 32
    .next (s.modChan ch fun c =>
      let now := c.due.filter fun d => (aget c.hold d.1).isNone
      { c with
        own := now.foldl (fun l d => if d.2 = 0x7FF then adel l d.1 else aput l d.1 d.2) c.own
        due := c.due.filter fun d => (aget c.hold d.1).isSome
        stop := c.stop && retr
        mend := if 6 < c.mitq.length then some s.cycle else none })
/-- Whether a leaf has lines under the old generation of its owner's key. -/
def Tables.oldLeaf (t : Tables) (o : Nat) (e : Leaf) : Bool :=
  e.owner == o && e.gen != (t.tkey o).curgen && decide (e.pa < hostBase ∧ e.swept < e.size / 64)
/-- The next line of the channels that a tenant's sweep rewrites: the leaf and its line index (R259). -/
def Tables.nextSwept (t : Tables) (o : Nat) : Option (Leaf × Nat) :=
  if !(t.tkey o).sweep then none
  else (t.leaves.find? fun e => t.oldLeaf o e && pclass e.pa != .far).map fun e => (e, e.swept)
/-- A line rewritten by a sweep under the current generation: its minor counter rises as at any write, and it is counted along its path; of
one that is not listed the page's own count shows the new counter (R259, R300, R301). -/
def State.sweepLine (s : State) (o ln : Nat) : State :=
  let g := (s.tabs.tkey o).curgen
  match aget s.mem.lines ln with
  | some l => if l.gen == g && l.owner == o then s else s.putLine o g ln false
  | none => match s.leafOf ln with | some k => s.countPath k | none => s
/-- A line of a leaf rewritten by the sweep. -/
def State.sweepLeaf (s : State) (e : Leaf) : State :=
  let g := (s.tabs.tkey e.owner).curgen
  let last := e.swept + 1 = e.size / 64
  let s := s.sweepLine e.owner (e.pa / 64 + e.swept)
  let s := { s with tabs := { s.tabs with leaves := s.tabs.leaves.map fun f =>
    if f == e then (if last then { f with gen := g, swept := 0 } else { f with swept := f.swept + 1 }) else f } }
  if last then s.modMem fun m => { m with fills := bump2 m.fills (e.pa, e.size) } else s
/-- The die and Vat window of a squad on its runners. -/
def State.vatOf (s : State) (z : Squad) : Option (Nat × Window) :=
  if z.state == .running || z.state == .saving then z.runners.head?.map fun r => (dieOf r, (s.rn r).vatWin) else none
/-- Lines of a squad's Vat window still under the old generation: neither swept nor rewritten by a store. -/
def State.vatLeft (s : State) (z : Squad) : Nat :=
  let g := (s.tabs.tkey z.owner).curgen
  match s.vatOf z with
  | some (d, w) =>
    if z.vatGen == g then 0
    else w.size / 64 - z.vatSwept - (s.mem.lines.filter fun l => l.2.gen == g && l.2.owner == z.owner
      && decide (vatLine d (w.base / 64 + z.vatSwept) ≤ l.1 ∧ l.1 < vatLine d ((w.base + w.size) / 64))).length
  | none => 0
/-- Lines of saved images and of Vat windows still under the old generation. -/
def State.oldOther (s : State) (o : Nat) : Nat :=
  let g := (s.tabs.tkey o).curgen
  let im := (s.fw.images.filter fun z => z.owner == o && z.gen != g).map fun z => ceilDiv z.len 64 - z.swept
  im.sum + ((s.fw.squads.filter fun z => z.owner == o).map s.vatLeft).sum
/-- Lines of a leaf still under the old generation. -/
def State.leafLeft (s : State) (e : Leaf) : Nat :=
  let g := (s.tabs.tkey e.owner).curgen
  e.size / 64 - e.swept - (s.mem.lines.filter fun l => l.2.gen == g && l.2.owner == e.owner
    && decide (e.pa / 64 + e.swept ≤ l.1 ∧ l.1 < (e.pa + e.size) / 64)).length
/-- REMAIN of a tenant (R259): 64 bytes for each line of its pages, images and Vat windows under the old generation.
DEDUCED, log entry 26. -/
def State.remain (s : State) (o : Nat) : Nat :=
  if !(s.tabs.tkey o).sweep then 0
  else 64 * (((s.tabs.leaves.filter (s.tabs.oldLeaf o)).map s.leafLeft).sum + s.oldOther o)
/-- A squad's Vat window swept by one line. -/
def State.sweepVat (s : State) (z : Squad) : State :=
  let g := (s.tabs.tkey z.owner).curgen
  match s.vatOf z with
  | some (d, w) =>
    let last := w.size / 64 ≤ z.vatSwept + 1
    let s := s.sweepLine z.owner (vatLine d (w.base / 64 + z.vatSwept))
    let s := s.modSquad z.id fun z => if last then { z with vatGen := g, vatSwept := 0 } else { z with vatSwept := z.vatSwept + 1 }
    if last then s.modMem fun m => { m with fills := bump2 m.fills (64 * vatLine d (w.base / 64), w.size) } else s
  | none => s
/-- One line of a leased window, an image or a Vat window rewritten; with its last line an image has its new GEN and TAG (R382).
DEDUCED, log entry 26. -/
def State.sweepOther (s : State) (o : Nat) : State :=
  let g := (s.tabs.tkey o).curgen
  match s.tabs.leaves.find? (s.tabs.oldLeaf o) with
  | some e => s.sweepLeaf e
  | none =>
    match s.fw.images.find? fun z => z.owner == o && z.gen != g with
    | some z =>
      let last := ceilDiv z.len 64 ≤ z.swept + 1
      let z' : Image := if last then { z with gen := g, swept := 0 } else { z with swept := z.swept + 1 }
      let s : State := { s with fw := { s.fw with images := s.fw.images.map fun i => if i == z then z' else i } }
      if last then s.putImage z' else s
    | none =>
      match s.fw.squads.find? fun z => z.owner == o && z.vatGen != g && (s.vatOf z).isSome with
      | some z => s.sweepVat z
      | none => s
/-- Whether a tenant's sweep has lines left that no channel of this module carries. -/
def State.otherLeft (s : State) (o : Nat) : Bool := s.tabs.leaves.any (s.tabs.oldLeaf o) || decide (0 < s.oldOther o)
/-- Tenants whose sweep has work for a channel. -/
def State.sweeper (s : State) (ch : Nat) : Option Nat :=
  (s.tabs.tkeys.find? fun e => e.2.sweep &&
    match s.tabs.nextSwept e.1 with
    | some (l, k) => s.chanOf (l.pa + 64 * k) == some ch
    | none => s.otherLeft e.1).map (·.1)
/-- The calendar whose mending slots re-encrypt the lines of a leaf (R300). -/
def leafChan (k : Nat × Nat) : Nat := if k.1 < 12 then 32 * k.1 + k.2 / 245760 else 384 + 2 * k.2 % 12
/-- The failed lines of a calendar, which its scrub can find. -/
def State.badLines (s : State) (ch : Nat) : List Nat :=
  (s.mem.lines.filter fun l => l.2.failed && decide (l.1 < 2 ^ 52) && s.chanOf (64 * l.1) == some ch).map (·.1)
/-- A mitigation is done: the row's field is clear, and a row that waited for the entry is precharged, which enters it (R420). -/
def Chan.mitigated (c : Chan) (row : Nat × Nat) : Chan :=
  let c := { c with mitq := c.mitq.tail, act := adel c.act row, badpar := c.badpar.filter fun p => p != row }
  match c.stalled with
  | r :: t => { c with mitq := c.mitq ++ [r], stalled := t }
  | [] => c
/-- MENDING_SLOT, in the order of R421: mitigation; tree write-backs and race-record traffic, with the re-encryption of a leaf whose major
counter rose; scrub, which logs a failed line that it reads; a rotation sweep. Then the lines that firmware moves (R302). Positions 7 and 39
carry refresh. DEDUCED, log entry 26. DESIGN CHOICE, log entry 103. -/
def execMendingSlot (ch : Nat) (s : State) : Out :=
  let c := s.chan ch
  let pos := slotPos s.cycle
  let here := decide (s.cycle % 4 = 0) && !c.stop && (decide (pos % 8 = 7) || c.mending s.cycle)
  if !here || pos = 7 || pos = 39 then .next s
  else
    match c.mitq with
    | row :: _ => .next (s.modChan ch fun c => c.mitigated row)
    | [] =>
      match s.mem.reenc.find? fun k => leafChan k == ch with
      | some k => .next (s.reencStep k)
      | none =>
        if c.mending s.cycle || Config.writesBack ch s.cycle then .next s
        else
          let bad := s.badLines ch
          match (Config.scrubs ch s.cycle bad.length).bind fun i => bad[i]? with
          | some ln => .next (s.logLine 0x1FF (s.line ln).owner (64 * ln))
          | none =>
            match s.sweeper ch with
            | some o =>
              match s.tabs.nextSwept o with
              | some (e, _) => .next (s.sweepLeaf e)
              | none => .next (s.sweepOther o)
            | none =>
              match oldest (s.mem.reqs.filter fun q => q.chan == some ch && q.start.isNone && q.mend && decide (q.elig ≤ s.cycle)) with
              | some q => .next (s.performReq q 0)
              | none => .next s
/-- ROW_PRECHARGE: the activation that ends is counted and the row tested (R419, R420). A row at threshold that finds MITQ full is not
precharged until an entry frees; a row that waits so is already open. DEDUCED, log entry 26. DESIGN CHOICE, log entry 103. -/
def execRowPrecharge (ch bank row : Nat) (s : State) : Out :=
  let c := s.chan ch
  let k := (bank, row)
  if c.stalled.contains k then .next s
  else
    let n := min 0x7FFF (agetD c.act k 0 + 1)
    let bad := c.badpar.contains k || Config.parityFails ch bank row s.cycle
    let s := if bad then s.logErr (if ch < 384 then 7 else 8) (if ch < 384 then ch / 32 else 0)
        { addr := Config.rowLine ch bank row, owner := 0x7FF, run := 0x1FF, arr := if ch < 384 then 7 else 8, syn := 0xFE, cnt := 0,
          inj := false, ue := false } else s
    let enters := (decide (s.bnd.actth ≤ n) || n == 0x7FFF || bad) && !c.mitq.contains k
    let full := decide (4096 ≤ c.mitq.length)
    .next (s.modChan ch fun c => { c with
      act := aput c.act k n
      badpar := if bad && !c.badpar.contains k then c.badpar ++ [k] else c.badpar
      mitq := if enters && !full then c.mitq ++ [k] else c.mitq
      stalled := if enters && full then c.stalled ++ [k] else c.stalled })
/-- The leaves of far-tier trees whose major counter rose: their lines go out again under it, in the lessor's slots (R296, R300). -/
def State.farReenc (s : State) : State :=
  (s.mem.reenc.filter fun k => decide (17 ≤ k.1)).foldl (fun s k =>
    let s := (s.reencrypt k).modMem fun m => { m with reenc := m.reenc.filter fun z => z != k }
    match s.leafLines k with
    | [] => s
    | ls => { s with seq := s.seq + 1 }.sendAgain s.seq ls) s
/-- SWEEP_COMPLETE (R259). -/
def execSweepComplete (o : Nat) (s : State) : Out :=
  let k := s.tabs.tkey o
  if !k.sweep || s.remain o ≠ 0 then .next s
  else
    let old := if k.curgen then k.mem0 else k.mem1
    .next { s with tabs := { s.tabs with
      keys := match old with | some i => adel s.tabs.keys i | none => s.tabs.keys
      tkeys := aput s.tabs.tkeys o { k with
        sweep := false, rotcnt := k.rotcnt + 1
        mem0 := if k.curgen then none else k.mem0
        mem1 := if k.curgen then k.mem1 else none } } }

/-! ### Data rates (R294, R448) -/

/-- The channels of a stack stopped or not. -/
def State.stopStack (s : State) (k : Nat) : State :=
  (List.range 32).foldl (fun s c => s.modChan (32 * k + c) fun z => { z with stop := true }) s
/-- Whether a save streams to stack k: one of the pleat that covers its base (R288, R294). DEDUCED, log entry 33. -/
def State.streamsTo (s : State) (k : Nat) (e : Save) : Bool :=
  e.split.isNone && pclass e.base == .hbm && match s.tabs.pleatOf e.base with
    | some p => p.smask.getLsbD k
    | none => e.base / (hbmBytes / 12) == k
/-- DATA_RATE_CHANGE: a requested change of stack k begins its retraining; it waits for a save with a deadline, a thermal trip
does not: what is left of the save goes to the near tier (R294). -/
def execDataRateChange (k : Nat) (s : State) : Out :=
  let trip := s.mem.trip.getLsbD k
  let want := trip || s.bnd.hbmReq.getLsbD k
  if 12 ≤ k ∨ want = s.mem.low.getLsbD k ∨ (s.mem.retrain.any fun p => p.1 == k) ∨ (s.fw.saving.any (s.streamsTo k) && !trip)
      ∨ (!trip && s.mem.rateDue.any fun p => p.1 == k && decide (s.cycle < p.2)) then .next s
  else
    let s := s.modMem fun m => { m with
      low := if want then m.low ||| (1#12 <<< k) else m.low &&& ~~~(1#12 <<< k)
      retrain := m.retrain ++ [(k, s.cycle + 1 + Config.within 6 k s.cycle % usec 40)]
      rateDue := m.rateDue.filter fun p => p.1 != k }
    let cut (e : Save) : Save :=
      if s.streamsTo k e then { e with split := some (Config.within 8 e.run s.cycle % s.imgLen (s.rn e.run)) } else e
    .next ({ s with seq := s.seq + 1, fw := { s.fw with saving := s.fw.saving.map cut } }.stopStack k)
/-- RETRAINING_DONE: the calendars of stack k resume at the next lap boundary. -/
def execRetrainingDone (k : Nat) (s : State) : Out :=
  match s.mem.retrain.find? fun p => p.1 == k with
  | some p => if p.2 ≤ s.cycle then .next (s.modMem fun m => { m with retrain := m.retrain.filter fun p => p.1 != k }) else .next s
  | none => .next s

/-! ### Steps of a cycle -/

/-- Arrivals due, then the slots of the channels that have work. -/
def memSteps (s : State) : List Todo :=
  let due := s.mem.reqs.filter fun q => match q.arrive with | some c => decide (c ≤ s.cycle) | none => false
  let chs := ((s.mem.reqs.filter fun q => q.start.isNone && !q.mend).filterMap (·.chan)).eraseDups
  let lap := if s.cycle % 256 = 0 then
      (s.mem.retrain.filter fun p => decide (p.2 ≤ s.cycle)).map (fun p => .act (.retrainingDone p.1)) ++
      s.mem.chans.map fun c => .act (.lapBoundary c.1) else []
  let mend := if s.cycle % 4 = 0 then
      let pos := slotPos s.cycle
      let swept := (s.tabs.tkeys.filter fun e => e.2.sweep).filterMap fun e => match s.tabs.nextSwept e.1 with
        | some (l, k) => s.chanOf (l.pa + 64 * k)
        | none => some 0
      let busy := (s.mem.chans.filter fun c => !c.2.mitq.isEmpty).map (·.1)
        ++ (s.mem.lines.filter fun l => l.2.failed && decide (l.1 < 2 ^ 52)).filterMap (fun l => s.chanOf (64 * l.1))
        ++ (s.mem.reqs.filter (·.mend)).filterMap (·.chan)
      ((swept ++ busy ++ s.mem.reenc.map leafChan).eraseDups.filter fun c => pos % 8 == 7 || (s.chan c).mending s.cycle).map fun c => .act (.mendingSlot c)
    else []
  let swp := (s.tabs.tkeys.filter fun e => e.2.sweep && s.remain e.1 == 0).map fun e => .act (.sweepComplete e.1)
  let rate := (List.range 12).filterMap fun k =>
    if (s.mem.trip.getLsbD k || s.bnd.hbmReq.getLsbD k) == s.mem.low.getLsbD k then none else some (.act (.dataRateChange k))
  due.map (fun q => .act (.dataArrival q.id)) ++ lap ++ rate ++
    (if s.cycle % 4 = 0 then chs.map fun c => .act (.dataSlot c) else []) ++ mend ++ swp

end Sys2Proof.Machine
end

