-- ==== Sys2Proof/Machine/TableOps.lean ====
section
/-! DEFINITION. The tables: tile definition and query, shape, extent and key queries, KEYROT, KEYLD, SCRUB, the partition writes and
what each writes (R214-R266). -/

namespace Sys2Proof.Machine

/-! ### Queries (R226, R229, R233, R260) -/

/-- The answer of a table query, after 4 cycles. -/
def query (s : State) (u : Use) (v : Nat) : Out := .next (s.dstW u 0 4 (BitVec.ofNat 64 v) false)
/-- TSTATE selectors 0 to 7 of a defined entry. -/
def tstateVal (e : Tile) (sel : Nat) : Nat :=
  let st := match e.state with | .empty => 0 | .filling => 1 | .ready => 2 | .draining => 3
  match sel with
  | 0 => st + 4 + e.rdr % 16 * 8 + (if e.rmap then 128 else 0) + Fmt.code e.fmt * 256
  | 1 => e.base
  | 2 => e.rows
  | 3 => e.pitch
  | k => e.stain.toNat / 2 ^ (64 * (k - 4)) % 2 ^ 64
/-- TSTATE (R226): the entry without the effects of this cycle's issues. -/
def execTstate (o : QueryO) (s : State) : Out :=
  slotGo (.tstate o) s fun u s =>
    let x := s.me
    match o.sel.toNat with
    | 8 => query s u (x.tubWin.count + x.tubWin.size * 2 ^ 32)
    | 9 => query s u (x.vatWin.count + x.vatWin.size * 2 ^ 32)
    | k =>
      match x.tileId (s.src u 0) with
      | none => s.trapWhole u 0x02 2
      | some t => query s u (match s.tileSeen s.cur.run t with | some e => tstateVal e k | none => 0)
/-- SHPR (R229). -/
def execShpr (o : QueryO) (s : State) : Out :=
  slotGo (.shpr o) s fun u s =>
    match s.me.shape (bits (s.src u 0).toNat 0 16) with
    | none => query s u 0
    | some z => query s u (match o.sel.toNat with
      | 0 => z.base
      | 1 => z.rank % 8 + z.fmt % 32 * 8 + z.rights % 4 * 256 + 1024
      | k => if k < 7 then z.exts.getD (k - 2) 0 else z.strides.getD (k - 7) 0)
/-- EXTR.Q (R233). -/
def execExtrQ (o : QueryO) (s : State) : Out :=
  slotGo (.extrQ o) s fun u s =>
    let v := (s.src u 0).toNat
    let x := s.me
    match o.sel.toNat with
    | 0 =>
      let hit := (List.range 16).findSome? fun i => (aget x.extents i).bind fun e =>
        if e.vbase ≤ v ∧ v + 1 ≤ e.vbase + e.len then some (i, e) else none
      query s u (match hit with
        | some (i, e) => i + 16 + (if e.r then 32 else 0) + (if e.w then 64 else 0) + (if e.so then 128 else 0) + (if e.p then 256 else 0)
        | none => 0)
    | k =>
      if 15 < v then s.trapWhole u 0x02 2
      else query s u (match aget x.extents v with
        | none => 0
        | some e => match k with
          | 1 => e.vbase
          | 2 => e.len
          | _ => (if e.r then 1 else 0) + (if e.w then 2 else 0) + (if e.so then 4 else 0) + (if e.p then 8 else 0) + 16)
/-- The code of a key entry's kind. -/
def kindCode : KeyKind → Nat
  | .mem => 1
  | .seal => 2
  | .model => 3
/-- KEYQ (R260). -/
def execKeyq (o : QueryO) (s : State) : Out :=
  slotGo (.keyq o) s fun u s =>
    let x := s.me
    let v := (s.src u 0).toNat
    let own := if x.atH then bits v 0 11 else x.owner
    let k := s.tabs.tkey own
    match o.sel.toNat with
    | 0 => query s u (if 1024 < own then 0 else
        (if k.curgen then 1 else 0) + (if k.sweep then 2 else 0) + (if k.sealIx.isSome then 4 else 0)
        + (if k.mem0.isSome || k.mem1.isSome then 8 else 0) + k.rotcnt.toNat * 2 ^ 32)
    | 1 => query s u (if 1024 < own then 0 else s.remain own)
    | 2 => query s u (if 1024 < own then 0 else k.sealctr)
    | 3 => query s u (match aget s.tabs.keys (bits v 0 12) with
        | some e => if !x.atH && e.owner != x.owner then 0
            else kindCode e.kind + (if e.gen then 4 else 0) + e.owner % 2 ^ 11 * 8 + e.modelid % 2 ^ 16 * 2 ^ 16
        | none => 0)
    | k => query s u (s.bnd.m.toNat / 2 ^ (64 * (k - 4)) % 2 ^ 64)

/-! ### Operations that hold the A slice (R224, R246) -/

/-- Requests for the image of a table operation. -/
def State.askImage (s : State) (r : Nat) (a : Word) (n elig : Nat) : State :=
  (blocksOf a.toNat n).foldl (fun s p =>
    let va := BitVec.ofNat 64 p.1
    s.post r [((((s.rn r).physOf va p.2).getD (0, 0)).2, p.2, [])] va false elig (.table r)) s
/-- A table operation begun: it ends the leg, reads its image, and holds the A slice. -/
def State.beginTable (s : State) (i : Instr) (s1 s2 : Word) (need : Nat) : Out :=
  let r := s.cur.run
  let t : TabOp :=
    { id := s.seq, i := i, s1 := s1, s2 := s2, pc := s.cur.pc, guards := s.cur.guards.getD 0, br := s.savedBr .a, marked := s.cur.marked, issue := s.cycle,
      img := [], need := need, applied := false, tries := 0, bad := false, done := none, stamp := s.srs s.me, saves := [] }
  let s := { s.modMe (fun x => { x with tabop := some t }) with seq := s.seq + 1, cur := { s.cur with endLeg := true } }
  .next (if need = 0 then s else s.askImage r s2 need (s.cycle + 4))
/-- The image address is checked as a read before any slot of the bundle commits (R246); stores of earlier bundles first. -/
def imageChecked (u : Use) (s : State) (a : Word) (n : Nat) (k : State → Out) : Out :=
  if s.me.saqWaits s.cycle then s.waits
  else if isScratch a then s.fatalBundle .a 0x20 a u.pos
  else match s.me.check a n true false false with
    | .ok _ _ => k s
    | .bounds => s.fatalBundle .a 0x20 a u.pos
    | .notPresent i => s.npBundle [i]
/-- A reserved tile index (R224). DEDUCED, log entry 55. -/
def Tile.reserved : Tile :=
  { stain := 0, base := 0, pitch := 0, rows := 1, fmt := .s8, rmap := false, state := .filling, rdr := 0, resv := true }
/-- TDEF (R224). -/
def execTdef (o : GSS) (s : State) : Out :=
  slotGo (.tdef o) s fun u s =>
    match s.me.tileId (s.src u 0) with
    | none => s.trapWhole u 0x02 2
    | some t =>
      if (s.tile s.cur.run t).isSome || (s.tileSeen s.cur.run t).isSome then s.trapWhole u 0x02 5
      else imageChecked u s (s.src u 1) 32 fun s =>
        State.beginTable (s.remakeTile s.cur.run t (some Tile.reserved)) (.tdef o) (s.src u 0) (s.src u 1) 32
/-- TFREE (R225): other bundles see the change from the next cycle; it waits too where a command of this cycle has just taken the tile.
DEDUCED, log entry 69. -/
def execTfree (o : GS) (s : State) : Out :=
  slotGo (.tfree o) s fun u s => tileArg u s 0 fun t e => needRole s t e .dest fun s =>
    if s.me.saqWaits s.cycle || !(match s.tile s.cur.run t with | some f => roleReady f .dest | none => false) then s.waits
    else .next { s.remakeTile s.cur.run t none with seq := s.seq + 1, cur := { s.cur with endLeg := true } }
/-- A partition write or KEYLD (R245, R246). -/
def pwIssue (i : Instr) (s : State) (n : Nat) : Out :=
  slotGo i s fun u s => imageChecked u s (s.src u 1) n fun s => s.beginTable i (s.src u 0) (s.src u 1) n
/-- PWQUOTA. -/
def execPwquota (o : GSS) (s : State) : Out := pwIssue (.pwquota o) s 64
/-- PWPLEAT. -/
def execPwpleat (o : GSS) (s : State) : Out := pwIssue (.pwpleat o) s 32
/-- PWLAP. -/
def execPwlap (o : GSS) (s : State) : Out := pwIssue (.pwlap o) s 16
/-- PWLEASE. -/
def execPwlease (o : GSS) (s : State) : Out := pwIssue (.pwlease o) s 48
/-- PWGRAN. -/
def execPwgran (o : GSS) (s : State) : Out := pwIssue (.pwgran o) s 16
/-- PWWEIGHT. -/
def execPwweight (o : GSS) (s : State) : Out := pwIssue (.pwweight o) s 16
/-- KEYLD (R258). -/
def execKeyld (o : GSS) (s : State) : Out := pwIssue (.keyld o) s 64
/-- An operation without an image (R246). -/
def bareIssue (i : Instr) (s : State) : Out :=
  slotGo i s fun _ s => if s.me.saqWaits s.cycle then s.waits else s.beginTable i 0 0 0
/-- KEYROT (R259). -/
def execKeyrot (o : GO) (s : State) : Out := bareIssue (.keyrot o) s
/-- SCRUB (R264). -/
def execScrub (o : GO) (s : State) : Out := bareIssue (.scrub o) s

/-! ### Entries and their refusals (R244-R258) -/

/-- The lowest reason of some conditions (R244). -/
def refuse (l : List (Bool × Nat)) : Option Nat :=
  (l.filterMap fun p => if p.1 then some p.2 else none).foldl (fun b n => match b with | none => some n | some m => some (min m n)) none
/-- Whether any of some bit ranges of an image is not zero. -/
def resv (v : Nat) (l : List (Nat × Nat)) : Bool := l.any fun p => bits v p.1 p.2 != 0
/-- An owner's quota entry; the reset values of R247. -/
def Tables.quotaOf (t : Tables) (o : Nat) : Quota :=
  agetD t.quota o (if o = 0 then
      { rmask := ~~~0, qslot := 512, maxlease := 256, keymax := 4096, maxrun := 256, mode := .shared }
    else { rmask := 0, qslot := 0, maxlease := 0, keymax := 0, maxrun := 0, mode := .none })
/-- An owner's quota as it is in force for running work: an increase counts from the next scheduling round (R266). A later table write is
checked against the entry itself, since it sees the writes before it (R459). DEDUCED, log entry 97. -/
def Tables.quotaInForce (t : Tables) (o : Nat) : Quota := agetD t.quotaNow o (t.quotaOf o)
/-- What is in force between the write of a new entry over an old one and the next scheduling round (R266). -/
def Quota.lowered (old new : Quota) : Quota :=
  { rmask := old.rmask &&& new.rmask, qslot := min old.qslot new.qslot, maxlease := min old.maxlease new.maxlease,
    keymax := min old.keymax new.keymax, maxrun := min old.maxrun new.maxrun, mode := if old.mode == .none then .none else new.mode }
/-- A scheduling round begins: written quotas are in force, and a lowered PMAX is (R266). -/
def State.quotaRound (s : State) : State :=
  { s with tabs := { s.tabs with
    quotaNow := []
    weight := s.tabs.weight.map fun e => (e.1, { e.2 with pcur := min e.2.pcur e.2.pmax }) } }
/-- An owner's weight entry. -/
def Tables.weightOf (t : Tables) (o : Nat) : Weight := agetD t.weight o { w := 1, cur := 1, pmax := 7, pcur := 7 }
/-- An owner's granularity entry. -/
def Tables.granOf (t : Tables) (o : Nat) : Gran := agetD t.gran o { quantum := 0, near := false }
/-- The mode of a code. -/
def modeOf : Nat → QMode
  | 1 => .fixed
  | 2 => .shared
  | _ => .none
/-- The quota entry of an image. -/
def quotaImg (v : Nat) : Quota :=
  { rmask := BitVec.ofNat 256 (v / 2 ^ 256), qslot := bits v 112 16, maxlease := bits v 96 9, keymax := bits v 80 13,
    maxrun := bits v 64 9, mode := modeOf (bits v 1 2) }
/-- A quota entry written (R247, R248). -/
def State.putQuota (s : State) (o v : Nat) (aligned : Bool) : Except Nat State :=
  let q := quotaImg v
  let clash := q.mode == .fixed && (List.range 1025).any fun p => p != o && (s.tabs.quotaOf p).mode == .fixed
    && ((s.tabs.quotaOf p).rmask &&& q.rmask) != 0
  match refuse [(decide (1024 < o), 1), (resv v [(128, 128), (105, 7), (93, 3), (73, 7), (3, 61), (0, 1)], 2),
      (!aligned || bits v 1 2 == 3 || decide (256 < q.maxrun ∨ 256 < q.maxlease ∨ 4096 < q.keymax ∨ 512 < q.qslot), 3), (clash, 4)] with
  | some n => .error n
  | none => .ok { s with tabs := { s.tabs with
      quota := aput s.tabs.quota o q, quotaNow := aput s.tabs.quotaNow o ((s.tabs.quotaInForce o).lowered q) } }
/-- A weight entry written (R249, R266); WEIGHT counts from the next fairness window, a lowered PMAX from the next scheduling round. -/
def State.putWeight (s : State) (o v : Nat) (aligned : Bool) : Except Nat State :=
  match refuse [(decide (1024 < o), 1), (resv v [(35, 93), (16, 16)], 2), (!aligned || bits v 0 16 == 0, 3)] with
  | some n => .error n
  | none =>
    let e : Weight := { w := bits v 0 16, cur := (s.tabs.weightOf o).cur, pmax := bits v 32 3, pcur := (s.tabs.weightOf o).pcur }
    .ok { s with tabs := { s.tabs with weight := aput s.tabs.weight o e } }
/-- A granularity entry written (R250). -/
def State.putGran (s : State) (o v : Nat) (aligned : Bool) : Except Nat State :=
  match refuse [(decide (1024 < o), 1), (resv v [(14, 82), (0, 2)], 2),
      (!aligned || decide (10000 < bits v 96 32) || v.testBit 13 || bits v 2 10 != 0, 3)] with
  | some n => .error n
  | none => .ok { s with tabs := { s.tabs with gran := aput s.tabs.gran o { quantum := bits v 96 32, near := v.testBit 12 } } }

/-- The pleat of an image, its bases not yet allocated. -/
def pleatImg (v : Nat) : Pleat :=
  { cmask := BitVec.ofNat 32 (bits v 224 32), smask := BitVec.ofNat 12 (bits v 212 12), gran := bits v 208 4, owner := bits v 192 11,
    len := bits v 128 56, pbase := bits v 64 56, bases := [] }
/-- Bytes of each channel that a pleat takes. -/
def Pleat.share (p : Pleat) : Nat := p.len / max 1 p.chans.length
/-- The lowest 2 MiB-aligned channel-local range free of some ranges: at most one try past each (R288). -/
def lowestFree (used : List (Nat × Nat)) (n : Nat) : Nat → Nat → Option Nat
  | 0, _ => none
  | k + 1, a =>
    match used.find? fun u => decide (a < u.1 + u.2 ∧ u.1 < a + n) with
    | some u => lowestFree used n k (ceilDiv (u.1 + u.2) (2 ^ 21) * 2 ^ 21)
    | none => if a + n ≤ 0x78000000 then some a else none
/-- The bases of a pleat beside the other pleats; none when a channel has no room. -/
def Tables.allocPleat (t : Tables) (ix : Nat) (p : Pleat) : Option (List (Nat × Nat)) :=
  let others := (t.pleats.filter fun e => e.1 != ix).map (·.2)
  (p.chans.foldr (fun c l =>
    match l, lowestFree ((others.filter fun q => q.chans.contains c).map fun q => (agetD q.bases c 0, q.share)) p.share 17 0 with
    | some l, some b => some ((c, b) :: l)
    | _, _ => none) (some []))
/-- Whether a translation table maps a physical page in a range. -/
def Tables.anyMapped (t : Tables) (a n : Nat) : Bool := t.leaves.any fun e => meets e.pa e.size a n
/-- Whether every mapped page inside a pleat's range decodes as before under another entry (R252). -/
def Tables.decodesAlike (t : Tables) (q p : Pleat) (valid : Bool) : Bool :=
  (t.leaves.filter fun e => meets e.pa e.size q.pbase q.len).all fun e =>
    valid && decide (p.pbase ≤ e.pa ∧ e.pa + e.size ≤ p.pbase + p.len) &&
    ((p.chans == q.chans && p.gran == q.gran && p.pbase == q.pbase && p.bases == q.bases)
      || (List.range (e.size / 256)).all fun i => p.decode (e.pa + 256 * i) == q.decode (e.pa + 256 * i))
/-- The bases of an entry written over another: those it has, where only its owner changes or its end is dropped. -/
def Tables.basesOf (t : Tables) (ix : Nat) (p : Pleat) : Option (List (Nat × Nat)) :=
  match aget t.pleats ix with
  | some q => if p.chans == q.chans && p.gran == q.gran && p.pbase == q.pbase && decide (p.len ≤ q.len) then some q.bases else t.allocPleat ix p
  | none => t.allocPleat ix p
/-- Owners of positions of a channel changed: held positions keep serving, the others change at the next lap boundary (R266). -/
def State.dueOwner (s : State) (ch : Nat) (ps : List Nat) (o : Nat) : State :=
  s.modChan ch fun c => { c with due := ps.foldl (fun l p => aput l p o) c.due }
/-- A pleat written (R252). -/
def State.putPleat (s : State) (ix v : Nat) (aligned : Bool) : Except Nat State :=
  let p := pleatImg v
  let valid := v.testBit 0
  let n := p.chans.length
  let unit := n * 2 ^ (p.gran + 8)
  let bad := decide (1024 < p.owner ∧ p.owner ≠ 0x7FF) || valid && decide (8 < p.gran ∨ p.len = 0 ∨ n = 0 ∨ p.pbase % 2 ^ 21 ≠ 0 ∨ p.len % 2 ^ 21 ≠ 0 ∨ p.pbase % max 1 unit ≠ 0
    ∨ p.len % max 1 unit ≠ 0 ∨ n * 0x78000000 < p.len ∨ hbmBytes < p.pbase + p.len)
  let others := s.tabs.pleats.filter fun e => e.1 != ix
  let clash := valid && others.any fun e => meets p.pbase p.len e.2.pbase e.2.len
    || ((p.owner != 0x7FF || e.2.owner != 0x7FF) && e.2.chans.any p.chans.contains)
  let alloc := s.tabs.basesOf ix p
  let new := { p with bases := alloc.getD [] }
  let busy := match aget s.tabs.pleats ix with | some q => !s.tabs.decodesAlike q new valid | none => false
  match refuse [(decide (15 < ix), 1), (resv v [(203, 5), (184, 8), (120, 8), (1, 63)], 2), (!aligned || bad, 3), (clash, 4),
      (busy || (valid && !bad && alloc.isNone), 5)] with
  | some n => .error n
  | none =>
    if !valid then .ok { s with tabs := { s.tabs with pleats := adel s.tabs.pleats ix } }
    else
      let s := { s with tabs := { s.tabs with pleats := aput s.tabs.pleats ix new } }
      .ok (if p.owner = 0x7FF then s
        else p.chans.foldl (fun s c => s.dueOwner c ((List.range 64).filter fun k => k % 8 != 7) p.owner) s)
/-- Lap owners written (R254). DEDUCED, log entry 57. -/
def State.putLap (s : State) (ch v : Nat) (aligned : Bool) : Except Nat State :=
  let o := bits v 64 11
  let ps := (List.range 64).filter v.testBit
  let clash := s.tabs.pleats.any fun e => e.2.owner != 0x7FF && e.2.owner != o && e.2.chans.contains ch
  match refuse [(decide (383 < ch), 1), (resv v [(75, 53)], 2),
      (!aligned || decide (1024 < o ∧ o ≠ 0x7FF) || ps.any (fun p => p % 8 == 7), 3), (clash, 4)] with
  | some n => .error n
  | none => .ok (s.dueOwner ch ps o)

/-- A key entry loaded or cleared (R258). DEDUCED, log entry 97. -/
def State.putKey (s : State) (ixw : Word) (img : List Byte) (aligned : Bool) : Except Nat State :=
  let ix := bits ixw.toNat 0 12
  let own := fieldLe img 0 2
  let kind := fieldLe img 2 1
  let gen := fieldLe img 3 1
  let model := fieldLe img 4 2
  let wkey := (img.drop 8).take 40
  let e := aget s.tabs.keys ix
  let k := s.tabs.tkey own
  let isK (z : KeyKind) : Bool := match e with | some q => q.kind == z | none => false
  let eown := match e with | some q => q.owner | none => 0x7FF
  let early := [(decide (4096 ≤ ixw.toNat), 1), (fieldLe img 6 2 != 0 || fieldLe img 48 16 != 0, 2),
    (!aligned || decide (1024 < own ∨ 3 < kind ∨ 1 < gen) || (kind != 3 && model != 0) || (kind == 0 && leNat wkey != 0), 3)]
  if kind = 0 then
    match refuse (early ++ [(isK .mem && s.tabs.leaves.any (fun l => l.owner == eown), 5), (isK .mem && (s.tabs.tkey eown).sweep, 8)]) with
    | some n => .error n
    | none =>
      let drop (o : Option Nat) : Option Nat := if o == some ix then none else o
      let t := s.tabs.tkey eown
      .ok { s with tabs := { s.tabs with
        keys := adel s.tabs.keys ix
        tkeys := (if e.isSome then aput s.tabs.tkeys eown { t with mem0 := drop t.mem0, mem1 := drop t.mem1, sealIx := drop t.sealIx }
          else s.tabs.tkeys) } }
  else
    let dup := (kind == 1 && (k.mem0.isSome || k.mem1.isSome)) || (kind == 2 && k.sealIx.isSome)
      || (kind == 3 && s.tabs.keys.any fun q => q.2.owner == own && q.2.kind == .model && q.2.modelid == model)
    let count := (s.tabs.keys.filter fun q => q.2.owner == own).length
    let key := s.tabs.ktk.bind fun kek => Config.kwUnwrap kek wkey
    match refuse (early ++ [(dup, 4), (e.isSome, 5), (decide ((s.tabs.quotaOf own).keymax < count + 1), 6), (key.isNone, 7)]) with
    | some n => .error n
    | none =>
      let g := gen == 1
      let kk : KeyKind := if kind = 1 then .mem else if kind = 2 then .seal else .model
      let t := if kind = 1 then { k with curgen := g, mem0 := (if g then k.mem0 else some ix), mem1 := (if g then some ix else k.mem1),
                                         ctxn := max 1 k.ctxn }
        else if kind = 2 then { k with sealIx := some ix } else k
      .ok { s with tabs := { s.tabs with
        keys := aput s.tabs.keys ix { key := key.getD 0, modelid := model, owner := own, gen := g, kind := kk }
        tkeys := aput s.tabs.tkeys own t } }
/-- KEYROT's effect (R259). DESIGN CHOICE, log entry 47. -/
def State.rotate (s : State) (o : Nat) : Except Nat State :=
  let k := s.tabs.tkey o
  let count := (s.tabs.keys.filter fun q => q.2.owner == o).length
  let free := (List.range 4096).find? fun i => (aget s.tabs.keys i).isNone
  if k.sweep then .error 8
  else match free with
    | none => .error 9
    | some i =>
      if (s.tabs.quotaOf o).keymax ≤ count then .error 9
      else
        let g := !k.curgen
        .ok { s with
          seq := s.seq + 1
          tabs := { s.tabs with
            keys := aput s.tabs.keys i { key := Config.randomKey s.seq, modelid := 0, owner := o, gen := g, kind := .mem }
            tkeys := aput s.tabs.tkeys o { k with
              curgen := g, sweep := true, mem0 := (if g then k.mem0 else some i), mem1 := if g then some i else k.mem1 } } }

/-! ### TDEF completes (R223, R224) -/

/-- Whether a descriptor breaks R223 for a window of some bytes. -/
def descBad (d : List Byte) (size : Nat) : Bool :=
  let base := fieldLe d 0 8
  let pitch := fieldLe d 8 2
  let rows := fieldLe d 10 1 + 1
  let q := match Fmt.ofCode (fieldLe d 11 1) with
    | some f => f.isQ && pitch % (4 * fmtBits f + 1) != 0
    | none => true
  decide (base % 64 ≠ 0 ∨ pitch = 0 ∨ size < base + rows * pitch ∨ 1 < fieldLe d 12 1 ∨ fieldLe d 13 19 ≠ 0 ∨ 31 < fieldLe d 11 1) || q
/-- The defined entries of the window a tile lies in. -/
def State.windowTiles (s : State) (r : Nat) (l : Lvl) : List (Nat × Tile) :=
  let w := (s.rn r).window l
  (match l with
    | .basin => (s.rn r).tiles
    | .tub => agetD s.mem.tubTiles (clusterOf r) []
    | .vat => agetD s.mem.vatTiles (dieOf r) []).filter fun e => decide (w.first ≤ e.1 ∧ e.1 < w.first + w.count)
/-- What a TDEF's descriptor makes: the entry, or the cause of its failure. -/
def State.tileMade (s : State) (r : Nat) (t : TileId) (d : List Byte) : Except Nat Tile :=
  if descBad d ((s.rn r).window t.lvl).size then .error 0x02
  else
    let e : Tile :=
      { stain := 0, base := fieldLe d 0 8, pitch := fieldLe d 8 2, rows := fieldLe d 10 1 + 1,
        fmt := (Fmt.ofCode (fieldLe d 11 1)).getD .s8, rmap := fieldLe d 12 1 = 1, state := .empty, rdr := 0, resv := false }
    if (s.windowTiles r t.lvl).any fun z => !z.2.resv && meets e.base (e.rows * e.pitch) z.2.base (z.2.rows * z.2.pitch) then .error 0x0A
    else .ok e
/-- Whether two runners' tiles of a level are of one table. -/
def sameTable (r q : Nat) : Lvl → Bool
  | .basin => r == q
  | .tub => clusterOf r == clusterOf q
  | .vat => dieOf r == dieOf q
/-- The squads whose pre-emption a table operation waits for hold a given one. -/
def savesSquad (l : List Nat) (q : Option Nat) : Bool := match q with | some k => l.contains k | none => false
/-- Whether a table write numbered `id` of a runner of squad q, or of a command, must wait: for a write issued earlier that is not over, a
SCRUB until its last step among them (R246, R264, R396); not for a quota write that waits for the pre-emption of squad q itself. DEDUCED, log
entry 57. -/
def State.writeBlocked (s : State) (id : Nat) (q : Option Nat) : Bool :=
  !s.fw.scrubs.isEmpty
  || (s.runners.any fun y => match y.tabop with
      | some z => decide (z.id < id) && (z.tile y).isNone && !savesSquad z.saves q
      | none => false)
  || s.fw.cmds.any fun c => decide (c.id < id) && (c.pkt.opc == 0x08 || c.pkt.opc == 0x20) && !savesSquad c.saves q
/-- Whether an earlier table operation must finish first (R224, R246): of a TDEF one on the same table. DEDUCED, log entry 57. -/
def State.tableBlocked (s : State) (x : Runner) (t : TabOp) : Bool :=
  match t.tile x with
  | some a => s.runners.any fun y => y.num != x.num &&
      match y.tabop with
      | some z => decide (z.id < t.id) &&
          match z.tile y with
          | some b => a.lvl == b.lvl && sameTable x.num y.num a.lvl
          | none => false
      | none => false
  | none => s.writeBlocked t.id x.squad
end Sys2Proof.Machine
end

