-- ==== Sys2Proof/Machine/Translate.lean ====
section
/-! DEFINITION. Translation tables and extents: leaves and pages, what firmware reads and writes at a tenant's address, building an
extent table, presence (R230-R236, R256, R289, R296, R302, R410, R445). -/

namespace Sys2Proof.Machine

/-! ### Leaves -/

/-- The leaf of an owner that maps a device virtual address (R234). -/
def Tables.leafAt (t : Tables) (o va : Nat) : Option Leaf :=
  t.leaves.find? fun e => e.owner == o && decide (e.va ≤ va ∧ va < e.va + e.size)
/-- The leaves that a byte range lies in, with the physical address and length of each piece; none when some byte is not mapped. -/
def Tables.spans (t : Tables) (o : Nat) : Nat → Nat → Nat → Option (List (Leaf × Nat × Nat))
  | 0, _, n => if n = 0 then some [] else none
  | k + 1, va, n =>
    if n = 0 then some []
    else
      match t.leafAt o va with
      | some e =>
        let m := min n (e.va + e.size - va)
        (t.spans o k (va + m) (n - m)).map fun l => (e, e.pa + (va - e.va), m) :: l
      | none => none
/-- The leaves of an owner whose range meets another. -/
def Tables.leavesIn (t : Tables) (o va n : Nat) : List Leaf := t.leaves.filter fun e => e.owner == o && meets e.va e.size va n

/-- Whether a far-tier address can be reached: an ACTIVE entry with a port in session (R296, R445). -/
def State.farUp (s : State) (pa : Nat) : Bool :=
  match s.tabs.lesseeOf pa with
  | some (_, e) => !e.revoking && (e.ports &&& s.bnd.portUp) != 0
  | none => false
/-- Whether a mapped page is present. -/
def State.pagePresent (s : State) (e : Leaf) : Bool := e.p && (pclass e.pa != .far || s.farUp e.pa)

/-! ### Firmware accesses for an owner (R389, R393) -/

/-- The pieces of a range at an owner's address: device virtual, or of the host window where no leaf maps it. DEDUCED, log entry 43. -/
def State.fwSpans (s : State) (o a n : Nat) : Option (List (Option Leaf × Nat × Nat)) :=
  match s.tabs.spans o (s.tabs.leaves.length + 1) a n with
  | some l => some (l.map fun p => (some p.1, p.2))
  | none => if hostBase ≤ a ∧ a + n ≤ 2 * hostBase then some [(none, a, n)] else none
/-- Whether an owner has mapped a range with the rights that a command needs (R393). -/
def State.mapped (s : State) (o a n : Nat) (wr : Bool) : Bool :=
  match s.tabs.spans o (s.tabs.leaves.length + 1) a n with
  | some l => l.all fun p => if wr then p.1.w else p.1.r
  | none => false
/-- The same for an address of a queue descriptor, which may lie in the host window (R389). -/
def State.mappedHost (s : State) (o a n : Nat) (wr : Bool) : Bool :=
  match s.fwSpans o a n with
  | some l => l.all fun p => match p.1 with | some e => if wr then e.w else e.r | none => true
  | none => false
/-- Whether every page of a range is present. -/
def State.present (s : State) (o a n : Nat) : Bool :=
  match s.fwSpans o a n with
  | some l => l.all fun p => match p.1 with | some e => s.pagePresent e | none => true
  | none => false
/-- Whether a request is firmware's write of bytes that its slot or link has not yet taken. -/
def Req.fwWrites (q : Req) : Bool := match q.use with | .fw .. => q.write && !q.data.isEmpty | .held _ => true | _ => false
/-- Whether a write of firmware for an owner, of order before `n`, has not been performed. -/
def State.fwOpen (s : State) (o n : Nat) : Bool :=
  s.mem.reqs.any fun q => q.fwWrites && decide (q.order < n) && match q.use with | .fw _ o' => o' == o | .held o' => o' == o | _ => false
/-- Physical memory as firmware sees it: with its own writes that are on their way over it, in order. DEDUCED, log entry 74. -/
def State.fwMem (s : State) (pa n : Nat) : List Byte :=
  (s.mem.reqs.filter (·.fwWrites)).foldl (fun bs q => bs.zipIdx.map fun p =>
    if q.pa ≤ pa + p.2 ∧ pa + p.2 < q.pa + q.len then q.data.getD (pa + p.2 - q.pa) 0 else p.1) (s.mem.phys.read pa n)
/-- Bytes that firmware reads for an owner. DESIGN CHOICE, log entry 3. DEDUCED, log entry 43. -/
def State.fwRead (s : State) (o a n : Nat) : List Byte :=
  match s.fwSpans o a n with
  | some l => l.flatMap fun p => s.fwMem p.2.1 p.2.2
  | none => []
/-- A number that firmware reads for an owner. -/
def State.fwNat (s : State) (o a n : Nat) : Nat := leNat (s.fwRead o a n)
/-- The requests of a firmware transfer whose bytes are accounted where firmware acts: slots of channels, messages to a lessor, reads of the
host (R291, R296, R298); of `bs` what goes out to a lessor. DEDUCED, log entry 74. -/
def State.fwTraffic (s : State) (o pa n : Nat) (write : Bool) (bs : List Byte) (tag : Nat := 0) (mend : Bool := false) : State :=
  match pclass pa with
  | .far => (s.addReq 0x1FF [(pa, n, [])] 0 write s.cycle (.fw tag o)).sendFar s.seq o [(pa, n, bs)] write
  | .host => if write then s else (s.addReq 0x1FF [(pa, n, [])] 0 false s.cycle (.fw tag o)).sendHost s.seq o [(pa, n, [])] .read
  | _ => s.askSlots [(pa, n)] write tag o mend
/-- Bytes of one block written by firmware: at its slot, when the lessor has answered (R292, R296), and at once to the host, whose writes are
posted (R434); of a function that is not in RUN nothing is sent (R437). DEDUCED, log entry 74. -/
def State.fwBlock (s : State) (o pa : Nat) (bs : List Byte) : State :=
  match pclass pa with
  | .far => (s.addReq 0x1FF [(pa, bs.length, bs)] 0 true s.cycle (.fw 0 o)).sendFar s.seq o [(pa, bs.length, bs)] true
  | .host =>
    if s.hostShut o then s
    else ({ s with seq := s.seq + 1 }.sendHost s.seq o [(pa, bs.length, bs)] .write).physWrite 0x1FF o pa bs
  | _ => s.addReq 0x1FF [(pa, bs.length, bs)] 0 true (s.cycle + 4) (.fw 0 o)
/-- One block of a release by firmware: it goes out once the owner's earlier writes by firmware have been performed (R394, R398, R417).
DEDUCED, log entry 74. -/
def State.fwRelBlock (s : State) (o pa : Nat) (bs : List Byte) : State :=
  if s.fwOpen o s.seq then
    (s.addReq 0x1FF [(pa, bs.length, bs)] 0 true s.cycle (.held o)).modMem fun m => { m with
      reqs := m.reqs.map fun q => if q.id == s.seq then { q with chan := none } else q }
  else s.fwBlock o pa bs
/-- Held releases whose earlier writes have been performed go out. -/
def State.flushHeld (s : State) : State :=
  (s.mem.reqs.filter fun q => match q.use with | .held _ => true | _ => false).foldl (fun s q =>
    match q.use with
    | .held o => if s.fwOpen o q.order then s else (s.modMem fun m => { m with reqs := m.reqs.filter fun z => z.id != q.id }).fwBlock o q.pa q.data
    | _ => s) s
/-- The traffic of a firmware read for an owner, whose meter counts it (R423). -/
def State.fwSees (s : State) (o a n : Nat) : State :=
  match s.fwSpans o a n with
  | some l => l.foldl (fun s p => (s.fwTraffic o p.2.1 p.2.2 false []).meterBytes o [p.2] false) s
  | none => s
/-- Bytes written piece by piece, each in its 256-byte blocks; `rel` of a release. -/
def State.fwPieces (s : State) (o : Nat) (rel : Bool) : List (Option Leaf × Nat × Nat) → List Byte → State
  | [], _ => s
  | (_, pa, n) :: t, bs =>
    let s := s.meterBytes o [(pa, n)] true
    let put (s : State) (b : Nat × Nat) : State :=
      let l := (bs.drop (b.1 - pa)).take b.2
      if rel then s.fwRelBlock o b.1 l else s.fwBlock o b.1 l
    State.fwPieces ((blocksOf pa n).foldl put s) o rel t (bs.drop n)
/-- Bytes that firmware writes for an owner; nothing where it has no page. DEDUCED, log entry 43. -/
def State.fwWrite (s : State) (o a : Nat) (bs : List Byte) (rel : Bool := false) : State :=
  match s.fwSpans o a bs.length with
  | some l => s.fwPieces o rel l bs
  | none => s

/-! ### Building extents (R231) -/

/-- A run of pages of one declared range. -/
structure Run where
  va : Nat
  len : Nat
  pa : Option Nat
  so : Bool
  p : Bool
  deriving DecidableEq, Repr
/-- The pieces of a range: by leaf, and between leaves. -/
def State.runs (s : State) (o : Nat) : Nat → Nat → Nat → List Run
  | 0, _, _ => []
  | k + 1, va, n =>
    if n = 0 then []
    else
      match s.tabs.leafAt o va with
      | some e =>
        let m := min n (e.va + e.size - va)
        { va := va, len := m, pa := some (e.pa + (va - e.va)), so := e.so, p := s.pagePresent e } :: s.runs o k (va + m) (n - m)
      | none =>
        let nx := ((s.tabs.leaves.filter fun e => e.owner == o && decide (va < e.va)).map (·.va)).foldl min (va + n)
        { va := va, len := nx - va, pa := none, so := false, p := false } :: s.runs o k nx (va + n - nx)
/-- Two pieces joined when they are contiguous in physical memory and alike in SO. -/
def Run.join (a b : Run) : Option Run :=
  match a.pa, b.pa with
  | some x, some y => if x + a.len = y ∧ a.so = b.so then some { a with len := a.len + b.len, p := a.p && b.p } else none
  | none, none => some { a with len := a.len + b.len }
  | _, _ => none
/-- Maximal runs. -/
def joinRuns (l : List Run) : List Run :=
  l.foldr (fun a acc => match acc with
    | b :: t => (match a.join b with | some c => c :: t | none => a :: acc)
    | [] => [a]) []
/-- The entries of one declared range (R231). -/
def State.extentsOf (s : State) (o : Nat) (d : ExtDecl) (base len : Nat) : List Extent :=
  (joinRuns (s.runs o (2 * s.tabs.leaves.length + 2) base len)).map fun u =>
    { pbase := u.pa.getD 0, len := u.len, vbase := u.va, p := u.p, so := d.so || u.so, w := d.w, r := d.r }

/-! ### Presence changed under running work (R235, R236) -/

/-- Whether a runner holds work of an owner. -/
def Runner.holds (x : Runner) (o : Nat) : Bool := x.squad.isSome && x.owner == o
/-- P cleared in every extent of an owner's runners that meets a range; the extents, as runner × 16 + number. -/
def State.clearP (s : State) (o va n : Nat) : State × List Nat :=
  let hit (x : Runner) (e : Nat × Extent) : Bool := x.holds o && meets e.2.vbase e.2.len va n
  ({ s with runners := s.runners.map fun x => { x with extents := x.extents.map fun e => if hit x e then (e.1, { e.2 with p := false }) else e } },
    s.runners.flatMap fun x => (x.extents.filter (hit x)).map fun e => 16 * x.num + e.1)
/-- An extent's physical base when all its pages are present and contiguous, and whether they have equal rights. -/
def State.extentHome (s : State) (o : Nat) (e : Extent) : Option (Nat × Bool) :=
  match s.tabs.spans o (s.tabs.leaves.length + 1) e.vbase e.len with
  | some ((f, pa, m) :: l) =>
    if s.pagePresent f && (l.foldl (fun (acc : Bool × Nat) p =>
        (acc.1 && s.pagePresent p.1 && decide (p.2.1 = acc.2), p.2.1 + p.2.2)) (true, pa + m)).1
    then some (pa, l.all fun p => p.1.r == f.r && p.1.w == f.w) else none
  | _ => none
/-- Every extent of a runner changed. -/
def Runner.modExtents (x : Runner) (f : Extent → Extent) : Runner := { x with extents := x.extents.map fun e => (e.1, f e.2) }
/-- Extents with P = 0 that a change has completed take their PBASE and P := 1: after a MAP only where the pages have equal rights, but
`moved` names those that a MIGRATE has moved, or whose window is reached again (R235, R445). -/
def State.refreshExtents (s : State) (o : Nat) (moved : Extent → Nat → Bool) : State :=
  let home (e : Extent) : Extent :=
    if e.p then e
    else match s.extentHome o e with
      | some (pa, same) => if same || moved e pa then { e with p := true, pbase := pa } else e
      | none => e
  { s with runners := s.runners.map fun x => if x.holds o then x.modExtents home else x }
/-- P of far-tier pages follows the leases and ports: extents cleared where a window cannot be reached, set again where it can; messages that
waited for a port go out (R445). -/
def State.farExtents (s : State) : State :=
  let s := s.flowLeases
  let lost (e : Extent) : Extent := if e.p && pclass e.pbase == .far && !s.farUp e.pbase then { e with p := false } else e
  let s : State := { s with runners := s.runners.map fun x => x.modExtents lost }
  ((s.runners.filter fun x => x.squad.isSome).map (·.owner)).eraseDups.foldl (fun s o => s.refreshExtents o fun e pa => e.pbase == pa && pclass pa == .far) s

/-! ### Pages (R289, R410) -/

/-- Bytes of a page-size code. -/
def pageSize (c : Nat) : Nat := match c with | 0 => 2 ^ 12 | 1 => 2 ^ 21 | _ => 2 ^ 30
/-- Physical ranges in use: mapped, set aside by a command, holding an image or taking one, or lent. -/
def State.usedPages (s : State) : List (Nat × Nat) :=
  s.tabs.leaves.map (fun e => (e.pa, e.size)) ++ s.fw.cmds.flatMap (·.pages)
  ++ s.fw.images.flatMap (·.parts) ++ s.fw.saving.map (fun e => (e.base, s.imgLen (s.rn e.run)))
  ++ (s.tabs.leases.filter fun e => e.2.lessor).map fun e => (e.2.lbase, e.2.len)
/-- The lowest free pages of a size from an address: at most one try past each range in use. -/
def freePages (used : List (Nat × Nat)) (hi sz : Nat) : Nat → Nat → Nat → Option (List Nat)
  | _, 0, _ => some []
  | 0, _, _ => none
  | k + 1, need + 1, a =>
    if hi < a + sz then none
    else
      match used.find? fun u => decide (a < u.1 + u.2 ∧ u.1 < a + sz) with
      | some u => freePages used hi sz k (need + 1) (ceilDiv (u.1 + u.2) sz * sz)
      | none => (freePages used hi sz k need (a + sz)).map fun l => a :: l
/-- `n` free pages of a size in a range of physical memory. -/
def State.takePages (s : State) (lo hi sz n : Nat) : Option (List Nat) :=
  let used := s.usedPages
  freePages used hi sz (n + used.length + 1) n (ceilDiv lo sz * sz)
/-- The writes of lines of zeros over a page asked for (R289); host pages are the host's. -/
def State.askZero (s : State) (o pa n tag : Nat) (mend : Bool := false) : State :=
  s.fwTraffic o pa n true (List.replicate n 0) tag mend
/-- Whether some request of a command is under way. -/
def State.tagBusy (s : State) (tag : Nat) : Bool := s.mem.reqs.any fun q => match q.use with | .fw t _ => t == tag | _ => false
/-- A page that has been written with lines of zeros encrypted for an owner, as before it is mapped (R289). -/
def State.zeroPage (s : State) (o pa n : Nat) : State :=
  if pclass pa == .host then s
  else (s.fillLines o pa n).modMem fun m => { m with
    phys := m.phys.zero pa n
    rels := m.rels.filter fun e => !decide (pa ≤ e.1.2 * 4 ∧ e.1.2 * 4 < pa + n) }
/-- Leaves made, under the current generation. -/
def State.addLeaves (s : State) (o va sz : Nat) (pas : List Nat) (r w so : Bool) : State :=
  let g := (s.tabs.tkey o).curgen
  let new := pas.zipIdx.map fun p =>
    { owner := o, va := va + p.2 * sz, size := sz, pa := p.1, so := so, p := true, w := w, r := r, gen := g, swept := 0 : Leaf }
  { s with tabs := { s.tabs with leaves := s.tabs.leaves ++ new } }
/-- The leaves of an owner that meet a range, made not present or removed. -/
def State.hideLeaves (s : State) (o va n : Nat) : State :=
  { s with tabs := { s.tabs with leaves := s.tabs.leaves.map fun e => if e.owner == o && meets e.va e.size va n then { e with p := false } else e } }
/-- As `hideLeaves`, gone. -/
def State.dropLeaves (s : State) (o va n : Nat) : State :=
  { s with tabs := { s.tabs with leaves := s.tabs.leaves.filter fun e => !(e.owner == o && meets e.va e.size va n) } }
/-- The lines of a page moved to another address (R302): each is checked and read at the old one and written at the new one under the
owner's current generation, its counter rising; a failed line is logged and fails there too. Barrier words' releases go with them, and
the old page is zeroed. DEDUCED, log entry 52. -/
def State.movePage (s : State) (o old new n : Nat) : State :=
  let bs := (s.mem.phys.filter fun c => decide (old ≤ c.1 ∧ c.1 < old + n)).map fun c => (c.1 - old, c.2)
  let failed := (s.mem.lines.filter fun l => l.2.failed && decide (old / 64 ≤ l.1 ∧ l.1 < (old + n) / 64)).map (·.1)
  let s := failed.foldl (fun s ln => s.logLine 0x1FF o (ln * 64)) s
  let rels := (s.mem.rels.filter fun e => decide (old ≤ e.1.2 * 4 ∧ e.1.2 * 4 < old + n)).map fun e => ((e.1.1, e.1.2 - old / 4 + new / 4), e.2)
  let races := s.mem.races.filterMap fun e => match e.1 with
    | .phys k => if old / 256 ≤ k ∧ k < (old + n) / 256 then some (Granule.phys (k - old / 256 + new / 256), e.2) else none
    | _ => none
  let s := (s.fillLines o new n).modMem fun m => { m with
    phys := bs.foldl (fun p c => p.put (new + c.1) c.2) (m.phys.zero new n)
    races := (m.races.filter fun e => match e.1 with | .phys k => !decide (old / 256 ≤ k ∧ k < (old + n) / 256) | _ => true) ++ races
    rels := (m.rels.filter fun e => !decide (new ≤ e.1.2 * 4 ∧ e.1.2 * 4 < new + n)) ++ rels }
  let s := failed.foldl (fun s ln =>
    let k := ln - old / 64 + new / 64
    s.modMem fun m => { m with lines := aput m.lines k { s.line k with failed := true } }) s
  s.zeroPage o old n
/-- The slots and messages of a move asked for: every line read at its old address and written at its new one in mending slots of the channels
concerned or in the lessor's slots, then zeros over the old page (R289, R302). -/
def State.askMove (s : State) (e : Leaf) (new tag : Nat) : State :=
  let s := s.fwTraffic e.owner e.pa e.size false [] tag true
  let s := s.fwTraffic e.owner new e.size true (s.mem.phys.read e.pa e.size) tag true
  s.askZero e.owner e.pa e.size tag true
/-- A leaf moved to a new page: present again, under the current generation. -/
def State.moveLeaf (s : State) (e : Leaf) (new : Nat) : State :=
  let g := (s.tabs.tkey e.owner).curgen
  let s := s.movePage e.owner e.pa new e.size
  let home (f : Leaf) : Leaf := if f.owner == e.owner && f.va == e.va then { f with pa := new, p := true, gen := g, swept := 0 } else f
  { s with tabs := { s.tabs with leaves := s.tabs.leaves.map home } }

end Sys2Proof.Machine
end

