-- ==== Sys2Proof/Machine/Loader.lean ====
section
/-! DEFINITION. The Milral loader: the Sheku header, the section table, the table sections (R2, R3, R31, R68, R69, R227, R238, R242,
R355). -/

namespace Sys2Proof.Machine

/-- A section-table entry (R69). -/
structure ObjSect where
  kind : Nat
  patch : Nat
  bytes : List Byte
  deriving DecidableEq, Repr

/-- Bytes [o, o + n) of an object. -/
def slice (l : List Byte) (o n : Nat) : List Byte := (l.drop o).take n
/-- Whether some bytes are all zero. -/
def allZero (l : List Byte) : Bool := l.all (· == 0)
/-- Records of a fixed size. -/
def records (n : Nat) : Nat → List Byte → List (List Byte)
  | 0, _ => []
  | k + 1, l => if l.isEmpty then [] else l.take n :: records n k (l.drop n)
/-- The records of a section, each of `n` bytes. -/
def recordsOf (n : Nat) (l : List Byte) : List (List Byte) := records n l.length l

/-- Whether the header breaks R2 or R68. -/
def headerBad (h : List Byte) : Bool :=
  h.length != 64 || h.take 4 != [0x53, 0x4B, 0x4F, 0x00] || fieldLe h 4 2 != 1
  || decide (fieldLe h 7 1 < fieldLe h 6 1 ∨ 3 < fieldLe h 6 1 ∨ 1 < fieldLe h 8 4) || !allZero (slice h 40 24)
  || decide (fieldLe h 32 8 % 16 ≠ 0 ∨ fieldLe h 32 8 < 64)
/-- An entry of the section table of an object (R69): none when it breaks a rule of its own. -/
def sectionOf (o e : List Byte) : Option ObjSect :=
  let kind := fieldLe e 0 4
  let patch := fieldLe e 4 1
  let off := fieldLe e 8 8
  let size := fieldLe e 16 8
  let code := kind == 1 || kind == 2
  let sizeBad := match kind with
    | 1 | 2 => decide (size % 16 ≠ 0 ∨ 65536 < size)
    | 3 => size != 1024
    | 4 => decide (2 ^ 21 < size)
    | 5 => size % 80 != 0
    | 6 => size % 16 != 0
    | 7 => size % 8 != 0
    | 8 => size != 8
    | 9 => size != 16
    | _ => false
  if decide (kind = 0 ∨ 10 < kind ∨ off % 16 ≠ 0 ∨ o.length < off + size) || !allZero (slice e 5 3) || !allZero (slice e 24 8)
      || (!code && patch != 0xFF) || (code && patch != 0xFF && decide (63 < patch)) || sizeBad then none
  else some { kind := kind, patch := patch, bytes := slice o off size }
/-- The sections of an object. -/
def sectionsOf (o : List Byte) : Option (List ObjSect) :=
  let n := fieldLe o 12 4
  let off := fieldLe o 16 8
  if o.length < off + 32 * n then none
  else (List.range n).foldr (fun k acc => acc.bind fun l => (sectionOf o (slice o (off + 32 * k) 32)).map fun z => z :: l) (some [])
/-- The one section of a kind. -/
def partOf (l : List ObjSect) (kind : Nat) : Option (List Byte) := (l.find? fun z => z.kind == kind).map (·.bytes)
/-- The code sections of a kind. -/
def codeOf (l : List ObjSect) (kind : Nat) : List (Nat × List Byte) := (l.filter fun z => z.kind == kind).map fun z => (z.patch, z.bytes)

/-- The patch table of a stream without patches: its one section is patch 0 (R237). -/
def soleTable (code : List (Nat × List Byte)) : List (Nat × Patch) :=
  match code with
  | [(_, b)] => [(0, { len := b.length / 16, next := none })]
  | _ => []
/-- 64 entries of a patch table (R238): none when the layout is broken. -/
def patchTable (b : List Byte) : Option (List (Nat × Patch)) :=
  (recordsOf 8 b).zipIdx.foldr (fun p acc =>
    let len := fieldLe p.1 0 2
    let nx := fieldLe p.1 2 1
    if decide (4096 < len) || (nx != 0xFF && decide (63 < nx)) || !allZero (p.1.drop 3) then none
    else acc.map fun l => if len = 0 then l else (p.2, { len := len, next := if nx = 0xFF then none else some nx }) :: l) (some [])
/-- A stream: whether it uses patches, its code sections, its table (R31, R69, R238). -/
def streamOf (code : List (Nat × List Byte)) (tab : Option (List Byte)) : Option (List (Nat × Memory) × List (Nat × Patch)) :=
  let mems := code.map fun c => (if c.1 = 0xFF then 0 else c.1, Memory.write [] 0 c.2)
  if code.isEmpty then none
  else if code.any fun c => c.1 == 0xFF then
    (if code.length = 1 then some (mems, soleTable code) else none)
  else if decide ((code.map (·.1)).eraseDups.length ≠ code.length) then none
  else
    match tab.bind patchTable with
    | some t => some (mems, t)
    | none => none
/-- Whether a handler address names a bundle of a present patch (R355). -/
def handlerOk (tab : List (Nat × Patch)) (v : Nat) : Bool :=
  v % 16 == 0 && decide (v < 2 ^ 22) && match aget tab (bits v 16 6) with | some p => decide (bits v 4 12 < p.len) | none => false
/-- A handler of a trap vector section: absent, or its address. -/
def handlerOf (tab : List (Nat × Patch)) (v : Option Nat) : Option (Option Word) :=
  match v with
  | none => some none
  | some a => if a = 2 ^ 64 - 1 then some none else if handlerOk tab a then some (some (BitVec.ofNat 64 a)) else none

/-- An extent record (R242). -/
def extDeclOf (b : List Byte) : Option ExtDecl :=
  let f := fieldLe b 1 1
  if 15 < fieldLe b 0 1 ∨ 15 < f ∨ leNat (b.drop 2) ≠ 0 then none
  else some { n := fieldLe b 0 1, r := f.testBit 0, w := f.testBit 1, so := f.testBit 2, split := f.testBit 3 }
/-- A list of records read, none when one breaks its layout. -/
def readAll {α : Type} (f : List Byte → Option α) (l : List (List Byte)) : Option (List α) :=
  l.foldr (fun b acc => acc.bind fun t => (f b).map fun x => x :: t) (some [])
/-- The layout rules of a shape record in its object form (R227). -/
def shapeRecOk (b : List Byte) : Bool :=
  let rank := fieldLe b 8 1
  let ext (d : Nat) := fieldLe b (16 + 4 * d) 4
  let q := match Fmt.ofCode (fieldLe b 9 1) with | some f => f.isQ | none => false
  decide (1 ≤ rank ∧ rank ≤ 5 ∧ fieldLe b 10 1 ≤ 3 ∧ fieldLe b 11 1 ≤ 15 ∧ fieldLe b 12 2 ≤ 4095 ∧ fieldLe b 14 2 = 0
    ∧ fieldLe b 36 4 = 0 ∧ fieldLe b 72 8 = 0 ∧ fieldLe b 9 1 < 32)
  && (Fmt.ofCode (fieldLe b 9 1)).isSome
  && (List.range 5).all (fun d => (ext d != 0) == decide (d < rank))
  && (List.range 4).all (fun d => decide (d + 1 < rank) || fieldLe b (40 + 8 * d) 8 == 0)
  && (!q || ext 0 % 32 == 0)
/-- A window declaration of a level: count and bytes. -/
def tileDecl (l : List (List Byte)) (level : Nat) : Option (Nat × Nat) :=
  (l.find? fun b => fieldLe b 0 1 == level).map fun b => (fieldLe b 4 4, fieldLe b 8 8)
/-- Whether the tiles section breaks R242. -/
def tilesBad (l : List (List Byte)) : Bool :=
  l.any (fun b => (fieldLe b 0 1 != 1 && fieldLe b 0 1 != 2) || fieldLe b 1 3 != 0)
  || decide ((l.map fun b => fieldLe b 0 1).eraseDups.length ≠ l.length)

/-- An object read from its OBJLEN bytes: none when the loader refuses it (R68, R69, R227, R238, R242, R355). -/
def objectOf (o : List Byte) : Option Obj :=
  if headerBad (o.take 64) || fieldLe o 32 8 != o.length then none
  else
    match sectionsOf o with
    | none => none
    | some l =>
      let kinds := (l.map (·.kind)).filter fun k => decide (3 ≤ k)
      let shape := (partOf l 8).getD []
      let tab := partOf l 3
      let shapes := recordsOf 80 ((partOf l 5).getD [])
      let tiles := recordsOf 16 ((partOf l 6).getD [])
      if decide (kinds.eraseDups.length ≠ kinds.length) || (partOf l 8).isNone || decide (63 < fieldLe shape 0 1)
          || !allZero (shape.drop 1) || !shapes.all shapeRecOk
          || decide ((shapes.map fun b => fieldLe b 12 2).eraseDups.length ≠ shapes.length) || tilesBad tiles then none
      else
        match streamOf (codeOf l 1) (tab.map (·.take 512)), streamOf (codeOf l 2) (tab.map (·.drop 512)),
            readAll extDeclOf (recordsOf 8 ((partOf l 7).getD [])) with
        | some (codeA, tabA), some (codeC, tabC), some exts =>
          let vec := partOf l 9
          if decide ((exts.map (·.n)).eraseDups.length ≠ exts.length) || (match tab with | some b => (patchTable b).isNone | none => false) then none
          else
            match handlerOf tabA (vec.map fun b => fieldLe b 0 8), handlerOf tabC (vec.map fun b => fieldLe b 8 8) with
            | some va, some vc =>
              some { codeA := codeA, codeC := codeC, tabA := tabA, tabC := tabC,
                     entryA := BitVec.ofNat 64 (16 * fieldLe o 24 4), entryC := BitVec.ofNat 64 (16 * fieldLe o 28 4),
                     vecA := va, vecC := vc, data := (partOf l 4).getD [], shapes := shapes, tub := tileDecl tiles 1,
                     vat := tileDecl tiles 2, exts := exts, nrun := fieldLe shape 0 1 + 1, h := fieldLe o 8 4 % 2 == 1 }
            | _, _ => none
        | _, _, _ => none
/-- OBJLEN of the object at an address, none where its header is not to be read or is refused, or the rest is not mapped (R68). -/
def State.objectLen (s : State) (o a : Nat) : Option Nat :=
  if !s.mapped o a 64 false then none
  else
    let h := s.fwRead o a 64
    let n := fieldLe h 32 8
    if headerBad h || !s.mapped o a n false then none else some n
/-- The object at an address of an owner: the header first, then the rest of the OBJLEN bytes (R68). DEDUCED, log entry 63. -/
def State.loadObject (s : State) (o a : Nat) : Option Obj := (s.objectLen o a).bind fun n => objectOf (s.fwRead o a n)
/-- Whether the pages that the loader reads are present: those of the header, then those of the rest. A LAUNCH waits for them.
DEDUCED, log entry 63. -/
def State.objectHere (s : State) (o a : Nat) : Bool :=
  !s.mapped o a 64 false || (s.present o a 64 && match s.objectLen o a with | some n => s.present o a n | none => true)

end Sys2Proof.Machine
end

