-- ==== Sys2Proof/Machine/Queues.lean ====
section
/-! DEFINITION. Command queues: descriptors, residency, doorbells, acceptance and its checks, the order of starts, completion stores,
event rings (R388-R399, R416, R417, R433, R435). -/

namespace Sys2Proof.Machine

/-! ### Status -/

/-- Completion status (R394). -/
inductive Sts
  | ok | objectRefused | badPacket | notPermitted | badAddress | squadShape | shapeRefused | extents | rangeOverlap | noKey
  | quota | busy | fault | halt | scrubbed | reset | ctxRefused | tableRefused | unwrap
  deriving DecidableEq, Repr
/-- Its code. -/
def Sts.code : Sts → Nat
  | .ok => 0x00 | .objectRefused => 0x01 | .badPacket => 0x02 | .notPermitted => 0x03 | .badAddress => 0x04
  | .squadShape => 0x05 | .shapeRefused => 0x06 | .extents => 0x07 | .rangeOverlap => 0x08 | .noKey => 0x09
  | .quota => 0x0A | .busy => 0x0B | .fault => 0x0C | .halt => 0x0D | .scrubbed => 0x0E | .reset => 0x0F
  | .ctxRefused => 0x10 | .tableRefused => 0x11 | .unwrap => 0x12
/-- A status word with no cause (R394). -/
def Sts.word (t : Sts) (detail : Nat := 0) : Word := statusWord t.code 0 false 0 0 detail
/-- Module time in ns (R35). DEDUCED, log entry 58. -/
def nowNs (cycle : Nat) : Nat := cycle * 5 / 7
/-- The firmware state changed. -/
def State.modFw (s : State) (f : Fw → Fw) : State := { s with fw := f s.fw }

/-! ### Queues and functions -/

/-- A queue's key: its function and number. -/
def qKey (func qid : Nat) : Nat := func * 1024 + qid
/-- An open queue. -/
def State.queue (s : State) (k : Nat) : Option Queue := aget s.fw.queues k
/-- A queue changed. -/
def State.modQueue (s : State) (k : Nat) (f : Queue → Queue) : State :=
  s.modFw fun w => { w with queues := w.queues.map fun e => if e.1 == k then (e.1, f e.2) else e }
/-- A function's registers; those of one not listed are at reset. -/
def State.func (s : State) (n : Nat) : Func :=
  agetD s.bnd.funcs n
    { n := n, enabled := n == 0, cqdesc := List.replicate 64 0, cqen := false, stop := false, tdi := .unlocked, msix := [], pba := [],
      bells := [] }
/-- A function changed. -/
def State.modFunc (s : State) (n : Nat) (f : Func → Func) : State :=
  { s with bnd := { s.bnd with funcs := aput s.bnd.funcs n (f (s.func n)) } }
/-- Vectors of a function (R433). -/
def vectorsOf (f : Nat) : Nat := if f = 0 then 2048 else 64

/-! ### Interrupts and the event ring (R416, R417) -/

/-- A byte of a function's MSI-X table; the mask bit of a vector is 1 at reset (log entry 9). PRESUMED, log entry 9. -/
def Func.msixByte (f : Func) (i : Nat) : Byte := agetD f.msix i (if i % 16 = 12 then 1 else 0)
/-- A vector signalled: sent, or pending while it is masked. PRESUMED, log entry 9. -/
def State.signal (s : State) (fn v : Nat) : State :=
  if ((s.func fn).msixByte (16 * v + 12)).getLsbD 0 then
    s.modFunc fn fun f => { f with pba := if f.pba.contains v then f.pba else f.pba ++ [v] }
  else s.send (.msix fn v)
/-- The queue's vector signalled. -/
def State.signalQueue (s : State) (k : Nat) : State :=
  match s.queue k with
  | some q => if q.d.ecount = 0 then s else (s.signal q.func q.d.vector).modQueue k fun q => { q with unsig := 0, firstUnsig := none }
  | none => s
/-- The bytes of an event record. -/
def eventBytes (now : Nat) (tag : BitVec 32) (opc kind : Nat) (st x : Word) : List Byte :=
  natLe 8 (nowNs now) ++ natLe 4 tag.toNat ++ [BitVec.ofNat 8 opc, BitVec.ofNat 8 kind, 0, 0] ++ natLe 8 st.toNat ++ natLe 8 x.toNat
/-- A record written to a queue's ring, or dropped and counted in EOVF when the ring is full (R417). -/
def State.eventRecord (s : State) (k : Nat) (tag : BitVec 32) (opc kind : Nat) (st x : Word) : State :=
  match s.queue k with
  | none => s
  | some q =>
    let size := 2 ^ q.d.esize
    let con := s.fwNat q.func q.d.econ 8
    let s := s.fwSees q.func q.d.econ 8
    if (q.evW + 2 ^ 64 - con) % 2 ^ 64 = size then
      (s.modQueue k fun q => { q with eovf := q.eovf + 1 }).fwWrite q.func (q.d.ewptr + 8) (natLe 8 (q.eovf + 1)) true
    else
      let s := s.fwWrite q.func (q.d.evbase + 32 * (q.evW % size)) (eventBytes s.cycle tag opc kind st x)
      let s := s.fwWrite q.func q.d.ewptr (natLe 8 (q.evW + 1)) true
      let s := s.modQueue k fun q => { q with evW := q.evW + 1, unsig := q.unsig + 1, firstUnsig := some (q.firstUnsig.getD s.cycle) }
      if q.d.ecount ≤ q.unsig + 1 then s.signalQueue k else s
/-- EVENT_INTERRUPT_TIMER: ETIME has passed since the first record not signalled. -/
def execEventInterruptTimer (k : Nat) (s : State) : Out :=
  match s.queue k with
  | some q => (match q.firstUnsig with
    | some t => if t + usec q.d.etime ≤ s.cycle then .next (s.signalQueue k) else .next s
    | none => .next s)
  | none => .next s
/-- The records of heats' event streams go to the rings of their launching queues (R416). -/
def State.flushEvents (s : State) : State :=
  let one (s : State) (e : Evt) : State :=
    match s.fw.heats.find? fun h => h.id == e.heat with
    | some h =>
      (match s.queue h.queue with
      | some q => if q.d.cmode then s.eventRecord h.queue h.pkt.tag h.pkt.opc e.kind e.lo e.hi else s
      | none => s)
    | none => s
  s.fw.evq.foldl one (s.modFw fun w => { w with evq := [] })

/-! ### Completion (R394) -/

/-- The completion store and the event record after it. -/
def State.storeCompletion (s : State) (p : Pkt) (st x : Word) (wr : Bool) : State :=
  let s := if wr then s.fwWrite p.func p.cwaddr (natLe 8 p.cwval.toNat ++ natLe 8 st.toNat) true else s
  let evt := p.flags.getLsbD 1 || match s.queue p.queue with | some q => q.d.cmode | none => false
  if evt then s.eventRecord p.queue p.tag p.opc 1 st (if bits st.toNat 0 8 = Sts.fault.code then x else 0) else s
/-- Whether a completion store can be made now. -/
def State.storable (s : State) (p : Pkt) : Bool := p.cwaddr == 0 || s.present p.func p.cwaddr 16
/-- A packet completes: its store waits for its page, and behind earlier waiting stores of its queue, also of one that has been closed. -/
def State.complete (s : State) (p : Pkt) (st x : Word) : State :=
  match s.queue p.queue with
  | some q =>
    if !q.late.isEmpty || !s.storable p then s.modQueue p.queue fun q => { q with late := q.late ++ [(p, st, x)] }
    else s.storeCompletion p st x (p.cwaddr != 0)
  | none =>
    if s.fw.late.any (fun z => z.1.queue == p.queue) || !s.storable p then s.modFw fun w => { w with late := w.late ++ [(p, st, x)] }
    else s.storeCompletion p st x (p.cwaddr != 0)
/-- Waiting stores of a queue made as far as their pages are present. -/
def State.drainLate (s : State) (k : Nat) : Nat → State
  | 0 => s
  | n + 1 =>
    match s.queue k with
    | some q =>
      (match q.late with
      | (p, st, x) :: t =>
        if s.storable p then
          State.drainLate ((s.modQueue k fun q => { q with late := t }).storeCompletion p st x (p.cwaddr != 0)) k n
        else s
      | [] => s)
    | none => s
/-- The waiting stores of closed queues made as far as their pages are present, each queue's in order. -/
def State.drainGone (s : State) : State :=
  s.fw.late.foldl (fun s e =>
    if s.storable e.1 && !s.fw.late.any fun z => z.1.queue == e.1.queue then s.storeCompletion e.1 e.2.1 e.2.2 (e.1.cwaddr != 0)
    else s.modFw fun w => { w with late := w.late ++ [e] }) (s.modFw fun w => { w with late := [] })
/-- Every queue's waiting stores. -/
def State.lateStores (s : State) : State := s.fw.queues.foldl (fun s e => s.drainLate e.1 e.2.late.length) s.drainGone

/-! ### Starting packets in order (R397) -/

/-- A field of a packet's body at its packet offset. -/
def fld (p : Pkt) (o n : Nat) : Nat := fieldLe p.body (o - 24) n
/-- Bytes of a partition image (R245). -/
def imageLen : Nat → Nat
  | 0 => 64 | 1 => 32 | 3 => 48 | _ => 16
/-- The addresses a command needs: address, bytes, written (R393). -/
def needsOf (p : Pkt) : List (Nat × Nat × Bool) :=
  match p.opc with
  | 0x01 => [(fld p 40 8, 256, false)]
  | 0x02 => [(fld p 24 8, 8, false)]
  | 0x03 => (fld p 24 8, 8, true) :: if fld p 40 1 = 0 then [] else [(fld p 24 8, 8, false)]
  | 0x04 => [24, 40].filterMap fun o => if fld p o 8 = 0 then none else some (fld p o 8, 8, false)
  | 0x08 => [(fld p 24 8, 48, false)]
  | 0x0B => [(fld p 32 8, 16 + 32 * fld p 40 4, true)]
  | 0x0C => [(fld p 32 8, 16, false)]
  | 0x0D => [(fld p 24 8, fld p 40 8 / 4096 * 4112, false), (fld p 32 8, fld p 40 8, true)]
  | 0x10 => [(fld p 24 8, 1744, true)]
  | 0x11 => [(fld p 24 8, 1568, false), (fld p 32 8, 32, true)]
  | 0x12 => [(fld p 24 8, 64, false)]
  | 0x20 => [(fld p 32 8, imageLen (fld p 24 1), false)]
  | _ => []
/-- Commands that act as if FENCE = 1. -/
def fenced (p : Pkt) : Bool := p.flags.getLsbD 0 || [0x03, 0x04, 0x0A, 0x0B, 0x0C, 0x0E].contains p.opc
/-- WAIT and BARRIER_PKT. -/
def isWait (p : Pkt) : Bool := p.opc == 0x02 || p.opc == 0x04
/-- Whether a packet of a queue is about to act. -/
def State.starting (s : State) (k : Nat) : Bool := s.agenda.any fun t => match t with | .act (.command p) => p.queue == k | _ => false
/-- Whether a started packet of a queue has not completed. -/
def State.busyQueue (s : State) (k : Nat) : Bool :=
  s.fw.cmds.any (fun c => c.pkt.queue == k) || s.fw.heats.any (fun h => h.queue == k) || s.starting k
  || match s.queue k with | some q => q.blk.isSome || !q.late.isEmpty | none => false
/-- Whether the next packet of a queue may start: the one before it has acted (R397), and the pages that a command needs are present. -/
def State.startable (s : State) (k : Nat) (q : Queue) (p : Pkt) : Bool :=
  q.blk.isNone && !s.starting k && !(q.stopped && q.qid == 0) && !(fenced p && s.busyQueue k)
    && (isWait p || (needsOf p).all fun n => s.present p.func n.1 n.2.1) && (p.opc != 0x01 || s.objectHere p.func (fld p 24 8))
/-- The next packet of a queue starts, when it may. -/
def State.pump (s : State) (k : Nat) : State :=
  match s.queue k with
  | some q =>
    (match q.pend with
    | p :: t =>
      if s.startable k q p then { s.modQueue k (fun q => { q with pend := t }) with agenda := .act (.command p) :: s.agenda } else s
    | [] => s)
  | none => s
/-- Every queue's next packet, where it may start now. -/
def State.pumpAll (s : State) : State := s.fw.queues.foldl (fun s e => s.pump e.1) s
/-- A command completes and its queue goes on. -/
def State.finish (s : State) (p : Pkt) (st : Word) : State := (s.complete p st 0).pump p.queue
/-- A command that completes at its start. -/
def done (s : State) (p : Pkt) (t : Sts) (detail : Nat := 0) : Out := .next (s.finish p (t.word detail))

/-! ### WAIT and BARRIER_PKT (R398, R399) -/

/-- The words a blocked packet reads: address and test. -/
def waitWords (p : Pkt) : List (Nat × (Nat → Bool)) :=
  if p.opc = 0x02 then
    let v := fld p 32 8
    [(fld p 24 8, fun w => match fld p 40 1 with
      | 0 => w == v | 1 => w != v | 2 => decide (v ≤ w) | 3 => decide (v < w) | 4 => decide (w < v) | _ => decide (w ≤ v))]
  else
    [(24, 32), (40, 48)].filterMap fun f =>
      if fld p f.1 8 = 0 then none else some (fld p f.1 8, fun w => decide (fld p f.2 8 ≤ w))
/-- Whether every page of a blocked packet's words is present. -/
def State.waitPresent (s : State) (p : Pkt) : Bool := (waitWords p).all fun w => s.present p.func w.1 8
/-- The word of a started WAIT or BARRIER_PKT read at a visit: it completes, waits, or is in fault service. -/
def State.readBlocked (s : State) (k : Nat) : State :=
  match s.queue k with
  | some q =>
    (match q.blk with
    | some p =>
      if !s.waitPresent p then s.modQueue k fun q => { q with npSince := some (q.npSince.getD s.cycle) }
      else
        let s := (waitWords p).foldl (fun s w => s.fwSees p.func w.1 8) (s.modQueue k fun q => { q with npSince := none })
        if (waitWords p).all fun w => w.2 (s.fwNat p.func w.1 8) then (s.modQueue k fun q => { q with blk := none }).finish p Sts.ok.word else s
    | none => s)
  | none => s
/-- A WAIT or BARRIER_PKT started. -/
def State.startWait (s : State) (p : Pkt) : State := s.modQueue p.queue fun q => { q with blk := some p, npSince := none }
/-- WAIT (R398): it reads its word at the visits of its queue. -/
def execWaitPacket (p : Pkt) (s : State) : Out := .next (s.startWait p)
/-- BARRIER_PKT (R398). -/
def execBarrierPkt (p : Pkt) (s : State) : Out := .next (s.startWait p)
/-- NOP (R395). -/
def execNopPacket (p : Pkt) (s : State) : Out := done s p .ok
/-- A signal word set or raised (R323). -/
def State.signalWord (s : State) (o a v op : Nat) : State :=
  if op = 0 then s.fwWrite o a (natLe 8 v) true else (s.fwSees o a 8).fwWrite o a (natLe 8 (s.fwNat o a 8 + v)) true
/-- SIGNAL (R398): SIG on the word. -/
def execSignal (p : Pkt) (s : State) : Out := done (s.signalWord p.func (fld p 24 8) (fld p 32 8) (fld p 40 1)) p .ok

/-! ### Residency (R390) -/

/-- The queue in a hardware slot. -/
def State.inSlot (s : State) (n : Nat) : Option Queue := (s.fw.queues.find? fun e => e.2.slot == some n).map (·.2)
/-- Whether a queue is the PF's control queue. -/
def isPfCtl (f q : Nat) : Bool := f == 0 && q == 0
/-- Resident queues of an owner that count towards its QSLOT. -/
def State.residents (s : State) (o : Nat) : Nat :=
  (s.fw.queues.filter fun e => e.2.func == o && e.2.slot.isSome && !isPfCtl e.2.func e.2.qid).length
/-- The lowest free slot of a die. -/
def State.freeSlot (s : State) (d : Nat) : Option Nat := ((List.range 128).map fun k => d * 128 + k).find? fun n => (s.inSlot n).isNone
/-- A queue put on its die's park list. -/
def State.park (s : State) (k : Nat) : State := s.modQueue k fun q => { q with slot := none, parked := some s.cycle }
/-- The parked queue of a die to readmit: highest priority, then earliest parked (R390, R399). -/
def State.readmittee (s : State) (d : Nat) : Option (Nat × Queue) :=
  let prio (q : Queue) : Nat := min q.d.prio (s.tabs.weightOf q.func).pcur
  let c := s.fw.queues.filter fun e => e.2.slot.isNone && e.2.d.die == d && decide (s.residents e.2.func < (s.tabs.quotaInForce e.2.func).qslot)
    && match e.2.blk with | some p => e.2.npSince.isNone || s.waitPresent p | none => true
  c.foldl (fun b e => match b with
    | none => some e
    | some z => if prio z.2 < prio e.2 ∨ (prio z.2 = prio e.2 ∧ e.2.parked.getD 0 < z.2.parked.getD 0) then some e else b) none
/-- Parked queues of a die readmitted while it has a free slot. -/
def State.readmit (s : State) (d : Nat) : Nat → State
  | 0 => s
  | n + 1 =>
    match s.freeSlot d, s.readmittee d with
    | some k, some (key, _) => State.readmit (s.modQueue key fun q => { q with slot := some k, parked := none, npSince := none }) d n
    | _, _ => s
/-- Readmission on every die. -/
def State.readmitAll (s : State) : State :=
  if s.fw.queues.any fun e => e.2.slot.isNone then
    (List.range 4).foldl (fun s d => s.readmit d s.fw.queues.length) s
  else s
/-- Queues above a lowered QSLOT parked, highest slot first (R266). -/
def State.parkExcess (s : State) (o : Nat) : Nat → State
  | 0 => s
  | n + 1 =>
    if s.residents o ≤ (s.tabs.quotaOf o).qslot then s
    else
      match (s.fw.queues.filter fun e => e.2.func == o && !isPfCtl e.2.func e.2.qid && e.2.slot.isSome).foldl
          (fun (b : Option (Nat × Queue)) e => match b with
            | some z => if z.2.slot.getD 0 < e.2.slot.getD 0 then some e else b
            | none => some e) none with
      | some e => State.parkExcess (s.park e.1) o n
      | none => s
/-- A queue opened: it takes the lowest free slot of its die, or is parked; the PF's control queue always finds one. -/
def State.openQueue (s : State) (f qid : Nat) (d : QDesc) : State :=
  let q : Queue :=
    { func := f, qid := qid, d := d, token := BitVec.ofNat 16 s.seq, read := 0, bell := 0, bellAt := 0, bellIn := 0, slot := none,
      parked := some s.cycle, pend := [], blk := none, npSince := none, late := [], evW := 0, eovf := 0, unsig := 0,
      firstUnsig := none, stopped := (s.func f).stop, serial := 0 }
  let s : State := { s.modFw (fun w => { w with queues := aput w.queues (qKey f qid) q }) with seq := s.seq + 1 }
  let take (s : State) : State :=
    match s.freeSlot d.die with
    | some n => s.modQueue (qKey f qid) fun q => { q with slot := some n, parked := none }
    | none => s
  if isPfCtl f qid then
    match s.freeSlot d.die with
    | some _ => take s
    | none =>
      match s.inSlot (d.die * 128 + 127) with
      | some z => take (s.park (qKey z.func z.qid))
      | none => s
  else if s.residents f < (s.tabs.quotaInForce f).qslot then take s else s
/-- A descriptor's 64 bytes (R389). -/
def descOf (b : List Byte) : QDesc :=
  { rbase := fieldLe b 0 8, rsize := fieldLe b 8 1, prio := fieldLe b 9 1, die := fieldLe b 10 1, cmode := fieldLe b 11 1 == 1,
    ecount := fieldLe b 12 1, esize := fieldLe b 13 1, etime := fieldLe b 14 2, rptr := fieldLe b 16 8, evbase := fieldLe b 24 8,
    ewptr := fieldLe b 32 8, econ := fieldLe b 40 8, vector := fieldLe b 48 2 }
/-- Why a descriptor of a function is refused (R389, R435): EVBASE is no address where CMODE = 0, every other address must be mapped. -/
def State.descRefused (s : State) (f : Nat) (b : List Byte) : Option Sts :=
  let d := descOf b
  let inRange := decide (4 ≤ d.rsize ∧ d.rsize ≤ 16 ∧ d.prio ≤ 7 ∧ d.die ≤ 3 ∧ fieldLe b 11 1 ≤ 1 ∧ d.vector < vectorsOf f)
  let ring := if d.cmode then decide (4 ≤ d.esize ∧ d.esize ≤ 16) else decide (d.esize = 0 ∧ d.evbase = 0)
  let aligned := decide (d.rbase % 64 = 0 ∧ d.rptr % 8 = 0 ∧ d.evbase % 32 = 0 ∧ d.ewptr % 16 = 0 ∧ d.econ % 8 = 0)
  if !inRange || !ring || !aligned || !allZero (b.drop 50) then some .badPacket
  else
    let ok := s.mappedHost f d.rbase (64 * 2 ^ d.rsize) false && s.mappedHost f d.rptr 8 true
      && (!d.cmode || s.mappedHost f d.evbase (32 * 2 ^ d.esize) true) && s.mappedHost f d.ewptr 16 true && s.mappedHost f d.econ 8 false
    if ok then none else some .badAddress

/-! ### Acceptance (R392, R393, R396) -/

/-- The body fields of a command: offset and bytes (R395); none for an unassigned OPC. -/
def bodyFields : Nat → Option (List (Nat × Nat))
  | 0x00 => some []
  | 0x01 => some [(24, 8), (32, 8), (40, 8), (48, 2), (50, 1), (51, 1), (52, 1), (53, 1), (54, 2)]
  | 0x02 => some [(24, 8), (32, 8), (40, 1)]
  | 0x03 => some [(24, 8), (32, 8), (40, 1)]
  | 0x04 => some [(24, 8), (32, 8), (40, 8), (48, 8)]
  | 0x05 => some [(24, 8), (32, 8), (40, 1), (41, 1), (42, 1), (43, 1), (44, 2), (48, 8)]
  | 0x06 => some [(24, 8), (32, 8), (44, 2)]
  | 0x07 => some [(24, 8), (32, 8), (40, 1), (41, 1), (42, 1), (43, 1), (44, 2)]
  | 0x08 => some [(24, 8), (32, 2)]
  | 0x09 => some [(24, 2)]
  | 0x0A => some [(24, 2), (26, 2)]
  | 0x0B => some [(24, 8), (32, 8), (40, 4)]
  | 0x0C => some [(24, 8), (32, 8)]
  | 0x0D => some [(24, 8), (32, 8), (40, 8), (48, 2), (50, 1)]
  | 0x0E => some [(24, 2), (26, 1)]
  | 0x0F => some [(24, 2), (26, 1), (28, 2)]
  | 0x10 => some [(24, 8), (32, 2), (40, 16)]
  | 0x11 => some [(24, 8), (32, 8)]
  | 0x12 => some [(24, 8), (32, 2)]
  | 0x13 => some [(24, 2)]
  | 0x14 => some [(24, 8), (32, 1), (34, 2)]
  | 0x20 => some [(24, 1), (26, 2), (32, 8)]
  | 0x21 => some [(24, 2)]
  | 0x22 => some [(24, 2)]
  | _ => none
/-- Whether some byte that the command does not name is not zero (R393). -/
def reservedSet (raw : List Byte) (fs : List (Nat × Nat)) : Bool :=
  raw.zipIdx.any fun b => b.1 != 0 && decide (24 ≤ b.2 ∨ b.2 = 2 ∨ b.2 = 3) && !fs.any fun f => decide (f.1 ≤ b.2 ∧ b.2 < f.1 + f.2)
/-- A packet read from a ring. -/
def pktOf (q : Queue) (raw : List Byte) (serial : Nat) : Pkt :=
  { queue := qKey q.func q.qid, func := q.func, qid := q.qid, serial := serial, acc := 0, die := q.d.die, opc := fieldLe raw 0 1,
    flags := BitVec.ofNat 8 (fieldLe raw 1 1), tag := BitVec.ofNat 32 (fieldLe raw 4 4), cwaddr := fieldLe raw 8 8,
    cwval := BitVec.ofNat 64 (fieldLe raw 16 8), body := raw.drop 24 }
/-- The owner a TARGET names (R395). -/
def targetOf (p : Pkt) (o : Nat) : Nat := if fld p o 2 = 0xFFFF then p.func else fld p o 2
/-- The offset of a command's TARGET. -/
def targetField : Nat → Option Nat
  | 0x05 | 0x06 | 0x07 => some 44
  | 0x0A => some 26
  | 0x0F => some 28
  | 0x10 => some 32
  | _ => none
/-- Whether VA and LEN of a memory command lie in the device virtual space and are multiples of a page size. -/
def rangeOk (p : Pkt) (sz : Nat) : Bool := decide (fld p 24 8 % sz = 0 ∧ fld p 32 8 % sz = 0 ∧ fld p 24 8 + fld p 32 8 ≤ 2 ^ 56)
/-- Whether a field of the body lies outside its range (R393, R395, R410). -/
def fieldBad (p : Pkt) : Bool :=
  let al (o : Nat) : Bool := fld p o 8 % 8 == 0
  match p.opc with
  | 0x01 => decide (63 < fld p 50 1 ∨ fld p 51 1 = 0 ∨ 96 < fld p 51 1 ∨ 15 < fld p 52 1 ∨ 15 < fld p 53 1)
  | 0x02 => !al 24 || decide (5 < fld p 40 1)
  | 0x03 => !al 24 || decide (1 < fld p 40 1)
  | 0x04 => !al 24 || !al 40
  | 0x05 =>
    let sz := pageSize (fld p 43 1)
    let tier := fld p 40 1
    decide (3 < tier ∨ 7 < fld p 42 1 ∨ 2 < fld p 43 1) || !rangeOk p sz || (tier == 0 && decide (15 < fld p 41 1))
      || (tier == 3 && decide (fld p 48 8 % sz ≠ 0 ∨ 2 ^ 55 < fld p 48 8 + fld p 32 8))
  | 0x06 => !rangeOk p 4096
  | 0x07 => decide (2 < fld p 40 1 ∨ fld p 42 1 ≠ 0 ∨ 2 < fld p 43 1) || !rangeOk p (pageSize (fld p 43 1))
      || (fld p 40 1 == 0 && decide (15 < fld p 41 1))
  | 0x09 => decide (255 < fld p 24 2)
  | 0x0D => decide (fld p 40 8 % 4096 ≠ 0 ∨ fld p 48 2 = 0 ∨ 1 < fld p 50 1)
  | 0x0E => decide (1 < fld p 26 1)
  | 0x0F => decide (64 < fld p 24 2 ∨ 1 < fld p 26 1)
  | 0x12 => decide (fld p 32 2 = 0 ∨ 1023 < fld p 32 2)
  | 0x13 => decide (fld p 24 2 = 0 ∨ 1023 < fld p 24 2)
  | 0x14 => decide (3 < fld p 32 1 ∨ (1024 < fld p 34 2 ∧ fld p 34 2 ≠ 0x7FF))
  | 0x20 => decide (5 < fld p 24 1)
  | 0x21 => decide (fld p 24 2 = 0 ∨ 1024 < fld p 24 2)
  | 0x22 => decide (fld p 24 2 = 0 ∨ 1024 < fld p 24 2)
  | _ => false
/-- Why a packet is refused at acceptance (R393, R396). -/
def State.packetRefused (s : State) (p : Pkt) (raw : List Byte) : Option Sts :=
  let f := p.flags.toNat
  let scope := bits f 2 3
  match bodyFields p.opc with
  | none => some .badPacket
  | some fs =>
    let t := match targetField p.opc with | some o => fld p o 2 | none => 0xFFFF
    if reservedSet raw fs || decide (32 ≤ f ∨ p.cwaddr % 16 ≠ 0) || (if p.cwaddr = 0 then scope != 0 else scope != 3 && scope != 4)
        || fieldBad p || (p.func == 0 && t != 0xFFFF && decide (1024 < t)) then some .badPacket
    else if ([0x08, 0x09, 0x0A, 0x0F, 0x12, 0x13, 0x14].contains p.opc && p.qid != 0)
        || ([0x11, 0x20, 0x21, 0x22].contains p.opc && !isPfCtl p.func p.qid) || (p.func != 0 && t != 0xFFFF)
        || (p.opc == 0x0A && fld p 24 2 == 0) then some .notPermitted
    else if (p.cwaddr != 0 && !s.mapped p.func p.cwaddr 16 true) || !(needsOf p).all fun n => s.mapped p.func n.1 n.2.1 n.2.2 then
      some .badAddress
    else none
/-- The doorbell value that reached the die before the current polling cycle began (R392). -/
def Queue.seen (q : Queue) (now : Nat) : BitVec 32 := if q.bellAt < now / 3584 * 3584 then q.bell else q.bellIn
/-- The owner's next launch count: from 1, wrapping past 0 (R401). -/
def State.nextSeq (s : State) (o : Nat) : BitVec 32 :=
  let n := agetD s.fw.hseq o 0 + 1
  if n = 0 then 1 else n
/-- A packet accepted: read, checked, its read index advanced and reported; a refused one completes at once. -/
def State.accept (s : State) (k : Nat) (q : Queue) : State :=
  let a := q.d.rbase + 64 * (q.read.toNat % 2 ^ q.d.rsize)
  let raw := s.fwRead q.func a 64
  let seq := s.nextSeq q.func
  let p := { pktOf q raw (if fieldLe raw 0 1 = 1 then seq.toNat else q.serial) with acc := s.seq }
  let s : State := { s with seq := s.seq + 1 }
  let s := (s.fwSees q.func a 64).modQueue k fun q => { q with read := q.read + 1, serial := q.serial + 1 }
  let s := s.fwWrite q.func q.d.rptr (natLe 8 (q.read + 1).toNat) true
  match s.packetRefused p raw with
  | some t =>
    let wr := p.cwaddr != 0 && p.cwaddr % 16 == 0 && s.mapped p.func p.cwaddr 16 true
    s.complete (if wr then p else { p with cwaddr := 0 }) t.word 0
  | none =>
    let s := if p.opc = 1 then s.modFw fun w => { w with hseq := aput w.hseq q.func seq } else s
    if q.pend.isEmpty && isWait p && s.startable k q p then (s.startWait p).readBlocked k
    else (s.modQueue k fun q => { q with pend := q.pend ++ [p] }).pump k
/-- Whether a queue has a packet to accept now. -/
def State.acceptable (s : State) (q : Queue) : Bool :=
  let ahead := (q.seen s.cycle - q.read).toNat
  !q.stopped && decide (q.pend.length < 8 ∧ 0 < ahead ∧ ahead ≤ 2 ^ 31)
    && s.present q.func (q.d.rbase + 64 * (q.read.toNat % 2 ^ q.d.rsize)) 64
/-- Whether polling slot k begins in a cycle: 20 k ns into a polling cycle of 2,560 ns (R391). DEDUCED, log entry 58. -/
def slotBegins (now k : Nat) : Bool := decide (now % 3584 = 28 * k)
/-- POLLING_SLOT: the visit of hardware queue slot 128 d + k (R391, R392, R398). -/
def execPollingSlot (d k : Nat) (s : State) : Out :=
  if !s.bnd.released || !slotBegins s.cycle k then .next s
  else
    match s.inSlot (d * 128 + k) with
    | none => .next s
    | some q =>
      let key := qKey q.func q.qid
      let s := s.readBlocked key
      match s.queue key with
      | some q => if s.acceptable q then .next (s.accept key q) else .next s
      | none => .next s
/-- WAIT_FAULT_TIMEOUT: after 64 µs of fault service the queue is parked (R399), but never the PF's control queue (R390). -/
def execWaitFaultTimeout (k : Nat) (s : State) : Out :=
  match s.queue k with
  | some q => (match q.npSince with
    | some t => if q.slot.isSome && q.blk.isSome && !isPfCtl q.func q.qid && decide (t + usec 64 ≤ s.cycle) then .next (s.park k) else .next s
    | none => .next s)
  | none => .next s
/-- DOORBELL_WRITE (R388). -/
def execDoorbellWrite (f q : Nat) (v : BitVec 32) (s : State) : Out :=
  if 1023 < q ∨ !(s.func f).enabled then .next s
  else
    let s := s.modFunc f fun z => { z with bells := aput z.bells q v }
    .next (s.modQueue (qKey f q) fun z => { z with bellIn := z.seen s.cycle, bell := v, bellAt := s.cycle })

end Sys2Proof.Machine
end

