-- ==== Sys2Proof/Machine/Starter.lean ====
section
/-! DEFINITION. The Starter: pools, placement, heats and their end, release of runners, scheduling rounds (R25-R29, R114, R122, R126,
R215, R237, R253, R265, R310, R314, R315, R394, R402-R407, R422, R430). -/

namespace Sys2Proof.Machine

/-! ### Who may run where (R247, R402, R407) -/

/-- The runners of FIXED owners. -/
def Tables.fixedMask (t : Tables) : BitVec 256 := t.quota.foldl (fun m e => if e.2.mode == .fixed then m ||| e.2.rmask else m) 0
/-- The pool an owner competes in: its own when it is FIXED, the shared one, 0x7FF, otherwise. DESIGN CHOICE, log entry 31. -/
def Tables.poolOf (t : Tables) (o : Nat) : Nat := if (t.quotaOf o).mode == .fixed then o else 0x7FF
/-- The runners of a die's lent set, as runner numbers. -/
def lentMask (d : Nat) (m : BitVec 64) : BitVec 256 := m.setWidth 256 <<< (64 * d)
/-- The runners lent to a SHARED owner. -/
def Tables.lentTo (t : Tables) (o : Nat) : BitVec 256 :=
  t.lent.foldl (fun m e => if e.2.2 == o || e.2.2 == 0x7FF then m ||| lentMask e.1.2 e.2.1 else m) 0
/-- Whether a runner may hold squads of an owner, under what is in force of its quota (R266). -/
def Tables.mayHold (t : Tables) (o r : Nat) : Bool :=
  let q := t.quotaInForce o
  match q.mode with
  | .none => false
  | .fixed => q.rmask.getLsbD r
  | .shared => (q.rmask.getLsbD r && !t.fixedMask.getLsbD r) || (t.lentTo o).getLsbD r
/-- The owners that compete in a pool, in ascending order. DESIGN CHOICE, log entry 31. -/
def Tables.ownersOf (t : Tables) (pool : Nat) : List Nat :=
  if pool = 0x7FF then (0 :: t.quota.map (·.1)).eraseDups.mergeSort (· ≤ ·) |>.filter fun o => (t.quotaOf o).mode == .shared
  else [pool]
/-- The pools, FIXED owners first. -/
def Tables.pools (t : Tables) : List Nat :=
  ((t.quota.filter fun e => e.2.mode == .fixed).map (·.1)).mergeSort (· ≤ ·) ++ [0x7FF]
/-- Whether a runner holds no squad and may be given one (R265, R430, R431). -/
def State.idle (s : State) (r : Nat) : Bool :=
  let x := s.rn r
  x.squad.isNone && !x.withdrawn && !(s.fw.releasing.any fun e => e.1 == r) && !s.fw.retired.contains r && !s.fw.tests.contains r
/-- Whether the monitors let a runner take work (R432). -/
def State.cool (s : State) (r : Nat) : Bool := (aget s.fw.hot (clusterOf r)).isNone && !s.fw.dieHot.contains (dieOf r)
/-- The runners of a die that an owner could be given, were those of `gone` idle. -/
def State.openRunners (s : State) (o : Nat) (gone : List Nat) (d : Nat) : List Nat :=
  ((List.range 64).map fun k => 64 * d + k).filter fun r => s.tabs.mayHold o r && s.cool r && (s.idle r || gone.contains r)
/-- Runners an owner holds. -/
def State.held (s : State) (o : Nat) : Nat := (s.runners.filter fun x => x.squad.isSome && x.owner == o).length

/-! ### Windows (R215) -/

/-- The lowest place for n units beside the ranges in use: at most one try past each. -/
def lowestGap (used : List (Nat × Nat)) (n cap align : Nat) : Nat → Nat → Option Nat
  | 0, _ => none
  | k + 1, a =>
    if cap < a + n then none
    else match used.find? fun u => decide (a < u.1 + u.2 ∧ u.1 < a + n) with
      | some u => lowestGap used n cap align k (ceilDiv (u.1 + u.2) align * align)
      | none => some a
/-- The Tub windows of a cluster or Vat windows of a die in use, but for the runners of `gone`. -/
def State.windowsIn (s : State) (l : Lvl) (g : Nat) (gone : List Nat) : List Window :=
  ((s.runners.filter fun x => decide (x.num < 256) && !gone.contains x.num && (if l == .tub then clusterOf x.num else dieOf x.num) == g).map
    fun x => x.window l).filter fun w => w.count != 0 || w.size != 0
/-- A free window of so many entries and bytes: the lowest of each. -/
def State.freeWindow (s : State) (l : Lvl) (g : Nat) (gone : List Nat) (c : Nat × Nat) : Option Window :=
  let ws := s.windowsIn l g gone
  let e := lowestGap (ws.map fun w => (w.first, w.count)) c.1 (if l == .tub then 1024 else 4096) 1 (ws.length + 1) 0
  let b := lowestGap (ws.map fun w => (w.base, w.size)) c.2 (if l == .tub then 2 ^ 24 else 0xA000000) 256 (ws.length + 1) 0
  match e, b with
  | some e, some b => some { first := e, count := c.1, base := b, size := c.2 }
  | _, _ => none

/-! ### Placement (R403, R406) -/

/-- Where a squad goes: runner numbers by index, the Tub window of each cluster used, the Vat window. -/
structure Place where
  runs : List Nat
  tubs : List (Nat × Window)
  vat : Window
  deriving DecidableEq, Repr
/-- Clusters of a die with their free runners, most first, ties to the lower cluster. -/
def clustersOf (d : Nat) (free : List Nat) : List (Nat × List Nat) :=
  ((List.range 8).map fun c => (8 * d + c, free.filter fun r => clusterOf r == 8 * d + c)).mergeSort fun a b => decide (b.2.length ≤ a.2.length)
/-- `n` runners from clusters in order: the cluster and the runners taken of it. -/
def takeFrom : Nat → List (Nat × List Nat) → Option (List (Nat × List Nat))
  | 0, _ => some []
  | _ + 1, [] => none
  | n + 1, (c, l) :: t =>
    if l.isEmpty then none
    else (takeFrom (n + 1 - l.length) t).map fun z => (c, l.take (n + 1)) :: z
/-- The windows of a squad whose runners are taken cluster by cluster. -/
def State.withWindows (s : State) (d : Nat) (gone : List Nat) (tub vat : Nat × Nat) (cs : List Nat) : Option (List (Nat × Window) × Window) :=
  match cs.foldr (fun c acc => match acc, s.freeWindow .tub c gone tub with
      | some l, some w => some ((c, w) :: l)
      | _, _ => none) (some []), s.freeWindow .vat d gone vat with
  | some l, some v => some (l, v)
  | _, _ => none
/-- The groups of a saved squad's indices by the cluster each had, largest first. -/
def groupsOf (ims : List Image) : List (List Nat) :=
  let cs := (ims.map (·.cluster)).eraseDups
  (cs.map fun c => ((ims.filter fun i => i.cluster == c).map (·.idx)).mergeSort (· ≤ ·)).mergeSort fun a b => decide (b.length ≤ a.length)
/-- A squad of n runners on die d: a new one with indices in ascending order of runner number (R26), a saved one with its groups
kept (R406). -/
def State.placeOn (s : State) (o n : Nat) (tub vat : Nat × Nat) (ims : List Image) (gone : List Nat) (d : Nat) : Option Place :=
  let cl := clustersOf d (s.openRunners o gone d)
  if ims.isEmpty then
    match takeFrom n cl with
    | some l => (s.withWindows d gone tub vat (l.map (·.1))).map fun w =>
        { runs := (l.flatMap (·.2)).mergeSort (· ≤ ·), tubs := w.1, vat := w.2 }
    | none => none
  else
    let gs := groupsOf ims
    let z := gs.zip cl
    if z.length < gs.length || z.any (fun p => decide (p.2.2.length < p.1.length)) then none
    else
      let at_ (k : Nat) : Nat := (z.findSome? fun p => (p.1.idxOf? k).map fun j => p.2.2.getD j 0).getD 0
      (s.withWindows d gone tub vat (z.map (·.2.1))).map fun w => { runs := (List.range n).map at_, tubs := w.1, vat := w.2 }
/-- The dies of a mask that can hold a squad, the one with the most free eligible runners first (R403). -/
def State.findPlace (s : State) (o n : Nat) (tub vat : Nat × Nat) (ims : List Image) (dies : BitVec 4) (gone : List Nat) : Option Place :=
  let ds := (setBitsOf dies).mergeSort fun a b => decide ((s.openRunners o gone b).length ≤ (s.openRunners o gone a).length)
  ds.findSome? fun d => s.placeOn o n tub vat ims gone d

/-! ### Heats, their ranges and extents (R231, R315, R400) -/

/-- A heat. -/
def State.heat (s : State) (id : Word) : Option Heat := s.fw.heats.find? fun (h : Heat) => h.id == id
/-- A heat changed. -/
def State.modHeat (s : State) (id : Word) (f : Heat → Heat) : State :=
  s.modFw fun w => { w with heats := w.heats.map fun (h : Heat) => if h.id == id then f h else h }
/-- The ranges of squad q: declaration, base, bytes; a split one is its slice. -/
def Heat.rangesOf (h : Heat) (q : Nat) : List (ExtDecl × Nat × Nat) :=
  h.ranges.filterMap fun g => (h.obj.exts.find? fun d => d.n == g.1).map fun d =>
    if d.split then (d, g.2.1 + q * (g.2.2 / h.nsq), g.2.2 / h.nsq) else (d, g.2.1, g.2.2)
/-- The entries that a squad's ranges make. -/
def State.extentsFor (s : State) (h : Heat) (q : Nat) : List Extent := (h.rangesOf q).flatMap fun g => s.extentsOf h.owner g.1 g.2.1 g.2.2
/-- Whether two ranges may not be held by two squads at once (R315). -/
def rangesClash (a b : ExtDecl × Nat × Nat) : Bool :=
  meets a.2.1 a.2.2 b.2.1 b.2.2 && ((a.1.w && (b.1.r || b.1.w)) || (b.1.w && (a.1.r || a.1.w))) && !(a.1.so && b.1.so)
/-- Whether another heat's dispatched squad holds a squad back (R315). -/
def State.heldBack (s : State) (h : Heat) (z : Squad) : Bool :=
  let mine := h.rangesOf z.sqn
  s.fw.squads.any fun q => q.owner == z.owner && q.heat != z.heat && q.state != .ready &&
    match s.heat q.heat with
    | some g => (g.rangesOf q.sqn).any fun b => mine.any fun a => rangesClash a b
    | none => false
/-- The physical ranges of checked extents (R310). -/
def checkedRanges (l : List Extent) : List (Nat × Nat) :=
  (l.filter fun e => e.w && !e.so && e.p && pclass e.pbase != .host).map fun e => (e.pbase, e.len)
/-- The parts of a range outside some disjoint ranges. -/
def outside (used : List (Nat × Nat)) (g : Nat × Nat) : List (Nat × Nat) :=
  used.foldl (fun l u => l.flatMap fun p =>
    if meets p.1 p.2 u.1 u.2 then
      [(p.1, u.1 - p.1), (u.1 + u.2, p.1 + p.2 - (u.1 + u.2))].filter fun q => q.2 != 0
    else [p]) [g]
/-- The near-tier ranges that a squad's checked extents add to the race-record pool (R310). -/
def State.poolNeeds (s : State) (l : List Extent) : List (Nat × Nat) :=
  ((checkedRanges l).filter fun g => pclass g.1 == .near).flatMap (outside s.mem.pool)
/-- Whether the records of a squad's extents are clear and the pool has blocks for them (R310, R314). -/
def State.recordsReady (s : State) (l : List Extent) : Bool :=
  !(checkedRanges l).any (fun g => s.fw.clearing.any fun c => meets g.1 g.2 c.1 c.2)
  && decide ((s.mem.pool.map (·.2)).sum + ((s.poolNeeds l).map (·.2)).sum ≤ 704 * 2 ^ 30)

/-! ### Ready squads -/

/-- The saved images of a squad, by index. -/
def State.imagesOf (s : State) (z : Squad) : List Image :=
  (s.fw.images.filter fun i => i.heat == z.heat && i.sqn == z.sqn).mergeSort fun a b => decide (a.idx ≤ b.idx)
/-- The level a squad competes at: its queue's PRIO, at most the PMAX in force (R249, R266, R389). DESIGN CHOICE, log entry 31. -/
def State.levelOf (s : State) (z : Squad) : Nat := min z.level (s.tabs.weightOf z.owner).pcur
/-- Whether a squad waits for the Starter (R402). -/
def State.isReady (s : State) (z : Squad) : Bool :=
  (z.state == .ready || z.state == .saved) && !(s.func z.owner).stop && !s.fw.scrubs.contains z.owner &&
  match s.heat z.heat with
  | some h => h.ended.isNone && !h.paused && !(z.state == .ready && s.heldBack h z)
  | none => false
/-- The element addresses of a load that have taken no slot. -/
def LaqE.untaken (q : LaqE) : List Word := q.addrs.zipIdx.filterMap fun p => if q.taken.getLsbD p.2 then none else some p.1
/-- Whether a load of an earlier leg of a saved runner meets an extent that is not present: a rewind could not repeat it, and the squad
waits (log entry 31). -/
def loadsReady (exts : List Extent) (ims : List Image) : Bool :=
  !ims.any fun i =>
    let x : Runner := { i.run with extents := exts.zipIdx.map fun p => (p.2, p.1) }
    x.laq.any fun q => q.leg != x.legNo && q.op != .ldaS && match x.firstFail (sizeBits q.size) false q.untaken with
      | some (.notPresent _) => true
      | _ => false
/-- Where a squad could be placed on some dies, were the runners of `gone` idle. -/
def State.fitsOn (s : State) (z : Squad) (gone : List Nat) (dies : BitVec 4) : Option Place :=
  match s.heat z.heat with
  | some h =>
    let ims := if z.state == .saved then s.imagesOf z else []
    let going := (gone.filter fun r => let x := s.rn r; x.squad.isSome && x.owner == z.owner).length
    if s.fw.powerHold || decide ((s.tabs.quotaInForce z.owner).maxrun + going < s.held z.owner + z.nrun)
        || !s.recordsReady (s.extentsFor h z.sqn) || !loadsReady (s.extentsFor h z.sqn) ims then none
    else s.findPlace z.owner z.nrun (h.obj.tub.getD (0, 0)) (h.obj.vat.getD (0, 0)) ims (h.dies &&& dies) gone
  | none => none
/-- Where a squad could be placed now. -/
def State.fits (s : State) (z : Squad) : Option Place := s.fitsOn z [] 0xF
/-- An owner's head squad at a level: saved squads first, then heats in order of acceptance; among the squads of one heat the choice
is free (R29, R403, R404). DESIGN CHOICE, log entry 45. -/
def State.headSquad (s : State) (o lvl : Nat) : Option Squad :=
  let l := s.fw.squads.filter fun z => z.owner == o && s.levelOf z == lvl && s.isReady z
  let pick (l : List Squad) : Option Squad :=
    match s.fw.heats.find? fun (h : Heat) => l.any fun z => z.heat == h.id with
    | some h =>
      let c := l.filter fun z => z.heat == h.id
      (c.drop (Config.choice 2 h.id.toNat s.cycle % max 1 c.length)).head?
    | none => none
  match l.filter fun z => z.state == .saved with
  | [] => pick l
  | v => pick v

/-! ### Loading a runner (R69, R114, R122, R126, R190, R237, R355) -/

/-- An instruction memory with the patch of an address in half 0. -/
def imemAt (code : List (Nat × Memory)) (tab : List (Nat × Patch)) (pc : Word) : IMem :=
  let q := patchOf pc
  { half0 := some q, half1 := none, bytes0 := agetD code q [], bytes1 := [], active1 := false, code := code, tab := tab, copy := none }
/-- A slice loaded to issue. -/
def sliceAt (code : List (Nat × Memory)) (tab : List (Nat × Patch)) (pc : Word) (vec : Option Word) : SliceX :=
  { st := .run, pend := [], trap := none, im := imemAt code tab pc, vector := vec, taken := none }
/-- SQUADID of a runner. -/
def squadWord (sqn idx n : Nat) : Word := BitVec.ofNat 64 (sqn % 2 ^ 16 + idx % 64 * 2 ^ 16 + (n - 1) % 64 * 2 ^ 22)
/-- A runner loaded for its entry bundles. -/
def launched (h : Heat) (z : Squad) (idx r : Nat) (exts : List Extent) (tub vat : Window) : Runner :=
  let b := Leg.reset
  let leg : Leg := { b with
    g := b.g.set 1 h.arg
    a := b.a.set 1 h.arg
    lim := h.slip
    c := { b.c with pc := h.obj.entryC, sw := h.csw }
    s := { b.s with pc := h.obj.entryA } }
  { Runner.reset r with
    squad := some z.id
    owner := h.owner
    heatid := h.id
    squadid := squadWord z.sqn idx z.nrun
    leg := leg
    fold := { leg := leg, inflC := [], inflA := [], ue := false }
    cx := sliceAt h.obj.codeC h.obj.tabC h.obj.entryC h.obj.vecC
    ax := sliceAt h.obj.codeA h.obj.tabA h.obj.entryA h.obj.vecA
    extents := exts.zipIdx.map fun p => (p.2, p.1)
    tubWin := tub
    vatWin := vat
    shapes := h.shapes
    basin := Memory.write [] 0 h.obj.data }
/-- A saved runner loaded into another one: it resumes where it stopped (R380). DEDUCED, log entry 33. -/
def restored (i : Image) (h : Heat) (z : Squad) (r : Nat) (exts : List Extent) (tub vat : Window) : Runner :=
  let x := i.run
  { x with
    num := r
    squad := some z.id
    cx := { x.cx with im := imemAt h.obj.codeC h.obj.tabC x.leg.c.pc }
    ax := { x.ax with im := imemAt h.obj.codeA h.obj.tabA x.leg.s.pc }
    extents := exts.zipIdx.map fun p => (p.2, p.1)
    holdNp := exts.zipIdx.filterMap fun p =>
      if x.holdNp.any fun n => match aget x.extents n with | some e => meets e.vbase e.len p.1.vbase p.1.len | none => false then some p.2 else none
    tubWin := tub
    vatWin := vat
    ackm := 0
    packpc := none
    preempt := false
    gated := false
    lodFrom := x.lod }
/-- The tile entries and bytes of a saved window put in a window. -/
def intoWindow (w : Window) (tiles : List (Nat × Tile)) (m : Memory) (old : List (Nat × Tile) × Memory) : List (Nat × Tile) × Memory :=
  (old.1.foldl (fun l e => aput l (w.first + e.1) e.2) tiles, old.2.foldl (fun m c => m.put (w.base + c.1) c.2) m)

/-! ### HOLD (R253, R403) -/

/-- The data position of a channel that a runner of an owner is given: the lowest free one of the owner, else unowned. -/
def Chan.position (c : Chan) (o : Nat) : Option Nat :=
  let free := (List.range 64).filter fun k => k % 8 != 7 && (aget c.hold k).isNone
  match free.find? fun k => agetD c.own k 0x7FF == o with
  | some k => some k
  | none => free.find? fun k => agetD c.own k 0x7FF == 0x7FF
/-- The channels of the pleats that some extents meet. -/
def Tables.channelsOf (t : Tables) (l : List Extent) : List Nat :=
  ((t.pleats.filter fun p => l.any fun e => e.p && meets e.pbase e.len p.2.pbase p.2.len).flatMap fun p => p.2.chans).eraseDups
/-- A runner's positions. -/
def State.holdSlots (s : State) (r o : Nat) (l : List Extent) : State :=
  (s.tabs.channelsOf l).foldl (fun s ch =>
    match (s.chan ch).position o with
    | some k => s.modChan ch fun c => { c with hold := aput c.hold k r }
    | none => s) s
/-- A runner's positions given up. -/
def State.freeSlots (s : State) (r : Nat) : State :=
  s.modMem fun m => { m with chans := m.chans.map fun e => (e.1, { e.2 with hold := e.2.hold.filter fun h => h.2 != r }) }

/-! ### The squad starts -/

/-- A runner set going in cycle r0: its waits count from there, captured results are put back, and a trap that was to be taken is
taken four cycles before (R363, R380). -/
def State.goRunner (s : State) (r r0 placed : Nat) : State :=
  let go (t : Strm) : Strm := { t with wait := r0 + (t.wait - placed), ifq := t.ifq.filter fun e => !e.r.reinj }
  let wake (y : SliceX) (t : Strm) : SliceX :=
    { y with st := (if y.st == .stopped then .run else y.st), pend := y.pend ++ reinject (t.ifq.filter (·.r.reinj)) r0 }
  let s := s.modR r fun x => { x with
    preempt := false
    cx := wake x.cx x.leg.c
    ax := wake x.ax x.leg.s
    leg := { x.leg with c := go x.leg.c, s := go x.leg.s }
    rewind := x.rewind.map fun z => { z with at_ := r0 + (z.at_ - placed) } }
  let x := s.rn r
  match x.ax.trap with
  | some t =>
    if x.ax.st == .run then
      let k := x.leg.s.reentry.getD (0, 0)
      s.takeTrapAt (r0 - 4) r .a { t with resume := k.1 } x.leg.s.pc k.2 x.leg.s.br x.leg.s.marked
    else s
  | none => s
/-- The loads of a restored runner checked again against its extents (R352): a failure is handled as at issue,
and a load that a rewind has dropped is checked no more. A leg whose Hamper holds an entry for an extent with P clear is rewound (R236).
DEDUCED, log entry 34. -/
def State.recheck (s : State) (r : Nat) : State :=
  let s := (s.rn r).laq.foldl (fun s q =>
    if !(s.rn r).laq.any (fun e => e.id == q.id) then s else
    match (s.rn r).firstFail (sizeBits q.size) false q.untaken with
    | none => s
    | some (.misaligned a) => s.failLoad r q 0x02 6 a
    | some (.bounds a) => s.failLoad r q 0x20 0 a
    | some (.notPresent i) => if q.op == .ldaS then s.failLoad r q 0 0 0 else s.rewind r 1 [i]) s
  let gone := (s.hamExts r).filter fun n => (aget (s.rn r).extents n).any fun e => !e.p
  if gone.isEmpty || (s.rn r).rewind.isSome then s else s.rewind r 1 gone
/-- A squad whose runners are all in service starts: the next cycle is the first in which its bundles may issue.
DEDUCED, log entry 34. -/
def State.letGo (s : State) (z : Squad) : State :=
  let s := z.runners.foldl (fun s r => s.goRunner r (s.cycle + 1) z.at_) s
  let s := s.modSquad z.id fun z => { z with hold := false, at_ := s.cycle }
  let s := s.modFw fun w => { w with images := w.images.filter fun i => !(i.heat == z.heat && i.sqn == z.sqn) }
  z.runners.foldl (fun s r => s.recheck r) s
/-- The race records of an image's windows in the windows that a restored runner has (R314). -/
def Image.racesIn (i : Image) (r : Nat) (tub vat : Window) : List (Granule × Race) :=
  i.races.map fun e => (if e.1.1 then .vat (dieOf r) (vat.base / 256 + e.1.2) else .tub (clusterOf r) (tub.base / 256 + e.1.2), e.2)
/-- A squad placed: runners loaded, positions held, pool blocks given, a self-test begun where a runner was gated.
DESIGN CHOICE, log entry 85. -/
def State.install (s : State) (z : Squad) (h : Heat) (p : Place) : State :=
  let exts := (s.extentsFor h z.sqn).take 16
  let ims := if z.state == .saved then s.imagesOf z else []
  let load (s : State) (k : Nat) : State :=
    let r := p.runs.getD k 0
    let tub := agetD p.tubs (clusterOf r) Window.none
    let gate := (s.rn r).gated
    let s := match ims.find? fun i => i.idx == k with
      | some i =>
        let x := restored i h z r exts tub p.vat
        let at_ (w : Nat) := s.cycle + w
        let leg : Leg := { x.leg with c := { x.leg.c with wait := at_ x.leg.c.wait }, s := { x.leg.s with wait := at_ x.leg.s.wait } }
        let x : Runner := { x with leg := leg, rewind := x.rewind.map fun (z : Rewind) => { z with at_ := at_ z.at_ } }
        let cl := clusterOf r
        let s := i.parts.foldl (fun (s : State) p => s.meterBytes h.owner [p] false) (s.askSlots i.parts false)
        let t := intoWindow tub (agetD s.mem.tubTiles cl []) (agetD s.mem.tub cl []) i.tub
        let v := intoWindow p.vat (agetD s.mem.vatTiles (dieOf r) []) (agetD s.mem.vat (dieOf r) []) i.vat
        let s := match i.cap with | some c => s.modFw fun w => { w with capture := aput w.capture r c } | none => s
        (s.modR r fun _ => x).modMem fun m => { m with
          tubTiles := aput m.tubTiles cl t.1, tub := aput m.tub cl t.2
          vatTiles := aput m.vatTiles (dieOf r) v.1, vat := aput m.vat (dieOf r) v.2
          races := (i.racesIn r tub p.vat).foldl (fun l (e : Granule × Race) => aput l e.1 e.2) m.races }
      | none =>
        let x := launched h z k r exts tub p.vat
        (s.modR r fun _ => { x with leg := { x.leg with c := { x.leg.c with wait := s.cycle }, s := { x.leg.s with wait := s.cycle } } }).wrote
          0x1FF 0 r 0 h.obj.data.length
    let s := [Slice.a, Slice.c].foldl (fun s sl => s.wrote 0x1FF 5 r (imemOff sl false 0) (2 ^ 16)) s
    let s := s.modR r fun x => { x with preempt := true }
    let s := if gate then s.modFw fun w => { w with tests := w.tests ++ [r] } else s
    s.holdSlots r z.owner exts
  let pool := s.poolNeeds exts
  let s := s.fillLines z.owner (64 * vatLine (dieOf (p.runs.headD 0)) (p.vat.base / 64)) p.vat.size
  let s := (List.range z.nrun).foldl load s
  let s := s.modMem fun m => { m with pool := m.pool ++ pool }
  let z' : Squad := { z with
    runners := p.runs, state := .running, at_ := s.cycle, quantum := (s.tabs.granOf z.owner).quantum, request := none, exch := none, hold := true, recalled := false,
    vatGen := (s.tabs.tkey z.owner).curgen, vatSwept := 0 }
  let s := s.modSquad z.id fun _ => z'
  if p.runs.any s.fw.tests.contains then s else s.letGo z'
/-- A squad placed where it fits; a saved one only when every image is accepted, which uses up its expected nonce (R387, R406). -/
def State.placeSquad (s : State) (z : Squad) (p : Place) : State :=
  match s.heat z.heat with
  | none => s
  | some h =>
    let s := { s with seq := s.seq + 1 }
    if z.state == .saved then
      let key (i : Image) := (i.heat, i.sqn, i.idx)
      let good (i : Image) : Bool :=
        i.ok && i.commit == i.nonce && i.owner == z.owner && aget s.tabs.expected (key i) == some i.nonce && s.imageHeld i
      let ims := s.imagesOf z
      if ims.all good && ims.length == z.nrun then
        let s := { s with tabs := { s.tabs with expected := ims.foldl (fun l i => adel l (key i)) s.tabs.expected } }
        s.install z h p
      else s.endHeat none z.heat (Sts.ctxRefused.word) 0
    else s.install z h p

end Sys2Proof.Machine
end

