-- ==== Sys2Proof/Machine/Rounds.lean ====
section
/-! DEFINITION. Squads pre-empted, saved, finished and released; heats completed; scheduling rounds (R144, R265, R314, R358, R377-R387,
R394, R402-R407, R418, R422, R427, R430). -/

namespace Sys2Proof.Machine

/-! ### Pre-emption is asked for (R377) -/

/-- A request for a running squad, with its deadline; the Marshal notes the SAVE tier in force (R266). A squad still held for a self-test
has run nothing. -/
def State.preemptSquad (s : State) (q deadline : Nat) : State :=
  match s.fw.squads.find? fun z => z.id == q with
  | some z =>
    if z.state == .running then
      let lag := if z.hold then s.cycle - z.at_ else 0
      let slow (t : Strm) : Strm := { t with wait := t.wait + lag }
      let s := s.modSquad q fun z =>
        { z with state := .saving, request := some deadline, hold := false, near := (s.tabs.granOf z.owner).near }
      z.runners.foldl (fun s r => s.modR r fun x =>
        { x with preempt := true, ackm := 0, leg := { x.leg with c := slow x.leg.c, s := slow x.leg.s } }) s
    else s
  | none => s
/-- Time-slicing and the like: within 400 µs (R36). -/
def State.slice (s : State) (q : Nat) : State := s.preemptSquad q (s.cycle + usec 400)
/-- The recall of lent runners: within 1 ms end to end, also where their squad is being pre-empted already (R36, R407). -/
def State.recall (s : State) (q : Nat) : State :=
  (s.preemptSquad q (s.cycle + usec 1000)).modSquad q fun z =>
    if z.state == .saving && !z.recalled then { z with recalled := true, request := some (s.cycle + usec 1000) } else z
/-- The cycles that a save or a release of a squad's runner may take, where its bound is `n`: of a recall's last 600 µs the save takes at most
half. -/
def State.within (s : State) (z : Option Squad) (n : Nat) (save : Bool) : Nat :=
  match z with
  | some z =>
    match z.recalled, z.request with
    | true, some d => let left := d - s.cycle; min n (max 1 (if save then left / 2 else left))
    | _, _ => n
  | none => n

/-! ### Runners leave (R265, R422) -/

/-- A runner's event counters added to its owner's meter (R422). -/
def State.addBlock (s : State) (r : Nat) : State :=
  let x := s.rn r
  let s := s.modMeter x.owner fun m => { m with
    slipst := m.slipst + x.slipst.toNat
    popst := m.popst + x.popst.toNat
    rewind := x.rewinds.toList.zipIdx.foldl (fun l p => bump l (p.2 + 1) p.1.toNat) m.rewind
    softrep := m.softrep + x.softrep.toNat
    lod := m.lod + (x.lod - x.lodFrom).toNat }
  s.modR r fun x => { x with slipst := 0, popst := 0, rewinds := Vector.replicate 4 0, softrep := 0, lodFrom := x.lod }
/-- A runner leaves its squad; firmware zeroes it within the recall bound, a recalled one within what is left of that. -/
def State.dropRunner (s : State) (r : Nat) : State :=
  let due := s.cycle + 1 + Config.within 3 r s.cycle % s.within (s.squadOf (s.rn r)) (usec 1000) false
  let s := { (s.addBlock r).freeSlots r with seq := s.seq + 1 }
  let s := s.modMem fun m => { m with reqs := m.reqs.filter fun q => q.isLease || q.run != r }
  let s := s.modR r fun x => { x.halt with squad := none, preempt := false, tabop := none }
  s.modFw fun w => { w with releasing := w.releasing ++ [(r, due)], capture := adel w.capture r,
                            saving := w.saving.filter fun e => e.run != r }
/-- A window zeroed once no runner has it any more: bytes, entries, race records, failed words (R265, R314). -/
def State.zeroWindow (s : State) (r : Nat) (l : Lvl) : State :=
  let w := (s.rn r).window l
  let g := if l == .tub then clusterOf r else dieOf r
  let ai := arrOf r l
  let shared := s.runners.any fun x => x.num != r && decide (x.num < 256) && (if l == .tub then clusterOf x.num else dieOf x.num) == g && x.window l == w
  if shared || (w.count == 0 && w.size == 0) then s
  else
    let out (k : Nat) : Bool := !decide (w.first ≤ k ∧ k < w.first + w.count)
    let far (k : Nat) : Bool := !decide (w.base / 256 ≤ k ∧ k * 256 < w.base + w.size)
    (s.wrote 0x1FF ai.1 ai.2 w.base w.size).modMem fun m =>
      if l == .tub then { m with
        tub := aput m.tub g ((agetD m.tub g []).zero w.base w.size)
        tubTiles := aput m.tubTiles g ((agetD m.tubTiles g []).filter fun e => out e.1)
        races := m.races.filter fun e => match e.1 with | .tub c k => c != g || far k | _ => true }
      else { m with
        vat := aput m.vat g ((agetD m.vat g []).zero w.base w.size)
        vatTiles := aput m.vatTiles g ((agetD m.vatTiles g []).filter fun e => out e.1)
        races := m.races.filter fun e => match e.1 with | .vat d k => d != g || far k | _ => true }
/-- RUNNER_RELEASE: all the runner's state is zero; a quarantined one is withdrawn and tested (R265, R429). -/
def execRunnerRelease (r : Nat) (s : State) : Out :=
  match s.fw.releasing.find? fun e => e.1 == r with
  | some e =>
    if s.cycle < e.2 then .next s
    else
      let s := (s.zeroWindow r .tub).zeroWindow r .vat
      let s := [(0, 2 ^ 21), (1, 2 ^ 19), (2, 2 ^ 15), (6, 2 ^ 28)].foldl (fun s a => s.wrote 0x1FF a.1 r 0 a.2) s
      let s := s.modR r fun x => { Runner.reset r with idleAt := s.cycle, withdrawn := x.withdrawn }
      .next (s.modFw fun w => { w with
        releasing := w.releasing.filter fun e => e.1 != r
        quar := w.quar.filter fun q => q != r
        tests := if w.quar.contains r && !w.tests.contains r then w.tests ++ [r] else w.tests })
  | none => .next s

/-! ### Squads and heats end (R28, R394) -/

/-- Whether a stopped runner has nothing left that must still reach memory: its committed entries and the commands they became have
been performed, but for those behind a race, a rewind or a barrier that cannot be passed any more. -/
def Runner.drained (x : Runner) : Bool :=
  x.rewind.isSome || (x.strong.any fun e => e.held || e.barsNo != 0)
  || ((x.hamper.all (·.held)) && !((x.spr.q.takeWhile fun c => !isArrival c && !c.held).any fun c => sprWrites c.i))
/-- Whether a runner has finished or has stopped for good. -/
def Runner.over (x : Runner) : Bool := x.stopReq && x.hamper.isEmpty && x.spr.q.isEmpty
/-- Whether both slices have executed DONE and everything they issued has completed (R144). -/
def Runner.complete (x : Runner) : Bool :=
  x.leg.c.done && x.leg.s.done && (x.cx.pend ++ x.ax.pend).all (·.landed) && x.press.fq.isEmpty && x.press.cq.isEmpty && x.spr.q.isEmpty
  && x.relay.q.isEmpty && x.saq.isEmpty && x.laq.isEmpty && x.strong.isEmpty && x.tabop.isNone && x.qdrain.isNone && x.rewind.isNone
  && x.legEnd.isNone && x.cx.trap.isNone && x.ax.trap.isNone
/-- The records of a finished squad begin to be cleared and its runners leave (R314). -/
def State.finishSquad (s : State) (z : Squad) : State :=
  let ranges := (z.runners.flatMap fun r => checkedRanges ((s.rn r).extents.map (·.2))).eraseDups
  let s := s.modMem fun m => { m with rels := m.rels.filter fun e => e.1.1 != z.id }
  let s := z.runners.foldl (fun s r => s.dropRunner r) s
  s.modFw fun w => { w with squads := w.squads.filter fun q => q.id != z.id, clearing := w.clearing ++ ranges }
/-- Passes of a heat not yet compared (R429). -/
def State.passesOf (s : State) (id : Word) : Bool :=
  s.fw.store.any (fun e => e.2.any fun p => p.heat == id) || s.fw.replays.any fun e => e.2.heat == id
/-- A heat completes: its store and event record, then its queue goes on. DESIGN CHOICE, log entry 45. -/
def State.completeHeat (s : State) (h : Heat) : State :=
  let s := s.flushEvents
  let st := match h.ended with | some e => e.1 | none => Sts.ok.word
  let st := setBit (setBit st 45 h.stale) 44 h.audit
  (((s.modFw fun w => { w with heats := w.heats.filter fun (g : Heat) => g.id != h.id }).complete h.pkt st h.xaddr)).pump h.queue
/-- What follows from heats that have ended and runners that are through: squads on no runner are discarded with their images, and the records
of a saved one are cleared (R314); finished squads leave, and a heat without squads and open passes completes. -/
def State.settle (s : State) : State :=
  let ended (id : Word) : Bool := match s.heat id with | some h => h.ended.isSome | none => true
  let idle (z : Squad) : Bool := (z.state == .ready || z.state == .saved) && ended z.heat
  let out := s.fw.squads.filter idle
  let mine (hd : Word) (n : Nat) : Bool := out.any fun z => z.heat == hd && z.sqn == n
  let ranges := (out.filter fun z => z.state == .saved).flatMap fun z =>
    match s.heat z.heat with | some h => checkedRanges (s.extentsFor h z.sqn) | none => []
  let s := s.modFw fun w => { w with
    squads := w.squads.filter fun z => !idle z
    clearing := w.clearing ++ ranges.eraseDups
    images := w.images.filter fun i => !mine i.heat i.sqn }
  let s : State := { s with tabs := { s.tabs with expected := s.tabs.expected.filter fun e => !mine e.1.1 e.1.2.1 } }
  let s := (s.fw.squads.filter fun z => (z.state == .running || z.state == .saving) && z.runners.all fun r => (s.rn r).over).foldl
    (fun s z => s.finishSquad z) s
  (s.fw.heats.filter fun (h : Heat) => !(s.fw.squads.any fun z => z.heat == h.id) && !s.passesOf h.id).foldl (fun s h => s.completeHeat h) s
/-- RUNNER_FINISH (R144, R369): the Hamper commits once everything else is through; then, or when the heat has ended and what was
committed has been performed, the runner is over. -/
def execRunnerFinish (r : Nat) (s : State) : Out :=
  let x := s.rn r
  let close (s : State) : State := s.modR r fun x => { x.halt with
    hamper := [], spr := { x.spr with q := [] }, strong := [], laq := [], saq := [], preempt := false }
  if x.squad.isNone then .next s
  else if x.stopReq then (if x.drained then .next (close s).settle else .next s)
  else if !x.complete then .next s
  else
    let s := if x.hamper.any fun h => !h.committed then s.boundary r false none else s
    if (s.rn r).hamper.isEmpty && (s.rn r).complete then .next (close s).settle else .next s

/-! ### Acknowledgement (R211, R272, R282, R317, R352, R362, R378, R379) -/

/-- Whether a rewind in progress is over, or has gone as far as it can: it holds for a present bit, or its runner has begun to acknowledge,
whose loads wait for the restore once the A slice has. DEDUCED, log entry 34. -/
def Runner.restful (x : Runner) (now : Nat) : Bool :=
  match x.rewind with
  | none => true
  | some z => decide (z.at_ ≤ now) && (!x.holdNp.isEmpty || x.ackm != 0)
      && (x.ackm.getLsbD 0 || !x.laq.any fun q => z.redo.contains q.id)
/-- Whether an entry of the strong path waits for something outside the runner's control: it is held, it is a BARS at its place, or its order
or its bytes make it wait for a Sprinter command, or for a Hamper entry that waits (R317). DEDUCED, log entry 34. -/
def State.strongHeld (s : State) (r : Nat) (e : StrongE) : Bool :=
  let x := s.rn r
  let hit (l : List (Nat × Nat)) : Bool := l.any fun z => e.spans.any fun b => meets z.1 z.2 b.1.toNat b.2
  e.held || (e.barsNo != 0 && s.allowed r [] e)
  || (x.spr.q.any fun c => decide (c.id < e.id) && ((ordRel e.ord && !s.sprPerformed r c) || hit (s.sprSpans r c)))
  || x.hamper.any fun h => h.committed && decide (h.id < e.id) && (ordRel e.ord || hit (s.hamSpans r h))
/-- Whether the strong path has performed what it can: its first entry waits for something outside the runner's control (R317). -/
def State.strongQuiet (s : State) (r : Nat) : Bool :=
  let x := s.rn r
  !(s.mem.reqs.any fun q => match q.use with | .strong r' id => r' == r && x.strong.any (fun e => e.id == id) | _ => false)
  && match x.strong with
    | e :: _ => s.strongHeld r e
    | [] => true
/-- Whether the committed entries of the Hamper have been performed, but for those that wait for RFT, for room in the Sprinter queue, or for
an access or a tile that only work to be stopped could let them pass. DEDUCED, log entry 34. -/
def State.hamQuiet (s : State) (r : Nat) : Bool :=
  let x := s.rn r
  let n (h : HamE) : Nat := sizeBits h.size / 8
  let stuck (h : HamE) : Bool := acqGate x h.id || s.storeBehind r h ||
    (x.scratchEls (h.addrs.zipIdx.map fun p => (p.2, p.1)) (sizeBits h.size)).any fun p => s.storeWaits r h.id p.2.1 p.2.2 (n h)
  match x.hamper.head? with
  | some h => !h.committed || h.held || (if h.kind == .store then h.left.isNone && stuck h else decide (16 ≤ x.spr.q.length))
  | none => true
/-- Whether a scratchpad element of a load cannot be performed while its runner is stopped: its tile is FILLING, or an earlier element of the
load has no slot or waits so itself (R220, R338, R352). DEDUCED, log entry 34. -/
def State.levelStuck (s : State) (q : Req) : Bool :=
  let before (z : Req) : Bool := match q.use, z.use with
    | .load r id els, .load r' id' ks => r' == r && id' == id && decide (ks.foldl min 128 < els.foldl min 128)
    | _, _ => false
  isScratch q.va && (s.levelFills q || s.mem.reqs.any fun z => before z && (if isScratch z.va then s.levelFills z else z.start.isNone))
/-- Whether an item of a runner can acknowledge. -/
def State.ackReady (s : State) (r : Nat) (it : AckItem) : Bool :=
  let x := s.rn r
  let easy : Bool := x.restful s.cycle
  let calm (sl : Slice) : Bool := easy && (x.rewind.isSome || (x.sx sl).pend.all fun p => p.landed || !p.own)
  match it with
  | .a => calm .a && x.tabop.isNone && x.qdrain.isNone && s.strongQuiet r && s.hamQuiet r
      && !(s.mem.reqs.any fun q => match q.use with | .load r' _ _ => r' == r && q.start.isSome && !s.levelStuck q | _ => false)
  | .c => calm .c
  | .va | .vb => x.ackm.getLsbD 1
  | .press => easy && (match x.press.fq with | c :: _ => c.start.isNone | [] => true) && (match x.press.cq with | c :: _ => c.start.isNone | [] => true)
  | .sprinter => easy && (match x.spr.q with
    | c :: _ => c.start.isNone || decide (c.issued ≤ c.chunk ∧ c.chunk < s.sprChunks r c)
    | [] => true)
  | .relay => easy && (match x.relay.q with | c :: _ => !c.started | [] => true)
/-- The bit of ACKM of an item (R377). -/
def ackBit : AckItem → Nat
  | .a => 0 | .c => 1 | .va => 2 | .vb => 3 | .press => 4 | .sprinter => 5 | .relay => 6
/-- The loads that have no slot yet, or wait for a tile, are withdrawn; of far-tier and host requests whose data has not come, too (R352). -/
def State.withdrawLoads (s : State) (r : Nat) : State :=
  let out (q : Req) : Bool := q.start.isNone || s.levelStuck q
  let back := s.mem.reqs.filterMap fun q => match q.use with | .load r' id els => if r' == r && out q then some (id, els) else none | _ => none
  let s := s.modR r fun x => { x with laq := x.laq.map fun q =>
    let els := (back.filter fun b => b.1 == q.id).flatMap (·.2)
    { q with taken := q.taken &&& ~~~(elemBits els) } }
  s.modMem fun m => { m with reqs := m.reqs.filter fun q => match q.use with | .load r' _ _ => !(r' == r && out q) | _ => true }
/-- The save of a runner's image begins: pages of the tier noted at the request, and the slots that its lines take. DEDUCED, log entry 33. -/
def State.beginSave (s : State) (z : Squad) (r : Nat) : State :=
  let n := s.imgLen (s.rn r)
  let sz := ceilDiv n 4096 * 4096
  let die := dieOf r
  let base := if z.near then s.takePages nearBase 0x2C000000000 sz 1 else s.takePages (hbmBytes / 4 * die) (hbmBytes / 4 * (die + 1)) sz 1
  let b := (base.getD []).headD 0
  let due := s.cycle + 1 + Config.within 4 r s.cycle % s.within (some z) (usec 400) true
  ({ s.modFw (fun w => { w with saving := w.saving ++ [({ run := r, due := due, base := b, split := none } : Save)] }) with seq := s.seq + 1 }).askSlots
    [(b, n)] true
/-- PREEMPT_ACKNOWLEDGE: an item whose condition holds acknowledges; when all items of all runners of the squad have, the images are
written. -/
def execPreemptAcknowledge (r : Nat) (it : AckItem) (s : State) : Out :=
  let x := s.rn r
  match s.squadOf x with
  | some z =>
    if z.state != .saving || !x.preempt || x.ackm.getLsbD (ackBit it) || !s.ackReady r it then .next s
    else
      let s := match it with
        | .a => (s.withdrawLoads r).modR r fun x =>
            { x.stopSlice .a s.cycle with exchAt := none }
        | .c => s.modR r fun x =>
            let pc := if x.leg.c.acked then some x.leg.c.pc else x.packpc
            { (x.stopSlice .c s.cycle).modSt .c fun t => { t with acked := false } with packpc := pc, exchAt := none }
        | .sprinter => s.modR r fun x => { x with spr := { x.spr with
            q := match x.spr.q with | c :: t => { c with start := none, written := [] } :: t | [] => [] } }
        | _ => s
      let s := s.modR r fun x => { x with ackm := x.ackm ||| (1#7 <<< ackBit it) }
      if z.runners.all fun k => (s.rn k).ackm == ~~~0 then
        let s := s.modSquad z.id fun z => { z with exch := none }
        .next (z.runners.foldl (fun s k => s.beginSave z k) s)
      else .next s
  | none => .next s

/-! ### Context images (R382, R383, R387) -/

/-- A window's entries and bytes, counted from its own first entry and byte. -/
def fromWindow (w : Window) (tiles : List (Nat × Tile)) (m : Memory) : List (Nat × Tile) × Memory :=
  ((tiles.filter fun e => decide (w.first ≤ e.1 ∧ e.1 < w.first + w.count)).map fun e => (e.1 - w.first, e.2),
   (m.filter fun c => decide (w.base ≤ c.1 ∧ c.1 < w.base + w.size)).map fun c => (c.1 - w.base, c.2))
/-- The race records of a window's granules, counted from its first (R314). DEDUCED, log entry 52. -/
def State.windowRaces (s : State) (w : Window) (at_ : Granule → Option Nat) (vat : Bool) : List ((Bool × Nat) × Race) :=
  s.mem.races.filterMap fun e => match at_ e.1 with
    | some k => if w.base / 256 ≤ k ∧ k * 256 < w.base + w.size then some ((vat, k - w.base / 256), e.2) else none
    | none => none
/-- The image of a runner of a saved squad: its header, the runner, the window sections it carries. DEDUCED, log entry 33. -/
def State.imageOf (s : State) (z : Squad) (x : Runner) (v : Save) : Image :=
  let k := s.tabs.tkey z.owner
  let cl := clusterOf x.num
  let die := dieOf x.num
  let tub := if s.carriesTub x then some x.tubWin else none
  let vat := if x.idx = 0 then some x.vatWin else none
  let n := s.imgLen x
  let rest := if v.split.isSome then s.takePages nearBase 0x2C000000000 (ceilDiv n 4096 * 4096) 1 else none
  { owner := z.owner, nonce := k.ctxn, heat := z.heat, sqn := z.sqn, idx := x.idx, nrun := z.nrun, gen := k.curgen, swept := 0,
    split := v.split.getD n, hbase := v.base, nbase := (rest.getD []).headD 0, time := nowNs s.cycle, commit := k.ctxn, ok := true, len := n,
    cluster := cl, srs := z.srs, cap := aget s.fw.capture x.num,
    run := { x with
      rewind := x.rewind.map fun (w : Rewind) => { w with at_ := 0 }
      press := { x.press with shadow := [], shdw := x.press.shdw ||| x.press.shadow.foldl (fun m p => m ||| (1#8 <<< p.1)) 0 }
      cx := { x.cx with im := IMem.reset }, ax := { x.ax with im := IMem.reset }
      slipst := 0, popst := 0, rewinds := Vector.replicate 4 0, softrep := 0, lodFrom := x.lod }
    tub := (match tub with | some w => fromWindow w (agetD s.mem.tubTiles cl []) (agetD s.mem.tub cl []) | none => ([], []))
    vat := (match vat with | some w => fromWindow w (agetD s.mem.vatTiles die []) (agetD s.mem.vat die []) | none => ([], []))
    races := (match tub with
        | some w => s.windowRaces w (fun g => match g with | .tub c k => if c = cl then some k else none | _ => none) false
        | none => [])
      ++ (match vat with
        | some w => s.windowRaces w (fun g => match g with | .vat d k => if d = die then some k else none | _ => none) true
        | none => []) }
/-- The arrays of a runner, with the windows whose sections it carries, read by its save: what can be corrected is, uncorrectable words are
logged and stain the rows of row-mapped tiles, slots and accumulators that they touch; the image takes their bits as read (R209, R221, R284).
DESIGN CHOICE, log entry 101. -/
def State.readForSave (s : State) (r : Nat) : State :=
  let x := s.rn r
  let own := [(1, 2 ^ 19), (2, 2 ^ 15), (6, 2 ^ 28)]
  let s := own.foldl (fun s a => s.corrects r a.1 r 0 a.2) s
  let s := own.foldl (fun s a => s.logWords r (s.failsIn a.1 r 0 a.2)) s
  let mg := s.failsIn 1 r 0 (2 ^ 19)
  let ac := s.failsIn 2 r 0 (2 ^ 15)
  let slots (p : Press) : Press := mg.foldl (fun p f => p.modSlot (f.off / 32768) fun m =>
    if m.rmap then { m with stain := m.stain ||| (1#32 <<< (f.off % 32768 / 1024)) } else m) p
  let banks (p : Press) : Press := ac.foldl (fun p f => p.modBank (f.off / 4096) fun b =>
    if x.leg.cellcfg.getLsbD (f.off / 4096) then { b with stain := b.stain ||| (1#32 <<< (f.off % 4096 / 128)) } else b) p
  let s := s.modR r fun x => { x with press := banks (slots x.press) }
  let lvls := Lvl.basin :: (if s.carriesTub x then [Lvl.tub] else []) ++ if x.idx = 0 then [Lvl.vat] else []
  lvls.foldl (fun s l =>
    let s := s.spCorrects r l 0 (x.window l).size
    let bad := s.spFails r l 0 (x.window l).size
    (s.logWords r bad).stainUnits r l bad) s
/-- The image of a runner written, its nonce recorded as the expected one. DEDUCED, log entry 33. -/
def State.writeImage (s : State) (z : Squad) (r : Nat) (v : Save) : State :=
  let s := s.readForSave r
  let i := s.imageOf z (s.rn r) v
  let k := s.tabs.tkey z.owner
  let key := (i.heat, i.sqn, i.idx)
  let s := i.parts.foldl (fun s p => s.meterBytes z.owner [p] true) s
  let s := if i.split < i.len then s.askSlots (i.parts.drop 1) true else s
  let s : State := { s with
    seq := s.seq + 1
    tabs := { s.tabs with tkeys := aput s.tabs.tkeys z.owner { k with ctxn := k.ctxn + 1 }, expected := aput s.tabs.expected key i.nonce } }
  (s.modFw fun w => { w with
    images := (w.images.filter fun j => (j.heat, j.sqn, j.idx) != key) ++ [i]
    saving := w.saving.filter fun e => e.run != r }).putImage i
/-- CONTEXT_SAVE_COMPLETE: a runner's image is complete; with the last of the squad the squad is ready again, on no runner. -/
def execContextSaveComplete (r : Nat) (s : State) : Out :=
  match s.fw.saving.find? fun e => e.run == r, s.squadOf (s.rn r) with
  | some e, some z =>
    if s.cycle < e.due || (match s.heat z.heat with | some h => h.ended.isSome | none => true) then .next s
    else
      let s := s.writeImage z r e
      if z.runners.any fun k => s.fw.saving.any fun e => e.run == k then .next s
      else
        let s := z.runners.foldl (fun s k => s.dropRunner k) s
        .next (s.modSquad z.id fun z => { z with state := .saved, runners := [], request := none, recalled := false })
  | _, _ => .next s

/-! ### Self-tests (R430) -/

/-- A squad that a failed test keeps from starting is ready again; its accepted images stand. -/
def State.returnSquad (s : State) (z : Squad) : State :=
  let ims := s.imagesOf z
  let s : State := { s with tabs := { s.tabs with expected := ims.foldl (fun l i => aput l (i.heat, i.sqn, i.idx) i.nonce) s.tabs.expected } }
  let s := z.runners.foldl (fun s r => s.dropRunner r) s
  s.modSquad z.id fun z => { z with state := if ims.isEmpty then .ready else .saved, runners := [], hold := false }
/-- A runner's self-test is over: one that passes returns to service, one that fails is retired. -/
def State.endTest (s : State) (r : Nat) (pass : Bool) : State :=
  if !s.fw.tests.contains r then s
  else
    let s := s.modFw fun w => { w with
      tests := w.tests.filter fun t => t != r
      retired := if pass then w.retired else w.retired ++ [r] }
    let s := if pass then s.modR r fun x => { x with withdrawn := false } else s
    match s.squadOf (s.rn r) with
    | some z =>
      if !z.hold || z.state != .running then s
      else if !pass then s.returnSquad z
      else if z.runners.any s.fw.tests.contains then s
      else s.letGo z
    | none => s
/-- SELF_TEST_COMPLETE. DEDUCED, log entry 34. -/
def execSelfTestComplete (r : Nat) (pass : Bool) (s : State) : Out := .next (s.endTest r pass)
/-- Self-tests on wake whose bound, 10 µs and 150 µs after placement, has passed without an outcome: it comes now, freely (R430).
DEDUCED, log entry 34. -/
def State.lateTests (s : State) : State :=
  (s.fw.tests.filter fun r => match s.squadOf (s.rn r) with | some z => z.hold && decide (z.at_ + usec 160 ≤ s.cycle) | none => false).foldl
    (fun s r => { s with seq := s.seq + 1 }.endTest r (Config.choice 1 r s.cycle % 2 == 0)) s

/-! ### Scheduling rounds (R402-R407) -/

/-- DEF of an owner at a level of a pool. -/
def State.defOf (s : State) (pool lvl o : Nat) : Int := agetD s.fw.defs (pool, lvl, o) 0
/-- That set. -/
def State.setDef (s : State) (pool lvl o : Nat) (v : Int) : State := s.modFw fun w => { w with defs := aput w.defs (pool, lvl, o) v }
/-- Owners of a pool with a ready squad at a level. -/
def State.readyOwners (s : State) (pool lvl : Nat) : List Nat :=
  (s.tabs.ownersOf pool).filter fun o => s.fw.squads.any fun z => z.owner == o && s.levelOf z == lvl && s.isReady z
/-- A list of owners from a pointer on. -/
def fromPtr (l : List Nat) (p : Nat) : List Nat := l.filter (fun o => decide (p ≤ o)) ++ l.filter fun o => decide (o < p)
/-- An owner's head squad placed, when it fits and `ok` of its size. -/
def State.placeHead (s : State) (lvl o : Nat) (ok : Nat → Bool) : Option (State × Nat) :=
  match s.headSquad o lvl with
  | some z => if ok z.nrun then (s.fits z).map fun p => (s.placeSquad z p, z.nrun) else none
  | none => none
/-- Pass 1 for an owner. -/
def State.passOne (s : State) (pool lvl o : Nat) : Nat → State
  | 0 => s
  | k + 1 =>
    match s.placeHead lvl o fun n => decide ((n : Int) ≤ s.defOf pool lvl o) with
    | some (s', n) => State.passOne (s'.setDef pool lvl o (s.defOf pool lvl o - n)) pool lvl o k
    | none => s
/-- A turn of pass 2, and whether it placed anything. -/
def State.turnTwo (s : State) (pool lvl : Nat) (os : List Nat) : State × Bool :=
  os.foldl (fun a o =>
    match a.1.placeHead lvl o fun _ => true with
    | some (s', n) => (s'.setDef pool lvl o (max (a.1.defOf pool lvl o - n) (-64)), true)
    | none => a) (s, false)
/-- Pass 2. -/
def State.passTwo (s : State) (pool lvl : Nat) (os : List Nat) : Nat → State
  | 0 => s
  | k + 1 => let t := s.turnTwo pool lvl os; if t.2 then State.passTwo t.1 pool lvl os k else t.1
/-- The procedure of R404 at one level of a pool; `may` says that no higher level has a squad left to place. -/
def State.runLevel (s : State) (pool lvl : Nat) (may : Bool) : State :=
  let os := s.readyOwners pool lvl
  let w (o : Nat) : Int := (s.tabs.weightOf o).cur
  let s := os.foldl (fun s o => s.setDef pool lvl o (min (s.defOf pool lvl o + 8 * w o) (8 * w o + 63))) s
  let ptr := agetD s.fw.ptrs (pool, 0) 0
  let os := fromPtr os ptr
  let n := s.fw.squads.length + 1
  let s := if may then (os.foldl (fun s o => s.passOne pool lvl o n) s).passTwo pool lvl os n else s
  let all := s.tabs.ownersOf pool
  let nx := match all.find? fun o => decide (ptr < o) with | some o => o | none => all.headD 0
  let s := s.modFw fun w => { w with ptrs := aput w.ptrs (pool, 0) nx }
  let left := s.readyOwners pool lvl
  all.foldl (fun s o => if left.contains o then s else s.setDef pool lvl o 0) s

/-- The squads that may be pre-empted for a waiting squad of n runners, in the order of R405: for a FIXED owner every borrower of its
runners first (R407). DEDUCED, log entry 32. -/
def State.candidates (s : State) (pool lvl o n : Nat) : List Squad :=
  let run (z : Squad) : Bool := z.state == .running && !z.hold
  let mask := (s.tabs.quotaOf o).rmask
  let borrowed (z : Squad) : Bool := pool != 0x7FF && z.owner != o && z.runners.any mask.getLsbD
  let ripe (z : Squad) : Bool := decide (z.at_ + usec z.quantum ≤ s.cycle) && decide ((s.tabs.tkey z.owner).ctxn < 2 ^ 64 - 1)
  let lower (z : Squad) : Bool := s.tabs.poolOf z.owner == pool && ripe z &&
    (decide (s.levelOf z < lvl) || (s.levelOf z == lvl && z.owner != o && decide (s.defOf pool lvl z.owner < 0 ∧ (n : Int) ≤ s.defOf pool lvl o)))
  let sorted (l : List Squad) := l.mergeSort fun a b => decide (s.levelOf a < s.levelOf b ∨ (s.levelOf a = s.levelOf b ∧ b.at_ ≤ a.at_))
  sorted (s.fw.squads.filter fun z => run z && borrowed z) ++ sorted (s.fw.squads.filter fun z => run z && !borrowed z && lower z)
/-- The fewest candidates of a list that make room for a squad on a die: their number and where it would go. DEDUCED, log entry 32. -/
def State.roomAfter (s : State) (z : Squad) (gone : List Nat) (die : BitVec 4) (cs : List Squad) : Option (List Squad × Place) :=
  (List.range cs.length).findSome? fun k =>
    let l := cs.take (k + 1)
    (s.fitsOn z (gone ++ l.flatMap (·.runners)) die).map fun p => (l, p)
/-- The state with some runners set aside, for a question about the others. -/
def State.setAside (s : State) (l : List Nat) : State := l.foldl (fun s r => s.modR r fun x => { x with withdrawn := true }) s
/-- The borrowers that a lender's squad waits for, where they are being pre-empted already, recalled (R407). -/
def State.hasten (s : State) (z : Squad) (runs : List Nat) : State :=
  (s.fw.squads.filter fun q => q.state == .saving && q.owner != z.owner && q.runners.any fun r =>
    runs.contains r && (s.tabs.poolOf z.owner != 0x7FF) && (s.tabs.quotaOf z.owner).rmask.getLsbD r).foldl (fun s q => s.recall q.id) s
/-- Room made for a waiting squad; `claimed` are runners that earlier waiting squads will take. DEDUCED, log entry 32. -/
def State.makeRoom (s : State) (pool lvl : Nat) (z : Squad) (claimed : List Nat) : State × List Nat :=
  let t := s.setAside claimed
  let going := (s.fw.releasing.map (·.1) ++ (s.fw.squads.filter fun q => q.state == .saving).flatMap (·.runners)).filter fun r => !claimed.contains r
  match t.fitsOn z going 0xF with
  | some p => (s.hasten z p.runs, claimed ++ p.runs)
  | none =>
    let cs := (s.candidates pool lvl z.owner z.nrun).filter fun c => !c.runners.any claimed.contains
    let ways := (List.range 4).filterMap fun d =>
      let here := cs.filter fun c => c.runners.any fun r => dieOf r == d && s.tabs.mayHold z.owner r
      t.roomAfter z going (1#4 <<< d) here
    match ways.foldl (fun (b : Option (List Squad × Place)) w => match b with
        | some v => if w.1.length < v.1.length then some w else some v
        | none => some w) none with
    | some w => (w.1.foldl (fun s c => if c.owner != z.owner && s.tabs.poolOf c.owner != pool then s.recall c.id
        else s.slice c.id) s, claimed ++ w.2.runs)
    | none => (s, claimed)
/-- The ready squads of an owner at a level, saved ones first, then heats in order of acceptance (R403, R404). -/
def State.waiting (s : State) (o lvl : Nat) : List Squad :=
  let l := s.fw.squads.filter fun z => z.owner == o && s.levelOf z == lvl && s.isReady z
  let by_ (l : List Squad) : List Squad := s.fw.heats.flatMap fun (h : Heat) => l.filter fun z => z.heat == h.id
  by_ (l.filter fun z => z.state == .saved) ++ by_ (l.filter fun z => z.state != .saved)
/-- One pool in a round: its levels from 7 down, then room for every ready squad that is left, level by level (R402, R405). -/
def State.runPool (s : State) (pool : Nat) : State :=
  let a := (List.range 8).foldl (fun (a : State × Option Nat) k =>
    let lvl := 7 - k
    if (a.1.readyOwners pool lvl).isEmpty then a
    else
      let s := a.1.runLevel pool lvl a.2.isNone
      (s, if a.2.isNone && !(s.readyOwners pool lvl).isEmpty then some lvl else a.2)) (s, none)
  let s := a.1
  if s.fw.powerHold then s
  else
    let left := (List.range 8).flatMap fun k => (fromPtr (s.readyOwners pool (7 - k)) (agetD s.fw.ptrs (pool, 0) 0)).flatMap fun o => s.waiting o (7 - k)
    (left.foldl (fun (b : State × List Nat) z => b.1.makeRoom pool (b.1.levelOf z) z b.2) (s, [])).1
/-- SCHEDULING_ROUND: at each multiple of 10 µs, pool by pool; what has been raised in quotas counts from here (R266). -/
def execSchedulingRound (s : State) : Out :=
  if !s.bnd.released || s.cycle % usec 10 ≠ 0 then .next s
  else
    let s := s.quotaRound.readmitAll
    .next (s.tabs.pools.foldl (fun s p => s.runPool p) s).settle
/-- FAIRNESS_WINDOW: at each multiple of 10 ms the written weights count (R249, R266, R402). -/
def execFairnessWindow (s : State) : Out :=
  if s.cycle % usec 10000 ≠ 0 then .next s
  else .next { s with tabs := { s.tabs with weight := s.tabs.weight.map fun e => (e.1, { e.2 with cur := e.2.w, pcur := e.2.pmax }) } }
/-- RUNNER_POWER_GATE: a runner without a squad for 200 µs is gated (R430). -/
def execRunnerPowerGate (r : Nat) (s : State) : Out :=
  let x := s.rn r
  if s.bnd.released && s.idle r && decide (r < 256) && !x.gated && decide (x.idleAt + usec 200 ≤ s.cycle) then
    .next (s.modR r fun x => { x with gated := true })
  else .next s

end Sys2Proof.Machine
end

