-- ==== Sys2Proof/Machine/RunnerEvents.lean ====
section
/-! DEFINITION. Events of a runner: results landing, waits, queue visibility, QDRAIN, patch copies, re-entry after a rewind, presence,
exchanges, soft errors (R56, R61, R137, R236, R239, R332, R349, R363, R370-R372, R375, R376, R422). -/

namespace Sys2Proof.Machine

/-! ### Results (R56, R61, R363) -/

/-- A slice's results: number n has landed, and those whose bound has passed are forgotten. -/
def settlePend (l : List Pend) (n now : Nat) : List Pend :=
  (l.map fun p => if p.seq == n then { p with landed := true } else p).filter fun p => !(p.landed && decide (p.issue + p.bound ≤ now))
/-- A result of a slice due now is written to its register. -/
def State.landOne (s : State) (r : Nat) (sl : Slice) (n : Nat) (re : Bool) : State :=
  let x := s.rn r
  match (x.sx sl).pend.find? fun p => p.seq == n && !p.landed && p.reinj == re with
  | some p =>
    if s.cycle < p.land || x.rewind.isSome then s
    else s.modR r fun x => (x.land p).modX sl fun y => { y with pend := settlePend y.pend n s.cycle }
  | none => s
/-- RESULT_LANDS. -/
def execResultLands (r : Nat) (sl : Slice) (n : Nat) (s : State) : Out := .next (s.landOne r sl n false)
/-- IFQ_REINJECTION (R363). -/
def execIfqReinjection (r : Nat) (sl : Slice) (n : Nat) (s : State) : Out := .next (s.landOne r sl n true)
/-- WAIT_ELAPSED (R137). -/
def execWaitElapsed (r : Nat) (sl : Slice) (s : State) : Out :=
  let x := s.rn r
  let w := (x.st sl).wait
  if 0 < w ∧ w ≤ s.cycle ∧ !x.preempt ∧ x.rewind.isNone then .next (s.modR r fun x => x.modSt sl fun t => { t with wait := 0 }) else .next s

/-! ### Queues between the slices (R332, R349) -/

/-- Entries due by now seen by the popping slice. -/
def showV (l : List VqE) (now : Nat) : List VqE := l.map fun e => if e.due ≤ now then { e with shown := true } else e
/-- As `showV`, for scalar entries. -/
def showS (l : List SqE) (now : Nat) : List SqE := l.map fun e => if e.due ≤ now then { e with shown := true } else e
/-- QUEUE_ENTRY_VISIBLE: pushes and pops of a queue due by now are seen by the other slice. -/
def execQueueEntryVisible (r : Nat) (q : QName) (s : State) : Out :=
  .next (s.modR r fun x =>
    let x := { x with freed := x.freed.filter fun e => !(e.1 == q && decide (e.2 ≤ s.cycle)) }
    match q with
    | .sdq => x.modLeg fun l => { l with sdq := showV l.sdq s.cycle }
    | .ixq => x.modLeg fun l => { l with ixq := showV l.ixq s.cycle }
    | .caq => x.modLeg fun l => { l with caq := showS l.caq s.cycle }
    | .acq => x.modLeg fun l => { l with acq := showS l.acq s.cycle }
    | _ => x)
/-- QDRAIN_TAKES_EFFECT: in the first cycle in which no earlier entry is RESERVED; the A slice goes on in the next.
DEDUCED, log entry 21. -/
def execQdrainTakesEffect (r : Nat) (s : State) : Out :=
  let x := s.rn r
  match x.qdrain with
  | some (one, n) =>
    if ldqSettled n (x.leg.ldq one) then
      .next (s.modR r fun x => (x.drainLdq one n).modSt .a fun t => { t with wait := max t.wait (s.cycle + 1) })
    else .next s
  | none => .next s

/-! ### Patch copies (R239) -/

/-- A patch copied into the half that was idle when the copy began (R18). DEDUCED, log entry 67. -/
def IMem.copied (m : IMem) (q : Nat) (one : Bool) : IMem :=
  let b := agetD m.code q []
  if one then { m with half1 := some q, bytes1 := b, copy := none } else { m with half0 := some q, bytes0 := b, copy := none }
/-- PATCH_COPY_COMPLETE. -/
def execPatchCopyComplete (r : Nat) (sl : Slice) (s : State) : Out :=
  match ((s.rn r).sx sl).im.copy with
  | some c =>
    if c.fin ≤ s.cycle then
      .next ((s.modR r fun x => x.modX sl fun y => { y with im := y.im.copied c.patch c.half1 }).wrote r 5 r (imemOff sl c.half1 0)
        (16 * match aget ((s.rn r).sx sl).im.tab c.patch with | some p => p.len | none => 0))
    else .next s
  | none => .next s

/-! ### Rewinds end (R236, R363, R371) -/

/-- A schedule moved by some cycles. -/
def shiftPend (l : List Pend) (n : Nat) : List Pend := l.map fun p => { p with issue := p.issue + n, land := p.land + n }
/-- REWIND_REENTRY: both slices may issue their Fold bundles, in the cycle that R371 gives or when the hold is over and the loads of R344 have
been performed again. DEDUCED, log entry 18. -/
def execRewindReentry (r : Nat) (s : State) : Out :=
  let x := s.rn r
  match x.rewind with
  | some z =>
    let held := match s.squadOf x with | some q => q.hold | none => false
    if s.cycle < z.at_ || !x.holdNp.isEmpty || x.ackm != 0 || held || x.stopReq || x.laq.any (fun q => z.redo.contains q.id) then .next s
    else
      let n := s.cycle - z.at_
      let late (t : Strm) : Strm := { t with wait := t.wait + n }
      .next (s.modR r fun x => { x with
        rewind := none
        cx := { x.cx with pend := shiftPend x.cx.pend n }
        ax := { x.ax with pend := shiftPend x.ax.pend n }
        leg := { x.leg with c := late x.leg.c, s := late x.leg.s } })
  | none => .next s
/-- NOT_PRESENT_HOLD_RELEASE: every extent waited for is present again. -/
def execNotPresentHoldRelease (r : Nat) (s : State) : Out :=
  .next (s.modR r fun x =>
    if x.holdNp.all fun n => match aget x.extents n with | some e => e.p | none => false then { x with holdNp := [] } else x)
/-- SOFT_ERROR: a parity failure replayed once; a replay that succeeds is only counted (R370, R422). -/
def execSoftError (r : Nat) (replayOk : Bool) (s : State) : Out :=
  if !(s.rn r).active || (s.rn r).stopReq then .next s
  else if replayOk then .next (s.modR r fun x => { x with softrep := x.softrep + 1 })
  else if (s.rn r).rewind.isSome then .next s
  else .next (s.rewind r 3 [])

/-! ### The clearing of P acknowledged (R236) -/

/-- Whether a byte range lies partly in an extent. -/
def Extent.touches (e : Extent) (a n : Nat) : Bool := meets e.vbase e.len a n
/-- Whether some access of a runner that passed its check still uses an extent; entries of the Hamper not committed apart. -/
def State.extentBusy (s : State) (x : Runner) (e : Extent) : Bool :=
  let els (l : List Word) (n : Nat) : Bool := l.any fun a => e.touches a.toNat n
  (x.laq.any fun q => els (q.addrs.filter fun a => !isScratch a) (sizeBits q.size / 8))
  || (x.saq.any fun q => els (q.addrs.filter fun a => !isScratch a) (sizeBits q.size / 8))
  || (x.strong.any fun z => z.spans.any fun p => e.touches p.1.toNat p.2)
  || ((x.hamper.filter (·.committed)).any fun h => (s.hamSpans x.num h).any fun p => e.touches p.1 p.2)
  || (x.spr.q.any fun c => match c.i with
      | .bararr _ => e.touches c.s1.toNat 16
      | i => sprMem i && match c.tile.bind (s.tile x.num) with
        | some t => (tileSpans x t i c.s2 (bits c.sd.toNat 0 16)).any fun p => e.touches p.1 p.2
        | none => false)
  || (match x.tabop with | some t => t.img.length < t.need && e.touches t.s2.toNat t.need | none => false)
/-- Whether an entry of the Hamper that is not committed lies in an extent. -/
def State.hamIn (s : State) (x : Runner) (e : Extent) : Bool :=
  (x.hamper.filter fun h => !h.committed).any fun h => (s.hamSpans x.num h).any fun p => e.touches p.1 p.2
/-- EXTENT_ACKNOWLEDGE: extent k of runner r has P clear; a leg whose Hamper holds an entry for it is rewound at once (R236, R461), and
once no access to it is left under way the runner acknowledges. -/
def execExtentAcknowledge (r k : Nat) (s : State) : Out :=
  let key := 16 * r + k
  if !(s.fw.cmds.any fun c => c.acks.contains key) then .next s
  else
    let ack (s : State) : State := s.modFw fun w => { w with cmds := w.cmds.map fun (c : Cmd) => { c with acks := c.acks.filter fun a => a != key } }
    let x := s.rn r
    match aget x.extents k with
    | none => .next (ack s)
    | some e =>
      if x.squad.isNone then .next (ack s)
      else if s.hamIn x e then
        .next (if x.rewind.isNone && !x.stopReq then s.rewind r 1 ((s.hamExts r ++ [k]).eraseDups) else s)
      else if s.extentBusy x e then .next s
      else .next (ack s)

/-! ### Exchanges (R375, R376) -/

/-- EXCHANGE_PASS: when the last runner of the squad has reached its exchange, in cycle e, all pass in cycle e + 8.
DEDUCED, log entry 17. -/
def execExchangePass (q : Nat) (s : State) : Out :=
  match s.fw.squads.find? fun z => z.id == q with
  | none => .next s
  | some z =>
    if z.state != .running || z.runners.length ≤ 1 then .next s
    else
      let at_ := z.runners.map fun r => (s.rn r).exchAt
      let all := at_.all (·.isSome)
      match z.exch with
      | none =>
        if all then
          let e := (at_.filterMap fun o => o.map (·.2)).foldl max 0
          .next (s.modSquad q fun z => { z with exch := some (e + 8) })
        else .next s
      | some e =>
        if s.cycle < e then (if all then .next s else .next (s.modSquad q fun z => { z with exch := none }))
        else if s.cycle = e && all then .next (s.joinSquad z.runners)
        else
          let n := (s.rn (z.runners.headD 0)).leg.xcnt
          if at_.all (·.isNone) && z.runners.all (fun r => (s.rn r).leg.xcnt == n) then .next (s.modSquad q fun z => { z with exch := none })
          else .next s

end Sys2Proof.Machine
end

