-- ==== Sys2Proof/Machine/TableDone.lean ====
section
/-! DEFINITION. Table operations complete: leases and their revocation, the effects of a changed quota, SCRUB, the completion of TDEF, the
partition writes, KEYLD and KEYROT (R223, R224, R244-R248, R254-R259, R264, R266). -/

namespace Sys2Proof.Machine

/-! ### Leases (R255, R256) -/

/-- Whether a module is a peer in the trust domain: a session with it is open (R446). -/
def State.trusted (s : State) (peer : Nat) : Bool := s.bnd.rigal.any fun z => z.isOpen && z.peer == peer
/-- The lease entry of an image. -/
def leaseImg (v : Nat) : Lease :=
  { notice := bits v 320 32, deadline := 0, rbase := bits v 192 56, len := bits v 128 56, lbase := bits v 64 56, peer := bits v 48 16,
    ports := BitVec.ofNat 16 (bits v 32 16), owner := bits v 4 11, revoking := bits v 2 2 == 2, lessor := bits v 0 2 == 2, seqNo := 0,
    applied := [], noPorts := false, unanswered := [], resv := [] }
/-- Whether two entries are the same lease. -/
def Lease.same (a b : Lease) : Bool :=
  a.notice == b.notice && a.rbase == b.rbase && a.len == b.len && a.lbase == b.lbase && a.peer == b.peer && a.ports == b.ports && a.owner == b.owner
  && a.lessor == b.lessor
/-- Whether an image's fields are in range. -/
def leaseBad (v : Nat) : Bool :=
  let e := leaseImg v
  let role := bits v 0 2
  let inside := if role = 1 then decide (farBase ≤ e.lbase ∧ e.lbase + e.len ≤ 2 * farBase) else decide (e.lbase + e.len ≤ hbmBytes)
  decide (bits v 256 64 ≠ 0 ∨ bits v 2 2 = 3 ∨ role = 3 ∨ 1024 < e.owner) ||
  (bits v 2 2 != 0 && (role == 0 || !inside || e.ports == 0 ||
    decide (e.notice < 1000 ∨ 1000000 < e.notice ∨ e.len = 0 ∨ e.len % 2 ^ 21 ≠ 0)))
/-- Whether a range lies in an owner's pleats. -/
def Tables.inPleats (t : Tables) (o a n : Nat) : Bool :=
  (outside ((t.pleats.filter fun e => e.2.owner == o).map fun e => (e.2.pbase, e.2.len)) (a, n)).isEmpty
/-- The leaves that map a physical range. -/
def Tables.mapping (t : Tables) (a n : Nat) : List Leaf := t.leaves.filter fun e => meets e.pa e.size a n
/-- A command of the firmware's own. -/
def ownPkt (opc o arg : Nat) : Pkt :=
  { queue := 2 ^ 40, func := o, qid := 0, serial := 0, acc := 0, die := 0, opc := opc, flags := 0, tag := 0, cwaddr := 0, cwval := 0, body := natLe 8 arg }
/-- A command that takes time. -/
def State.addCmd (s : State) (p : Pkt) (due : Nat) (acks : List Nat) (pages : List (Nat × Nat) := []) (img : List Byte := [])
    (key : BitVec 256 := 0) (queued : Bool := false) (saves : List Nat := []) : State :=
  { s.modFw (fun w => { w with cmds := w.cmds ++
      [{ id := s.seq, pkt := p, pages := pages, img := img, key := key, due := due, status := 0, detail := 0, acks := acks, steps := 0,
         queued := queued, saves := saves }] }) with
    seq := s.seq + 1 }
/-- Leaves made not present under running work, with the acknowledgements that this needs (R235). -/
def State.hideAll (s : State) (l : List Leaf) : State × List Nat :=
  l.foldl (fun a e =>
    let c := (a.1.hideLeaves e.owner e.va e.size).clearP e.owner e.va e.size
    (c.1, a.2 ++ c.2)) (s, [])
/-- An ACTIVE entry goes to REVOKING: DEADLINE is set; a window's pages go not present and are brought home. -/
def State.beginRevoke (s : State) (ix : Nat) : State :=
  match aget s.tabs.leases ix with
  | some e =>
    let e' : Lease := { e with revoking := true, deadline := nowNs s.cycle + 1000 * e.notice }
    let s := ({ s with tabs := { s.tabs with leases := aput s.tabs.leases ix e' } } : State).send (.peer ix true)
    if e.lessor then s
    else
      let h := s.hideAll (s.tabs.mapping e.lbase e.len)
      h.1.addCmd (ownPkt 0x100 e.owner ix) (h.1.cycle + 1) h.2.eraseDups
  | none => s
/-- A lease image applied; `agreed` says that the peer's firmware agrees (R256). An entry that is not FREE takes no change but the two
listed, not even to what it holds. DEDUCED, log entry 97. -/
def State.putLease (s : State) (ix v : Nat) (aligned agreed : Bool) : Except Nat State :=
  let e := leaseImg v
  let new := bits v 2 2
  let cur := aget s.tabs.leases ix
  let others := s.tabs.leases.filter fun z => z.1 != ix
  let start := cur.isNone && new == 1
  let windows := others.filter fun z => !z.2.lessor
  let clash := start && !e.lessor && (windows.any (fun z => meets z.2.lbase z.2.len e.lbase e.len)
    || decide (2 ^ 44 < (windows.map fun z => z.2.len).sum + e.len))
  let noRange := start && e.lessor && (!s.tabs.inPleats e.owner e.lbase e.len || s.tabs.anyMapped e.lbase e.len)
  let tooMany := start && decide ((s.tabs.quotaOf e.owner).maxlease < (s.tabs.leases.filter fun z => z.2.owner == e.owner).length + 1)
  let busy := match cur with
    | none => false
    | some c =>
      if c.revoking || new == 1 then true
      else if new = 0 then c.lessor || s.tabs.anyMapped c.lbase c.len
      else !c.same e
  match refuse [(decide (255 < ix), 1), (resv v [(352, 32), (248, 8), (184, 8), (120, 8), (15, 17)], 2),
      (!aligned || leaseBad v || (cur.isNone && (new == 0 || new == 2)) || (start && !(agreed && s.trusted e.peer)), 3), (clash, 4), (noRange || busy, 5),
      (tooMany, 6)] with
  | some n => .error n
  | none =>
    if start then .ok { s with tabs := { s.tabs with leases := aput s.tabs.leases ix { e with revoking := false } } }
    else match cur with
      | some c =>
        if !c.revoking && new == 2 then .ok (s.beginRevoke ix)
        else if new = 0 then .ok ({ s with tabs := { s.tabs with leases := adel s.tabs.leases ix } }.farExtents)
        else .ok s
      | none => .ok s
/-- Whether an image asks for a new lease whose outcome the peer's answer decides: its refusal is reason 3, which comes before the reasons 4
to 6 of an image that the peer agrees to (R244, R256). -/
def State.asksPeer (s : State) (ix v : Nat) (aligned : Bool) : Bool :=
  bits v 2 2 == 1 && (aget s.tabs.leases ix).isNone && match s.putLease ix v aligned true with | .ok _ => true | .error n => decide (3 < n)
/-- The peer's firmware asked about entry `ix`. -/
def State.askPeer (s : State) (ix : Nat) : State :=
  ({ s with bnd := { s.bnd with agreed := s.bnd.agreed.filter fun a => a != ix } } : State).send (.peer ix false)
/-- LEASE_DEADLINE (R256): a page of a window not home is invalidated, and heats held on it end; a lessor's range is closed and zeroed. -/
def execLeaseDeadline (i : Nat) (s : State) : Out :=
  match aget s.tabs.leases i with
  | some e =>
    if !e.revoking || nowNs s.cycle < e.deadline then .next s
    else
      let s := s.modFw fun w => { w with cmds := w.cmds.filter fun c => !(c.pkt.opc == 0x100 && fieldLe c.pkt.body 0 8 == i) }
      let s := if e.lessor then
          ((s.modMem fun m => { m with reqs := m.reqs.filter fun q => match q.use with | .lease k _ _ => k != i | _ => true }).askZero
            e.owner e.lbase e.len 0).zeroPage e.owner e.lbase e.len
        else
          let lost := s.tabs.mapping e.lbase e.len
          let stuck (x : Runner) : Bool := x.holdNp.any fun n => match aget x.extents n with
            | some z => lost.any fun l => l.owner == x.owner && meets l.va l.size z.vbase z.len
            | none => false
          let s := (s.runners.filter fun x => x.squad.isSome && stuck x).foldl (fun s x => s.hardFault x.num .c x.leg.c.pc 1) s
          lost.foldl (fun s l => s.dropLeaves l.owner l.va l.size) s
      .next ({ s with tabs := { s.tabs with leases := adel s.tabs.leases i } }.settle)
  | none => .next s

/-! ### A changed quota (R266) -/

/-- Whether a squad stands where its owner's quota, or a FIXED owner's, no longer lets it. -/
def State.misplaced (s : State) (z : Squad) : Bool := z.runners.any fun r => !s.tabs.mayHold z.owner r
/-- The squads a changed quota entry of owner o pre-empts: misplaced ones, and of the owner's others the most recently dispatched until
MAXRUN holds. DEDUCED, log entry 57. -/
def State.quotaVictims (s : State) (o : Nat) : List Nat :=
  let run := s.fw.squads.filter fun z => z.state == .running
  let bad := run.filter s.misplaced
  let mine := (run.filter fun z => z.owner == o && !s.misplaced z).mergeSort fun a b => decide (b.at_ ≤ a.at_)
  let total := (mine.map (·.nrun)).sum
  let tooMany := (mine.foldl (fun (a : Nat × List Nat) z =>
    if (s.tabs.quotaOf o).maxrun < a.1 then (a.1 - z.nrun, a.2 ++ [z.id]) else a) (total, [])).2
  bad.map (·.id) ++ tooMany
/-- The effects of a written quota entry: squads pre-empted, queues parked. -/
def State.quotaEffects (s : State) (o : Nat) : State :=
  let s := (s.quotaVictims o).foldl (fun s q => s.slice q) s
  s.parkExcess o s.fw.queues.length
/-- The squads whose pre-emption a written quota entry waits for: those it pre-empts, and misplaced ones being pre-empted already. -/
def State.quotaSaves (s : State) (o : Nat) : List Nat :=
  s.quotaVictims o ++ (s.fw.squads.filter fun z => z.state == .saving && s.misplaced z).map (·.id)
/-- Whether the pre-emption of one of some squads is not complete: not every item of every runner has acknowledged (R266, R378). The squad of
runner r itself, which the write holds, is not waited for. DEDUCED, log entry 57. -/
def State.quotaPending (s : State) (saves : List Nat) (r : Nat) : Bool :=
  s.fw.squads.any fun z => z.state == .saving && saves.contains z.id && !z.runners.contains r && z.runners.any fun k => (s.rn k).ackm != ~~~0

/-! ### SCRUB (R264) -/

/-- Steps 1 to 3: the tenant's squads are dispatched no more, and every heat of it ends. DEDUCED, log entry 35. -/
def State.scrubHeats (s : State) (o : Nat) : State :=
  let s := s.modFw fun w => { w with scrubs := if w.scrubs.contains o then w.scrubs else w.scrubs ++ [o] }
  let s := (s.fw.heats.filter fun (h : Heat) => h.owner == o).foldl (fun s h => s.endHeat none h.id (Sts.scrubbed.word) 0) s
  let waiting := s.fw.queues.flatMap fun e => if e.2.func == o then e.2.pend.filter fun p => p.opc == 1 else []
  let s := s.modFw fun w => { w with queues := w.queues.map fun e =>
    if e.2.func == o then (e.1, { e.2 with pend := e.2.pend.filter fun p => p.opc != 1 }) else e }
  (waiting.foldl (fun s p => s.complete p Sts.scrubbed.word 0) s).settle
/-- Steps 5 and 6, once no runner of the tenant is left: leaves, leases, images and keys; the SEAL entry, SEALCTR and ROTCNT stay.
DEDUCED, log entry 35. -/
def State.scrubTables (s : State) (o : Nat) : State :=
  let k := s.tabs.tkey o
  let s : State := { s with tabs := { s.tabs with
    leaves := s.tabs.leaves.filter fun e => e.owner != o
    leases := s.tabs.leases.filter fun e => !(e.2.owner == o && !e.2.lessor)
    keys := s.tabs.keys.filter fun e => !(e.2.owner == o && e.2.kind != .seal)
    tkeys := aput s.tabs.tkeys o { k with curgen := false, sweep := false, mem0 := none, mem1 := none } } }
  s.modFw fun w => { w with
    scrubs := w.scrubs.filter fun t => t != o
    images := w.images.filter fun i => i.owner != o
    cmds := w.cmds.filter fun c => !(c.pkt.opc == 0x100 && c.pkt.func == o) }
/-- Whether the tenant's heats have completed and its runners have been released. -/
def State.scrubClear (s : State) (o : Nat) : Bool :=
  !(s.fw.heats.any fun (h : Heat) => h.owner == o) && !(s.fw.squads.any fun z => z.owner == o)
  && !(s.fw.releasing.any fun e => (s.rn e.1).owner == o)
/-- Every scrub that can go on. DEDUCED, log entry 35. -/
def State.scrubSteps (s : State) : State := (s.fw.scrubs.filter s.scrubClear).foldl (fun s o => s.scrubTables o) s

/-! ### Completion (R224, R246) -/

/-- The table code of a partition write and the µs it may take (R244, R246); of SCRUB's 2 ms the release of the tenant's runners takes the
rest. -/
def tableCode : Instr → Nat × Nat
  | .pwquota _ => (0, 10)
  | .pwpleat _ => (1, 100)
  | .pwlap _ => (2, 10)
  | .pwlease _ => (3, 1000)
  | .pwgran _ => (4, 10)
  | .pwweight _ => (5, 10)
  | .scrub _ => (6, 900)
  | _ => (6, 10)
/-- A table's image applied. -/
def State.putTable (s : State) (table ix : Nat) (img : List Byte) (aligned agreed : Bool) : Except Nat State :=
  let v := leNat img
  match table with
  | 0 => s.putQuota ix v aligned
  | 1 => s.putPleat ix v aligned
  | 2 => s.putLap ix v aligned
  | 3 => s.putLease ix v aligned agreed
  | 4 => s.putGran ix v aligned
  | _ => s.putWeight ix v aligned
/-- The write of a table operation of runner r. -/
def State.applyTable (s : State) (r : Nat) (t : TabOp) : Except Nat State :=
  let aligned := t.s2.toNat % 16 == 0
  match t.i with
  | .keyld _ => s.putKey t.s1 t.img aligned
  | .keyrot _ => s.rotate (s.rn r).owner
  | .scrub _ => .ok (s.scrubHeats (s.rn r).owner)
  | i => s.putTable (tableCode i).1 t.s1.toNat t.img aligned (s.bnd.agreed.contains t.s1.toNat)
/-- Whether the operation waits for a peer's answer now. -/
def State.tableAsks (s : State) (t : TabOp) : Bool :=
  match t.i with
  | .pwlease _ => s.asksPeer t.s1.toNat (leNat t.img) (t.s2.toNat % 16 == 0)
  | _ => false
/-- A table operation's record changed. -/
def State.modTab (s : State) (r : Nat) (f : TabOp → TabOp) : State := s.modR r fun x => { x with tabop := x.tabop.map f }
/-- TDEF with its descriptor. -/
def State.defineTile (s : State) (r : Nat) (t : TabOp) : State :=
  match t.tile (s.rn r) with
  | some k =>
    match s.tileMade r k t.img with
    | .ok e => (s.setTile r k (some e)).endTable r
    | .error c => (s.setTile r k none).tableTrap r t c (if c = 0x02 then 3 else 0) t.s2
  | none => s.endTable r
/-- Whether a TDEF. -/
def isTdef (i : Instr) : Bool := match i with | .tdef _ => true | _ => false
/-- TABLE_WRITE_COMPLETE: the operation's image has come, or is read again; once every earlier write is over it is applied, or its trap is
taken. DESIGN CHOICE, log entry 44. -/
def execTableWriteComplete (r : Nat) (s : State) : Out :=
  let x := s.rn r
  match x.tabop with
  | none => .next s
  | some t =>
    let waits := s.mem.reqs.any fun q => match q.use with | .table r' => r' == r | _ => false
    if waits || x.stopReq then .next s
    else if t.bad && decide (2 ≤ t.tries) then
      let s := match t.tile x with | some k => s.setTile r k none | none => s
      .next ((s.endTable r).hardFault r .a t.pc 2)
    else if t.bad || decide (t.img.length < t.need) then
      .next ((s.modTab r fun t => { t with img := [], bad := false, tries := t.tries + if t.bad then 1 else 0 }).askImage r t.s2 t.need (s.cycle + 4))
    else if t.applied then
      if s.quotaPending t.saves r then .next s else .next (s.endTable r)
    else if s.tableBlocked x t then .next s
    else if isTdef t.i then .next (s.defineTile r t)
    else
      match t.done with
      | none =>
        let asks := s.tableAsks t
        let due := if asks then s.cycle + usec 1000 else s.cycle + Config.within 2 r s.cycle % usec (tableCode t.i).2
        let s := if asks then s.askPeer t.s1.toNat else s
        .next ({ s with seq := s.seq + 1 }.modTab r fun t => { t with done := some due })
      | some due =>
        if s.cycle < due && !(s.tableAsks t && s.bnd.agreed.contains t.s1.toNat) then .next s
        else
          match s.applyTable r t with
          | .error n => .next (s.tableTrap r t 0x0B ((tableCode t.i).1 * 256 + n) t.s2)
          | .ok s =>
            match t.i with
            | .pwquota _ =>
              let vs := s.quotaSaves t.s1.toNat
              let s := s.quotaEffects t.s1.toNat
              .next (if s.quotaPending vs r then s.modTab r fun t => { t with applied := true, saves := vs } else s.endTable r)
            | _ => .next (s.endTable r)

end Sys2Proof.Machine
end

