-- ==== Sys2Proof/Machine/Launch.lean ====
section
/-! DEFINITION. LAUNCH: the checks at its start, in order, and the heat it makes (R25, R122, R227, R231, R315, R394, R400, R401,
R412). -/

namespace Sys2Proof.Machine

/-! ### Weight sets (R411) -/

/-- A model of an owner's weight-set table. -/
def Tables.wmodel (t : Tables) (o m : Nat) : Option WModel := t.wsets.find? fun w => w.owner == o && w.model == m
/-- A set of a model. -/
def WModel.set (m : WModel) (k : Bool) : WSet := if k then m.s1 else m.s0

/-! ### Ranges (R400) -/

/-- The entries of the range list: number, base, bytes. -/
def State.rangeList (s : State) (p : Pkt) : List (Nat × Nat × Nat) :=
  let raw := s.fwRead p.func (fld p 40 8) 256
  (List.range 16).map fun i => (i, fieldLe raw (16 * i) 8, fieldLe raw (16 * i + 8) 8)
/-- Whether an owner has mapped a range with at least the declared rights. -/
def State.mappedFor (s : State) (o : Nat) (d : ExtDecl) (a n : Nat) : Bool :=
  (s.tabs.spans o (s.tabs.leaves.length + 1) a n).isSome && (!d.r || s.mapped o a n false) && (!d.w || s.mapped o a n true)
/-- Whether an entry of a range list fits its declaration, in a heat of S squads. -/
def State.rangeOk (s : State) (o : Nat) (exts : List ExtDecl) (nsq : Nat) (g : Nat × Nat × Nat) : Bool :=
  match exts.find? fun d => d.n == g.1 with
  | none => g.2.2 == 0
  | some d => decide (g.2.2 ≠ 0 ∧ g.2.1 % 4096 = 0 ∧ g.2.2 % 4096 = 0 ∧ (d.split → g.2.2 % (nsq * 4096) = 0)) && s.mappedFor o d g.2.1 g.2.2
/-- The ranges of a LAUNCH and the weight set it binds; none where the list breaks its rules. -/
def State.launchRanges (s : State) (p : Pkt) (ob : Obj) (nsq : Nat) : Option (List (Nat × Nat × Nat) × Option (Nat × Bool)) :=
  let l := s.rangeList p
  let wxn := fld p 53 1
  let m := fld p 54 2
  let used (l : List (Nat × Nat × Nat)) := l.filter fun g => ob.exts.any fun d => d.n == g.1
  if m = 0 then (if l.all (s.rangeOk p.func ob.exts nsq) then some (used l, none) else none)
  else
    match ob.exts.find? (fun d => d.n == wxn), s.tabs.wmodel p.func m with
    | some d, some w =>
      let z := w.set w.cur
      let l := l.map fun g => if g.1 = wxn then (wxn, z.base, z.len) else g
      if d.r && !d.w && !d.split && z.loaded && l.all (s.rangeOk p.func ob.exts nsq) then some (used l, some (m, w.cur)) else none
    | _, _ => none

/-! ### Shapes and overlap (R227, R315) -/

/-- A shape record in its table form; none where it is refused. -/
def launchShape (ob : Obj) (ranges : List (Nat × Nat × Nat)) (l : List Byte) : Option (Nat × List Byte) :=
  let xn := fieldLe l 11 1
  let z := shapeOf l
  match ob.exts.find? (fun d => d.n == xn), ranges.find? fun g => g.1 == xn with
  | some d, some g =>
    if d.split || decide (g.2.2 < z.stop) || (z.rights.testBit 0 && !d.r) || (z.rights.testBit 1 && !d.w) then none
    else some (fieldLe l 12 2, natLe 8 (g.2.1 + z.base) ++ (l.drop 8).take 3 ++ [1, 0, 0] ++ l.drop 14)
  | _, _ => none
/-- Whether slices of two split ranges, of different squads, meet. -/
def slicesMeet (nsq : Nat) (a b : Nat × Nat) : Bool :=
  let n := a.2 / nsq
  let m := b.2 / nsq
  (List.range nsq).any fun k =>
    let x := a.1 + k * n
    let lo := (max x b.1 - b.1) / m
    let hi := (min (x + n) (b.1 + b.2) - 1 - b.1) / m
    meets x n b.1 b.2 && !(lo == k && hi == k)
/-- Whether two declared ranges may not be held by two squads of the heat. -/
def heatClash (nsq : Nat) (a b : ExtDecl × Nat × Nat) : Bool :=
  rangesClash (a.1, 0, 1) (b.1, 0, 1) &&
    (if a.1.split && b.1.split then a.1.n != b.1.n && slicesMeet nsq a.2 b.2 else meets a.2.1 a.2.2 b.2.1 b.2.2)
/-- Whether squads of one heat overlap. -/
def overlapping (nsq : Nat) (l : List (ExtDecl × Nat × Nat)) : Bool := decide (1 < nsq) && l.any fun a => l.any fun b => heatClash nsq a b

/-- Whether two ranges of one squad overlap: a runner's entries never do (R231). DESIGN CHOICE, log entry 96. -/
def selfOverlap (nsq : Nat) (l : List (ExtDecl × Nat × Nat)) : Bool :=
  let part (q : Nat) (a : ExtDecl × Nat × Nat) : Nat × Nat := if a.1.split then (a.2.1 + q * (a.2.2 / nsq), a.2.2 / nsq) else a.2
  (List.range nsq).any fun q => l.zipIdx.any fun a => l.zipIdx.any fun b =>
    decide (a.2 < b.2) && meets (part q a.1).1 (part q a.1).2 (part q b.1).1 (part q b.1).2

/-! ### The checks in order (R400) -/

/-- CSW of a launched heat (R122). -/
def launchCsw (p : Pkt) : Word :=
  let f := fld p 50 1
  BitVec.ofNat 64 ((if f.testBit 0 then 2 ^ 8 else 0) + (if f.testBit 1 then 2 ^ 9 else 0) + (if f.testBit 2 then 2 ^ 10 else 0)
    + (if f.testBit 3 then 2 ^ 7 else 0) + (if f.testBit 4 then 2 ^ 6 else 0) + (if f.testBit 5 then 2 ^ 15 else 0))
/-- DIEMASK, 0 read as every die. -/
def launchDies (p : Pkt) : BitVec 4 := if fld p 52 1 = 0 then 0xF else BitVec.ofNat 4 (fld p 52 1)
/-- Squads of a LAUNCH. -/
def launchSquads (p : Pkt) : Nat := fld p 48 2 + 1
/-- Whether a window declaration exceeds a level (R19, R20). -/
def tooBig (w : Option (Nat × Nat)) (entries bytes : Nat) : Bool := match w with | some v => decide (entries < v.1 ∨ bytes < v.2) | none => false
/-- The heat of a LAUNCH. -/
def State.heatOf (s : State) (p : Pkt) (ob : Obj) (ranges : List (Nat × Nat × Nat)) (shapes : List (Nat × List Byte)) (wb : Option (Nat × Bool)) :
    Heat :=
  { id := BitVec.ofNat 64 (p.func * 2 ^ 32 + p.serial), owner := p.func, queue := p.queue,
    token := (match s.queue p.queue with | some q => q.token | none => 0), pkt := p, obj := ob, nsq := launchSquads p, csw := launchCsw p,
    slip := BitVec.ofNat 7 (fld p 51 1), dies := launchDies p, arg := BitVec.ofNat 64 (fld p 32 8), ranges := ranges, shapes := shapes,
    wbind := wb, level := (match s.queue p.queue with | some q => q.d.prio | none => 0), paused := false, stale := false, audit := false,
    ended := none, detail := 0, xaddr := 0 }
/-- The heat that a LAUNCH makes, or the status of the first check that fails. DEDUCED, log entry 63. -/
def State.launchHeat (s : State) (p : Pkt) : Except Sts Heat :=
  let q := s.tabs.quotaInForce p.func
  let h := fld p 50 1 / 32 % 2 == 1
  let dies := setBitsOf (launchDies p)
  let k := s.tabs.tkey p.func
  let nsq := launchSquads p
  if h && !isPfCtl p.func p.qid then .error .notPermitted
  else if q.mode == .none || !(dies.any fun d => (List.range 64).any fun j => q.rmask.getLsbD (64 * d + j)) then .error .quota
  else if k.mem0.isNone && k.mem1.isNone then .error .noKey
  else
    match s.loadObject p.func (fld p 24 8) with
    | none => .error .objectRefused
    | some ob =>
      if ob.h != h then .error .notPermitted
      else if decide (ob.nrun = 0 ∨ 64 < ob.nrun) || tooBig ob.tub 1024 (2 ^ 24) || tooBig ob.vat 4096 0xA000000 then .error .squadShape
      else
        match s.launchRanges p ob nsq with
        | none => .error .extents
        | some (ranges, wb) =>
          let decl := ranges.filterMap fun g => (ob.exts.find? fun d => d.n == g.1).map fun d => (d, g.2)
          if selfOverlap nsq decl then .error .extents
          else match readAll (launchShape ob ranges) ob.shapes with
          | none => .error .shapeRefused
          | some shapes =>
            let hh := s.heatOf p ob ranges shapes wb
            if overlapping nsq decl then .error .rangeOverlap
            else if (List.range nsq).any fun n => decide (16 < (s.extentsFor hh n).length) then .error .extents
            else .ok hh
/-- The squads of a heat, none yet dispatched. -/
def State.squadsOf (s : State) (h : Heat) : List Squad :=
  (List.range h.nsq).map fun n =>
    { id := s.seq + n, heat := h.id, owner := h.owner, level := h.level, sqn := n, nrun := h.obj.nrun, runners := [], state := .ready,
      srs := 0, at_ := s.cycle, quantum := 0, request := none, exch := none, hold := false, near := false, recalled := false, vatGen := false, vatSwept := 0 }
/-- A heat among the launched heats, an owner's heats in order of acceptance, as SEQ of HEATID counts it (R401, R404).
DEDUCED, log entry 63. -/
def insertHeat (h : Heat) : List Heat → List Heat
  | [] => [h]
  | g :: l =>
    let ahead := (bits g.id.toNat 0 32 + 2 ^ 32 - bits h.id.toNat 0 32) % 2 ^ 32
    if g.owner == h.owner && decide (0 < ahead ∧ ahead < 2 ^ 31) then h :: g :: l else g :: insertHeat h l
/-- The traffic of what a LAUNCH reads: its object and its range list (R68, R400). -/
def State.launchSees (s : State) (p : Pkt) : State :=
  let n := (s.objectLen p.func (fld p 24 8)).getD 64
  (s.fwSees p.func (fld p 24 8) n).fwSees p.func (fld p 40 8) 256
/-- LAUNCH (R400, R401): the heat's squads are ready for the Starter; the packet completes with the heat. A tenant being scrubbed
launches nothing more (R264). -/
def execLaunch (p : Pkt) (s : State) : Out :=
  if s.fw.scrubs.contains p.func then done s p .scrubbed
  else
    match s.launchHeat p with
    | .error t => done (s.launchSees p) p t
    | .ok h =>
      let new := s.squadsOf h
      let s := s.launchSees p
      let s := { s.modFw (fun w => { w with heats := insertHeat h w.heats, squads := w.squads ++ new }) with seq := s.seq + h.nsq }
      .next (s.pump p.queue)

end Sys2Proof.Machine
end

