-- ==== Sys2Proof/Machine/MemCommands.lean ====
section
/-! DEFINITION. MAP, UNMAP, MIGRATE, LEASE, REVOKE and PART (R235, R236, R244-R246, R255, R256, R266, R289, R298, R302, R396, R397, R410). -/

namespace Sys2Proof.Machine

/-! ### Commands that take time -/

/-- A command changed. -/
def State.modCmd (s : State) (id : Nat) (f : Cmd → Cmd) : State :=
  s.modFw fun w => { w with cmds := w.cmds.map fun (c : Cmd) => if c.id == id then f c else c }
/-- A command is over: its completion store, then its queue goes on. -/
def State.endCmd (s : State) (c : Cmd) (st : Word) : State :=
  (s.modFw fun w => { w with cmds := w.cmds.filter fun (d : Cmd) => d.id != c.id }).finish c.pkt st
/-- A command that takes time, whose queue may go on. -/
def State.startCmd (s : State) (p : Pkt) (due : Nat) (acks : List Nat := []) (img : List Byte := []) (key : BitVec 256 := 0)
    (queued : Bool := false) : Out :=
  .next ((s.addCmd p due acks [] img key queued).pump p.queue)
/-- Whether a packet is of a guest. -/
def isGuest (p : Pkt) : Bool := p.func != 0

/-! ### Destinations (R298, R410) -/

/-- Whether host-window pages may be mapped for an owner: the PF, or a function in RUN with a secure stream (R298). -/
def State.hostReady (s : State) (o : Nat) : Bool :=
  o == 0 || ((s.func o).tdi == .run && s.bnd.ide.any fun z => z.secure && decide (z.first ≤ o ∧ o ≤ z.last))
/-- The physical range that TIER and INDEX name, or why a request is refused; pages of an owned pleat only for its owner, the PF's requests
among them (R252). DESIGN CHOICE, log entry 98. -/
def State.tierRange (s : State) (p : Pkt) : Except Sts (Nat × Nat) :=
  let ix := fld p 41 1
  match fld p 40 1 with
  | 0 =>
    match aget s.tabs.pleats ix with
    | none => .error .badPacket
    | some e => if e.owner != targetOf p 44 && e.owner != 0x7FF then .error .notPermitted else .ok (e.pbase, e.pbase + e.len)
  | 1 => .ok (nearBase, 0x2C000000000)
  | 2 =>
    match aget s.tabs.leases ix with
    | some e =>
      if isGuest p && e.owner != p.func then .error .notPermitted
      else if e.lessor || e.revoking then .error .badPacket else .ok (e.lbase, e.lbase + e.len)
    | none => .error (if isGuest p then .notPermitted else .badPacket)
  | _ =>
    if s.hostReady (targetOf p 44) then .ok (hostBase + fld p 48 8, hostBase + fld p 48 8 + fld p 32 8) else .error .notPermitted
/-- Free pages of several sizes in a range. -/
def takeSizes (lo hi : Nat) : List Nat → List (Nat × Nat) → Option (List (Nat × Nat))
  | [], _ => some []
  | sz :: t, used =>
    match freePages used hi sz (used.length + 2) 1 (ceilDiv lo sz * sz) with
    | some (a :: _) => (takeSizes lo hi t ((a, sz) :: used)).map fun l => (a, sz) :: l
    | _ => none
/-- Leaves in ascending order, in runs that are contiguous in both kinds of address. -/
def leafRuns (l : List Leaf) : List (List Leaf) :=
  (l.mergeSort fun a b => decide (a.va ≤ b.va)).foldr (fun e acc => match acc with
    | (f :: t) :: r =>
      if e.owner = f.owner ∧ e.va + e.size = f.va ∧ e.pa + e.size = f.pa then (e :: f :: t) :: r else [e] :: (f :: t) :: r
    | _ => [e] :: acc) []
/-- New places for a run of leaves: contiguous ones, where there is room for them, else page by page. DEDUCED, log entry 36. -/
def placeRun (lo hi : Nat) (used : List (Nat × Nat)) (l : List Leaf) : Option (List (Nat × Nat)) :=
  let sz := (l.map (·.size)).foldl max 1
  let off := ((l.head?.map (·.pa)).getD 0) % sz
  match lowestGap used (off + (l.map (·.size)).sum) hi sz (used.length + 2) (ceilDiv lo sz * sz) with
  | some a => some (l.foldl (fun (z : Nat × List (Nat × Nat)) e => (z.1 + e.size, z.2 ++ [(z.1, e.size)])) (a + off, [])).2
  | none => takeSizes lo hi (l.map (·.size)) used
/-- New places for several runs. -/
def placeRuns (lo hi : Nat) : List (List Leaf) → List (Nat × Nat) → Option (List (Nat × Nat))
  | [], _ => some []
  | l :: t, used => (placeRun lo hi used l).bind fun ps => (placeRuns lo hi t (ps ++ used)).map fun qs => ps ++ qs

/-! ### MAP, UNMAP, MIGRATE (R235, R410) -/

/-- The commands that change a translation table. -/
def isMemCmd (p : Pkt) : Bool := p.opc == 0x05 || p.opc == 0x06 || p.opc == 0x07
/-- Whether an earlier memory command of the same owner, near the same range, must be over first: they are applied in order (R235). -/
def State.memBlocked (s : State) (id : Nat) (p : Pkt) : Bool :=
  let gib (q : Pkt) : Nat × Nat := (fld q 24 8 / 2 ^ 30, (fld q 24 8 + fld q 32 8) / 2 ^ 30)
  s.fw.cmds.any fun c => decide (c.id < id) && isMemCmd c.pkt && targetOf c.pkt 44 == targetOf p 44
    && decide ((gib c.pkt).1 ≤ (gib p).2 ∧ (gib p).1 ≤ (gib c.pkt).2)
/-- The leaves that a memory command's range meets. -/
def State.cmdLeaves (s : State) (p : Pkt) : List Leaf := s.tabs.leavesIn (targetOf p 44) (fld p 24 8) (fld p 32 8)
/-- Whether a page lies only partly in a command's range. -/
def partIn (p : Pkt) (e : Leaf) : Bool := !decide (fld p 24 8 ≤ e.va ∧ e.va + e.size ≤ fld p 24 8 + fld p 32 8)
/-- The pages of a MAP, none where there are too few. -/
def State.mapPages (s : State) (p : Pkt) (g : Nat × Nat) : Option (List Nat) :=
  let sz := pageSize (fld p 43 1)
  let n := fld p 32 8 / sz
  if fld p 40 1 = 3 then some ((List.range n).map fun k => g.1 + k * sz) else s.takePages g.1 g.2 sz n
/-- The pages of a MAP: their zero lines are asked for first (R289). -/
def State.askPages (s : State) (c : Cmd) (pas : List Nat) : State :=
  let o := targetOf c.pkt 44
  let sz := pageSize (fld c.pkt 43 1)
  (pas.foldl (fun s a => s.askZero o a sz c.id) s).modCmd c.id fun d => { d with pages := pas.map fun a => (a, sz), steps := 2 }
/-- The pages of a MAP mapped once their zero lines are written: leaves, then the extents that they complete. -/
def State.mapNow (s : State) (p : Pkt) (pas : List Nat) : State :=
  let sz := pageSize (fld p 43 1)
  let o := targetOf p 44
  let r := fld p 42 1
  let s := s.dropLeaves o (fld p 24 8) (fld p 32 8)
  let s := pas.foldl (fun s a => s.zeroPage o a sz) s
  (s.addLeaves o (fld p 24 8) sz pas (r.testBit 0) (r.testBit 1) (r.testBit 2)).refreshExtents o fun _ _ => false
/-- Pages hidden from running work; the command waits for the acknowledgements (R235, R236). -/
def State.hideFor (s : State) (c : Cmd) (l : List Leaf) (pages : List (Nat × Nat)) : State :=
  let h := s.hideAll l
  let x := h.1.clearP (targetOf c.pkt 44) (fld c.pkt 24 8) (fld c.pkt 32 8)
  let due := s.cycle + 1 + Config.within 5 c.id s.cycle % usec 19
  { x.1.modCmd c.id (fun c => { c with acks := (h.2 ++ x.2).eraseDups, pages := pages, steps := 1, due := due }) with seq := s.seq + 1 }
/-- A MAP whose zero lines have been asked for goes on when all are written. -/
def State.mapStep (s : State) (c : Cmd) (pas : List Nat) : State :=
  if s.tagBusy c.id then s else (s.mapNow c.pkt pas).endCmd c Sts.ok.word
/-- A memory command begins. -/
def State.memBegin (s : State) (c : Cmd) : State :=
  let p := c.pkt
  let l := s.cmdLeaves p
  if p.opc = 0x06 then (if l.any (partIn p) then s.endCmd c Sts.badPacket.word else s.hideFor c l [])
  else
    match s.tierRange p with
    | .error t => s.endCmd c t.word
    | .ok g =>
      if p.opc = 0x05 then
        match s.mapPages p g with
        | none => s.endCmd c Sts.quota.word
        | some pas =>
          if l.any s.pagePresent then s.hideFor c l (pas.map fun a => (a, pageSize (fld p 43 1)))
          else (s.askPages c pas).mapStep c pas
      else if l.any (partIn p) then s.endCmd c Sts.badPacket.word
      else
        match placeRuns g.1 g.2 (leafRuns l) s.usedPages with
        | none => s.endCmd c Sts.quota.word
        | some pages => s.hideFor c l pages
/-- The extents of a moved range take their new PBASE and P := 1 (R235). -/
def State.refreshMoved (s : State) (p : Pkt) : State :=
  s.refreshExtents (targetOf p 44) fun e _ => meets e.vbase e.len (fld p 24 8) (fld p 32 8)
/-- MIGRATE moves its leaves one by one: a leaf's slots and messages are asked for, and once all are over it has moved (R302); with the last
one the command is over. DEDUCED, log entry 36. -/
def State.migrateStep (s : State) (c : Cmd) : State :=
  let l := (leafRuns (s.cmdLeaves c.pkt)).flatten
  let on (s : State) : State := s.modCmd c.id fun d => { d with steps := d.steps + 1 }
  match (l.zip c.pages)[(c.steps - 1) / 2]? with
  | some (e, g) =>
    if c.steps % 2 = 1 then on (s.askMove e g.1 c.id)
    else if s.tagBusy c.id then s
    else if c.steps < 2 * l.length then on (s.moveLeaf e g.1)
    else ((s.moveLeaf e g.1).refreshMoved c.pkt).endCmd c Sts.ok.word
  | none => (s.refreshMoved c.pkt).endCmd c Sts.ok.word
/-- A memory command whose pages no work reaches any more takes its effect. -/
def State.memEnd (s : State) (c : Cmd) : State :=
  let p := c.pkt
  let o := targetOf p 44
  match p.opc with
  | 0x05 =>
    let pas := c.pages.map fun (z : Nat × Nat) => z.1
    if c.steps = 2 then s.mapStep c pas else (s.askPages c pas).mapStep c pas
  | 0x06 => (s.dropLeaves o (fld p 24 8) (fld p 32 8)).endCmd c Sts.ok.word
  | _ => s.migrateStep c
/-- A memory command as far as it can go now. -/
def State.memStep (s : State) (c : Cmd) : State :=
  if c.steps = 0 then (if s.memBlocked c.id c.pkt then s else s.memBegin c)
  else if c.acks.isEmpty && decide (c.due ≤ s.cycle) then s.memEnd c else s
/-- A memory command starts: it begins at once unless an earlier one must be over first. -/
def State.memStart (s : State) (p : Pkt) : State :=
  let s' := (s.addCmd p s.cycle []).pump p.queue
  match s'.fw.cmds.find? fun c => c.id == s.seq with
  | some c => s'.memStep c
  | none => s'
/-- MAP (R410): complete when the pages are mapped. DEDUCED, log entry 36. -/
def execMap (p : Pkt) (s : State) : Out := .next (s.memStart p)
/-- UNMAP (R235). DEDUCED, log entry 36. -/
def execUnmap (p : Pkt) (s : State) : Out := .next (s.memStart p)
/-- MIGRATE (R410). DEDUCED, log entry 36. -/
def execMigrate (p : Pkt) (s : State) : Out := .next (s.memStart p)

/-! ### LEASE, REVOKE, PART (R255, R256, R396, R410) -/

/-- TABLE_REFUSED of a table's reason (R244, R394). -/
def tableRefused (table n : Nat) : Word := Sts.tableRefused.word (table * 256 + n)
/-- An image of a lease applied by a command: at once, or when the peer agrees. -/
def State.leaseImage (s : State) (c : Cmd) (ix : Nat) (aligned : Bool) : State :=
  match s.putLease ix (leNat c.img) aligned (s.bnd.agreed.contains ix) with
  | .error n => s.endCmd c (tableRefused 3 n)
  | .ok s => s.endCmd c Sts.ok.word
/-- A lease command goes on: behind earlier table writes (R246), then for at most 1 ms until the peer agrees. -/
def State.leaseStep (s : State) (c : Cmd) : State :=
  let ix := if c.pkt.opc = 0x08 then fld c.pkt 32 2 else fld c.pkt 26 2
  let aligned : Bool := (if c.pkt.opc = 0x08 then fld c.pkt 24 8 else fld c.pkt 32 8) % 16 == 0
  if c.queued then
    if s.writeBlocked c.id none then s
    else if s.asksPeer ix (leNat c.img) aligned then (s.askPeer ix).modCmd c.id fun d => { d with queued := false, due := s.cycle + usec 1000 }
    else s.leaseImage c ix aligned
  else if s.bnd.agreed.contains ix || decide (c.due ≤ s.cycle) then s.leaseImage c ix aligned else s
/-- A lease image of a command: after earlier table writes (R246) the peer is asked where the image needs it. -/
def State.leaseStart (s : State) (p : Pkt) (ix : Nat) (img : List Byte) (aligned : Bool) : Out :=
  if s.writeBlocked s.seq none then s.startCmd p s.cycle [] img 0 true
  else if s.asksPeer ix (leNat img) aligned then (s.askPeer ix).startCmd p (s.cycle + usec 1000) [] img
  else
    match s.putLease ix (leNat img) aligned false with
    | .error n => .next (s.finish p (tableRefused 3 n))
    | .ok s => done s p .ok
/-- LEASE: a guest's image must name the guest, and so must the entry it changes. DEDUCED, log entry 37. -/
def execLease (p : Pkt) (s : State) : Out :=
  let ix := fld p 32 2
  let img := s.fwRead p.func (fld p 24 8) 48
  let e := leaseImg (leNat img)
  let s := s.fwSees p.func (fld p 24 8) 48
  let other : Bool := match aget s.tabs.leases ix with | some c => c.owner != p.func | none => false
  if isGuest p && (other || (bits (leNat img) 2 2 != 0 && e.owner != p.func)) then done s p .notPermitted
  else s.leaseStart p ix img (fld p 24 8 % 16 == 0)
/-- REVOKE: ACTIVE to REVOKING; an entry that is not ACTIVE is refused as a change of it would be. DEDUCED, log entry 37. -/
def execRevoke (p : Pkt) (s : State) : Out :=
  let ix := fld p 24 2
  match aget s.tabs.leases ix with
  | some e =>
    if isGuest p && e.owner != p.func then done s p .notPermitted
    else if e.revoking then .next (s.finish p (tableRefused 3 5))
    else done (s.beginRevoke ix) p .ok
  | none => if isGuest p then done s p .notPermitted else .next (s.finish p (tableRefused 3 5))
/-- PART: an image applied as the PW form does, after earlier table writes (R246); a quota write waits for the pre-emptions it causes.
DEDUCED, log entry 37. -/
def execPart (p : Pkt) (s : State) : Out :=
  let table := fld p 24 1
  let ix := fld p 26 2
  let img := s.fwRead p.func (fld p 32 8) (imageLen table)
  let aligned := fld p 32 8 % 16 == 0
  let s := s.fwSees p.func (fld p 32 8) (imageLen table)
  if table = 3 then s.leaseStart p ix img aligned
  else if s.writeBlocked s.seq none then s.startCmd p s.cycle [] img 0 true
  else
    match s.putTable table ix img aligned false with
    | .error n => .next (s.finish p (tableRefused table n))
    | .ok s =>
      if table = 0 then
        let vs := s.quotaSaves ix
        let s := s.quotaEffects ix
        if s.quotaPending vs 0x1FF then
          .next ((s.addCmd p s.cycle [] [] img 0 false vs).pump p.queue)
        else done s p .ok
      else done s p .ok
/-- A PART goes on: behind earlier table writes, then for the pre-emptions that a quota write makes. -/
def State.partStep (s : State) (c : Cmd) : State :=
  let table := fld c.pkt 24 1
  if table = 3 then s.leaseStep c
  else if c.queued then
    if s.writeBlocked c.id none then s
    else
      match s.putTable table (fld c.pkt 26 2) c.img (fld c.pkt 32 8 % 16 == 0) false with
      | .error n => s.endCmd c (tableRefused table n)
      | .ok s =>
        if table = 0 then
          let vs := s.quotaSaves (fld c.pkt 26 2)
          (s.quotaEffects (fld c.pkt 26 2)).modCmd c.id fun d => { d with queued := false, saves := vs }
        else s.endCmd c Sts.ok.word
  else if s.quotaPending c.saves 0x1FF then s else s.endCmd c Sts.ok.word
/-- A home for the first of a run of leaves: in the owner's pleats or the near tier, next to the page before it where that is free.
DEDUCED, log entry 36. -/
def State.homeFor (s : State) (own : List (Nat × Nat)) (l : List Leaf) : Option Nat :=
  let used := s.usedPages
  match l with
  | [] => none
  | e :: _ =>
    let next := (s.tabs.leaves.find? fun f => f.owner == e.owner && f.va + f.size == e.va).map fun f => f.pa + f.size
    match next.filter fun a => decide (a % e.size = 0) && own.any (fun g => decide (g.1 ≤ a ∧ a + e.size ≤ g.2))
        && !used.any fun u => meets u.1 u.2 a e.size with
    | some a => some a
    | none => own.findSome? fun g => (placeRun g.1 g.2 used l).bind fun ps => ps.head?.map (·.1)
/-- A lease window's pages brought home one by one in mending slots, once no work reaches them; the entry is FREE when the last page is
home (R256, R302). -/
def State.homeStep (s : State) (c : Cmd) : State :=
  let ix := fieldLe c.pkt.body 0 8
  if !c.acks.isEmpty then s
  else
    match aget s.tabs.leases ix with
    | none => s.endCmd c 0
    | some e =>
      let own := (s.tabs.pleats.filter fun q => q.2.owner == e.owner).map fun q => (q.2.pbase, q.2.pbase + q.2.len)
      let run := (leafRuns (s.tabs.mapping e.lbase e.len)).headD []
      let s := match run.head?, c.pages with
        | some l, [(a, _), (old, _)] =>
          if s.tagBusy c.id then s
          else
            let s := s.modCmd c.id fun d => { d with pages := [] }
            if l.pa = old then s.moveLeaf l a else s
        | some l, _ =>
          (match s.homeFor (own ++ [(nearBase, 0x2C000000000)]) run with
          | some a => (s.askMove l a c.id).modCmd c.id fun d => { d with pages := [(a, l.size), (l.pa, 0)] }
          | none => s)
        | none, _ => s
      let s := s.refreshExtents e.owner fun x _ => pclass x.pbase == .far && meets x.pbase x.len e.lbase e.len
      if s.tabs.anyMapped e.lbase e.len then s
      else ({ s with tabs := { s.tabs with leases := adel s.tabs.leases ix } }).endCmd c 0
/-- Host-window pages of an owner that left RUN unmapped; then the owner is scrubbed (R298, R437). -/
def State.hostOutStep (s : State) (c : Cmd) : State :=
  if !c.acks.isEmpty then s
  else
    let o := c.pkt.func
    let l := s.tabs.leaves.filter fun e => e.owner == o && pclass e.pa == .host
    ((l.foldl (fun s e => s.dropLeaves o e.va e.size) s).endCmd c 0).scrubHeats o

end Sys2Proof.Machine
end

