-- ==== Sys2Proof/Machine/Commands.lean ====
section
/-! DEFINITION. RESETQ, QOPEN, QCLOSE, context commands, weight sets, audit settings, meter reports, key transport, lending, stopping of a
function; how commands that take time go on and complete (R314, R387, R391, R396, R397, R407-R409, R411-R415, R418, R422-R425). -/

namespace Sys2Proof.Machine

/-! ### Weight sets (R411, R412) -/

/-- Chunks of a WSETLOAD. -/
def wsetChunks (p : Pkt) : Nat := fld p 40 8 / 4096
/-- The IV of chunk k. -/
def wsetIv (p : Pkt) (k : Nat) : List Byte := natLe 8 k ++ natLe 2 (fld p 48 2) ++ [0, 0]
/-- A chunk's 4096 bytes. -/
def chunkBytes (l : List Byte) : List Byte := (l ++ List.replicate 4096 0).take 4096
/-- A weight-set table entry changed, or added. -/
def State.modModel (s : State) (o m : Nat) (f : WModel → WModel) : State :=
  let z : WSet := { base := 0, len := 0, loaded := false }
  let new := match s.tabs.wmodel o m with | some w => w | none => { owner := o, model := m, s0 := z, s1 := z, cur := false }
  { s with tabs := { s.tabs with wsets := (s.tabs.wsets.filter fun w => !(w.owner == o && w.model == m)) ++ [f new] } }
/-- A set replaced. -/
def WModel.put (w : WModel) (k : Bool) (z : WSet) : WModel := if k then { w with s1 := z } else { w with s0 := z }
/-- Whether a set may not be loaded: it is current, or bound to a heat that has not completed. DEDUCED, log entry 38. -/
def State.wsetBusy (s : State) (o m : Nat) (k : Bool) : Bool :=
  (match s.tabs.wmodel o m with | some w => w.cur == k && (w.set k).loaded | none => false)
  || s.fw.heats.any fun (h : Heat) => h.owner == o && h.wbind == some (m, k)
/-- WSETLOAD: its chunks are read and decrypted in background steps under the key captured here. -/
def execWsetload (p : Pkt) (s : State) : Out :=
  let o := p.func
  let m := fld p 48 2
  let k : Bool := fld p 50 1 == 1
  match s.tabs.keys.find? fun e => e.2.owner == o && e.2.kind == .model && e.2.modelid == m with
  | none => done s p .noKey
  | some e =>
    let full := (s.tabs.wmodel o m).isNone && decide (64 ≤ (s.tabs.wsets.filter fun w => w.owner == o).length)
    let loading := s.fw.cmds.any fun c => c.pkt.opc == 0x0D && c.pkt.func == o && fld c.pkt 48 2 == m && fld c.pkt 50 1 == fld p 50 1
    if s.wsetBusy o m k || full || loading then done s p .busy
    else
      let s := match s.tabs.wmodel o m with
        | some _ => s.modModel o m fun w => w.put k { w.set k with loaded := false }
        | none => s
      s.startCmd p s.cycle [] [] e.2.key
/-- What a WSETLOAD that ends early leaves: each line old or new, freely. -/
def State.wsetEnd (s : State) (c : Cmd) : State :=
  let p := c.pkt
  let n := wsetChunks p
  let rest := (List.range n).drop c.steps |>.flatMap fun k =>
    chunkBytes (Config.gcmPlain c.key (wsetIv p k) ((s.fwRead p.func (fld p 24 8 + 4112 * k) 4112).take 4096))
  let new := c.img ++ rest
  let s' : State := ({ s with seq := s.seq + 1 } : State).fwSees p.func (fld p 24 8 + 4112 * c.steps) (4112 * (n - c.steps))
  (List.range (64 * n)).foldl (fun t k =>
    if Config.wsetNew s.seq k then t.fwWrite p.func (fld p 32 8 + 64 * k) ((new.drop (64 * k)).take 64) else t) s'
/-- The next chunk of a WSETLOAD; after the last the plaintext stands at DST and the set is loaded. -/
def State.wsetStep (s : State) (c : Cmd) : State :=
  let p := c.pkt
  let o := p.func
  if wsetChunks p ≤ c.steps then
    if !s.present o (fld p 32 8) (fld p 40 8) then s
    else
      let z : WSet := { base := fld p 32 8, len := fld p 40 8, loaded := true }
      ((s.fwWrite o (fld p 32 8) c.img).modModel o (fld p 48 2) fun w => w.put (fld p 50 1 == 1) z).endCmd c Sts.ok.word
  else
    let a := fld p 24 8 + 4112 * c.steps
    if !s.present o a 4112 then s
    else
      let b := s.fwRead o a 4112
      let s := s.fwSees o a 4112
      match Config.gcmOpen c.key (wsetIv p c.steps) [] (b.take 4096) (b.drop 4096) with
      | some l => s.modCmd c.id fun c => { c with img := c.img ++ chunkBytes l, steps := c.steps + 1 }
      | none => (s.wsetEnd c).endCmd c Sts.unwrap.word
/-- WSETSWITCH: refused when the set is not loaded. -/
def execWsetswitch (p : Pkt) (s : State) : Out :=
  let m := fld p 24 2
  let k : Bool := fld p 26 1 == 1
  match s.tabs.wmodel p.func m with
  | some w => if (w.set k).loaded then done (s.modModel p.func m fun w => { w with cur := k }) p .ok else done s p .busy
  | none => done s p .busy

/-! ### Queues (R389, R390, R408, R409) -/

/-- The runners of a queue's ended heats stop, and what carries the tokens of these heats is dropped before it leaves the clusters: whole
Hampers, tile stores, writes without a slot, strong accesses (R408). -/
def State.dropToken (s : State) (k : Nat) : State :=
  let rs := s.fw.squads.flatMap fun z => match s.heat z.heat with | some h => if h.queue == k && h.ended.isSome then z.runners else [] | none => []
  let drop (x : Runner) : Runner :=
    if rs.contains x.num then { x.halt with hamper := [], saq := [], strong := [], spr := { x.spr with q := x.spr.q.filter fun c => !sprWrites c.i } } else x
  let s : State := { s with runners := s.runners.map drop }
  s.modMem fun m => { m with reqs := m.reqs.filter fun q =>
    !(rs.contains q.run && q.start.isNone && (q.write || match q.use with | .strong .. => true | _ => false)) }
/-- A queue's work ended: packets not started are dropped, its heats end, waiting and long commands end, table changes go on. -/
def State.resetQueue (s : State) (k : Nat) : State :=
  match s.queue k with
  | none => s
  | some q =>
    let about (t : Todo) : Option Pkt := match t with | .act (.command p) => if p.queue == k then some p else none | _ => none
    let ended := s.fw.cmds.filter fun (c : Cmd) => c.pkt.queue == k && [0x0B, 0x0C, 0x0D].contains c.pkt.opc
    let gone := q.blk.toList ++ ended.map (·.pkt) ++ s.agenda.filterMap about ++ q.pend
    let s : State := { s with agenda := s.agenda.filter fun t => (about t).isNone }
    let s := s.modQueue k fun q => { q with pend := [], blk := none, npSince := none, stopped := true }
    let s := (ended.filter fun (c : Cmd) => c.pkt.opc == 0x0D).foldl (fun s c => s.wsetEnd c) s
    let s := s.modFw fun w => { w with cmds := w.cmds.filter fun c => !ended.any fun e => e.id == c.id }
    let s := (s.fw.heats.filter fun (h : Heat) => h.queue == k).foldl (fun s h => s.endHeat none h.id Sts.reset.word 0) s
    let s := s.dropToken k
    ((gone.filter fun p => p.cwaddr != 0).foldl (fun s p => s.complete p Sts.reset.word 0) s).settle
/-- The runners of a queue's squads. -/
def State.runnersOf (s : State) (k : Nat) : List Nat :=
  s.fw.squads.flatMap fun z => match s.heat z.heat with | some h => if h.queue == k then z.runners else [] | none => []
/-- A runner among what a command waits for, apart from the extents. -/
def runnerTag (r : Nat) : Nat := 2 ^ 16 + r
/-- RESETQ and QCLOSE: the queue a packet names. -/
def resetTarget (p : Pkt) : Nat := qKey (if p.opc = 0x0A then targetOf p 26 else p.func) (fld p 24 2)
/-- RESETQ or QCLOSE begins. -/
def State.resetStart (s : State) (p : Pkt) : Out :=
  let k := resetTarget p
  match s.queue k, decide (fld p 24 2 ≤ 1023) with
  | none, _ | _, false => done s p .badPacket
  | some _, true =>
    let rs := (s.runnersOf k).map runnerTag
    (s.resetQueue k).startCmd p (s.cycle + usec 990) rs
/-- RESETQ (R408). -/
def execResetq (p : Pkt) (s : State) : Out := s.resetStart p
/-- QCLOSE (R409). -/
def execQclose (p : Pkt) (s : State) : Out := s.resetStart p
/-- A queue that has been reset accepts from the ring's write index on, under a new token; one that was closed is gone.
DEDUCED, log entry 39. -/
def State.resetEnd (s : State) (c : Cmd) : State :=
  let k := resetTarget c.pkt
  match s.queue k with
  | none => s.endCmd c Sts.ok.word
  | some q =>
    if c.pkt.opc = 0x13 then
      (s.modFw fun w => { w with queues := adel w.queues k, late := w.late ++ q.late }).readmitAll.endCmd c Sts.ok.word
    else
      let tok := BitVec.ofNat 16 s.seq
      let s : State := { s with seq := s.seq + 1 }
      let s := s.modQueue k fun q => { q with read := q.bell, stopped := (s.func q.func).stop, token := tok }
      (s.fwWrite q.func q.d.rptr (natLe 8 q.bell.toNat) true).endCmd c Sts.ok.word
/-- Whether firmware's writes of a queue's commands are still on their way to memory of the module. -/
def State.writesOut (s : State) (k : Nat) : Bool :=
  s.mem.reqs.any fun q => q.fwWrites && q.chan.isSome && match q.use with | .fw _ o => o == k / 1024 | _ => false
/-- What would put a reset off past 1 ms given up: audit passes of the queue's heats that have not been compared, engines that are not through.
DEDUCED, log entry 39. -/
def State.forceEnd (s : State) (k : Nat) : State :=
  let ids := (s.fw.heats.filter fun (h : Heat) => h.queue == k && h.ended.isSome).map (·.id)
  let s := s.modFw fun w => { w with
    store := w.store.map fun e => (e.1, e.2.filter fun p => !ids.contains p.heat)
    replays := w.replays.filter fun e => !ids.contains e.2.heat }
  let rs := s.runnersOf k
  let stop (x : Runner) : Runner := if rs.contains x.num && x.squad.isSome then { x.halt with stopReq := true, hamper := [], spr := { x.spr with q := [] } } else x
  ({ s with runners := s.runners.map stop } : State).settle
/-- A reset goes on until no heat of the queue and no runner of it is left; none is put off past 1 ms. The close of a queue 0 by firmware itself
waits for those of the function's other queues (R435). -/
def State.resetStep (s : State) (c : Cmd) : State :=
  let k := resetTarget c.pkt
  let others := s.fw.cmds.any fun (d : Cmd) => d.id != c.id && d.pkt.opc == 0x13 && d.pkt.func == c.pkt.func
  if c.queued then
    if others then s
    else (s.resetQueue k).modCmd c.id fun c => { c with queued := false, due := s.cycle + usec 990, acks := (s.runnersOf k).map runnerTag }
  else
  let s := s.dropToken k
  let s := if c.due ≤ s.cycle then s.forceEnd k else s
  let open_ := s.fw.releasing.any fun e => c.acks.contains (runnerTag e.1)
  if (s.fw.heats.any fun (h : Heat) => h.queue == k) || s.writesOut k then s
  else if open_ then
    if s.cycle < c.due then s
    else s.modFw fun w => { w with releasing := w.releasing.map fun e => if c.acks.contains (runnerTag e.1) then (e.1, s.cycle) else e }
  else s.resetEnd c
/-- QOPEN (R389, R409). DEDUCED, log entry 39. -/
def execQopen (p : Pkt) (s : State) : Out :=
  let f := p.func
  let n := fld p 32 2
  if (s.queue (qKey f n)).isSome then done s p .busy
  else
    let b := s.fwRead f (fld p 24 8) 64
    let s := s.fwSees f (fld p 24 8) 64
    match s.descRefused f b with
    | some t => done s p t
    | none => done (s.openQueue f n (descOf b)) p .ok

/-! ### Context commands (R387, R413, R418) -/

/-- The heat a context command names, or why it is refused. -/
def State.ctxHeat (s : State) (p : Pkt) : Except Sts Heat :=
  match s.heat (BitVec.ofNat 64 (fld p 24 8)) with
  | none => .error .badPacket
  | some h => if isGuest p && h.owner != p.func then .error .notPermitted else .ok h
/-- CTXSAVE: the heat is paused, its running squads are pre-empted, and its ready squads are held. DEDUCED, log entry 38. -/
def execCtxsave (p : Pkt) (s : State) : Out :=
  match s.ctxHeat p with
  | .error t => done s p t
  | .ok h =>
    if 2 ^ 64 - 1 ≤ (s.tabs.tkey h.owner).ctxn then done s p .busy
    else
      let s := s.modHeat h.id fun (h : Heat) => { h with paused := true }
      let s := (s.fw.squads.filter fun z => z.heat == h.id).foldl (fun s z => s.slice z.id) s
      s.startCmd p s.cycle
/-- A list entry of a saved runner. -/
def ctxEntry (i : Image) (nonce : Nat) : List Byte :=
  natLe 8 i.heat.toNat ++ natLe 2 i.sqn ++ natLe 1 i.idx ++ List.replicate 5 0 ++ natLe 8 nonce ++ natLe 8 i.hbase
/-- The saved runners of a heat in order of squad and index. -/
def State.savedOf (s : State) (id : Word) : List Image :=
  (s.fw.images.filter fun i => i.heat == id).mergeSort fun a b => decide (a.sqn < b.sqn ∨ (a.sqn = b.sqn ∧ a.idx ≤ b.idx))
/-- CTXSAVE goes on until no squad of the heat holds a runner; then its list is written. -/
def State.ctxStep (s : State) (c : Cmd) : State :=
  let p := c.pkt
  let id := BitVec.ofNat 64 (fld p 24 8)
  if s.fw.squads.any fun z => z.heat == id && (z.state == .running || z.state == .saving) then s
  else
    let l := s.savedOf id
    if fld p 40 4 < l.length then s.endCmd c Sts.busy.word
    else
      let body := l.flatMap fun i => ctxEntry i (agetD s.tabs.expected (i.heat, i.sqn, i.idx) 0)
      (s.fwWrite p.func (fld p 32 8) (natLe 4 l.length ++ List.replicate 12 0 ++ body)).endCmd c Sts.ok.word
/-- Whether a list entry names an image that R387 accepts. -/
def State.entryOk (s : State) (h : Heat) (b : List Byte) : Bool :=
  let key := (BitVec.ofNat 64 (fieldLe b 0 8), fieldLe b 8 2, fieldLe b 10 1)
  let nonce := fieldLe b 16 8
  fieldLe b 0 8 == h.id.toNat && allZero ((b.drop 11).take 5) && aget s.tabs.expected key == some nonce &&
    s.fw.images.any fun i => (i.heat, i.sqn, i.idx) == key && i.ok && i.owner == h.owner && i.nonce == nonce && i.commit == nonce
      && i.hbase == fieldLe b 24 8 && s.imageHeld i
/-- CTXLOAD: every entry of its list is checked; then the heat is unpaused. DEDUCED, log entry 38. -/
def execCtxload (p : Pkt) (s : State) : Out :=
  match s.ctxHeat p with
  | .error t => done s p t
  | .ok h =>
    let a := fld p 32 8
    let n := fieldLe (s.fwRead p.func a 16) 0 4
    let s := s.fwSees p.func a (16 + 32 * n)
    if !s.mapped p.func a (16 + 32 * n) false then done s p .badAddress
    else
      let l := recordsOf 32 (s.fwRead p.func (a + 16) (32 * n))
      match l.findIdx? fun b => !s.entryOk h b with
      | some k => done s p .ctxRefused k
      | none => done (s.modHeat h.id fun (h : Heat) => { h with paused := false }) p .ok

/-! ### Audit settings, reports and key transport (R415, R423-R425) -/

/-- An owner's audit settings changed. -/
def State.modAud (s : State) (o : Nat) (f : AudCfg → AudCfg) : State :=
  { s with tabs := { s.tabs with aud := aput s.tabs.aud o (f (s.tabs.audOf o)) } }
/-- AUDITCFG: the owner's own settings, or the floor the PF sets for an owner it names. DEDUCED, log entry 39. -/
def execAuditcfg (p : Pkt) (s : State) : Out :=
  let fr := fld p 24 2
  let kill : Bool := fld p 26 1 == 1
  if p.func = 0 ∧ fld p 28 2 ≠ 0xFFFF then
    done (s.modAud (fld p 28 2) fun (a : AudCfg) => { a with fracf := fr, polf := kill }) p .ok
  else done (s.modAud p.func fun (a : AudCfg) => { a with fracv := fr, polv := kill }) p .ok
/-- Running runners contribute up to the sample (R422, R424). DESIGN CHOICE, log entry 46. -/
def State.sampleMeter (s : State) (o : Nat) : State :=
  (s.runners.filter fun x => x.squad.isSome && x.owner == o).foldl (fun s x => s.addBlock x.num) s
/-- The counts that energy weighs (R423). -/
def Meter.counts (m : Meter) : List Nat :=
  [m.runns * 5 / 7] ++ (List.range 23).map (agetD m.press · 0) ++ (List.range 8).map (agetD m.bytes · 0) ++ [m.lanes]
/-- ENERGY in millijoules: the sum of the counts, each weighted by its coefficient (R423). -/
def Meter.energy (m : Meter) (conf : List Byte) : Nat := (m.counts.zipIdx.map fun p => p.1 * Config.energyWeight conf p.2).sum / 1000000
/-- Bytes 0 to 463 of a report (R424). DESIGN CHOICE, log entry 46. -/
def State.report (s : State) (o : Nat) (nonce : List Byte) : List Byte :=
  let m := s.tabs.meter o
  let a := s.tabs.audOf o
  let q (n : Nat) := natLe 8 n
  [0x4D, 0x45, 0x54, 0x52] ++ natLe 2 1 ++ natLe 2 o ++ q m.seq ++ nonce ++ q (nowNs s.cycle) ++ List.replicate 24 0 ++ q (m.runns * 5 / 7)
  ++ (List.range 23).flatMap (fun f => q (agetD m.press f 0)) ++ (List.range 8).flatMap (fun k => q (agetD m.bytes k 0))
  ++ q (m.energy s.bnd.conf) ++ q m.lod ++ q m.slipst ++ q m.popst
  ++ ((List.range 4).flatMap fun c => q (agetD m.rewind (c + 1) 0)) ++ q m.softrep ++ q (a.skip * 2 ^ 48 + a.sel % 2 ^ 48) ++ q a.mis
  ++ natLe 2 a.fracv ++ natLe 2 a.fracf ++ [if a.polv then 1 else 0, if a.polf then 1 else 0] ++ List.replicate 50 0
/-- MR0 to MR2 as bytes. -/
def State.mrBytes (s : State) : List Byte := (s.bnd.mr.toList.take 3).flatMap fun m => natLe 32 m.toNat
/-- A new report of an owner: its sample, and the owner's report count raised. -/
def State.newReport (s : State) (o : Nat) (nonce : List Byte) : State × List Byte :=
  let s := (s.sampleMeter o).modMeter o fun m => { m with seq := m.seq + 1 }
  (s, s.report o nonce)
/-- METERREAD: the sample is taken at the beginning of the next cycle, when every event of the present one has been counted (R424). DESIGN
CHOICE, log entry 46. -/
def execMeterread (p : Pkt) (s : State) : Out := s.startCmd p s.cycle
/-- The signed report of 1,744 bytes. -/
def State.meterStep (s : State) (c : Cmd) : State :=
  let p := c.pkt
  if s.cycle ≤ c.due then s
  else
    let r := s.newReport (targetOf p 32) ((p.body.drop 16).take 16)
    let sig := (Config.falconSign s.mrBytes r.2 ++ List.replicate 1280 0).take 1280
    (r.1.fwWrite p.func (fld p 24 8) (r.2 ++ sig)).endCmd c Sts.ok.word
/-- KEYWRAP: the new key-transport key, and its check value written. -/
def execKeywrap (p : Pkt) (s : State) : Out :=
  let ct := s.fwRead p.func (fld p 24 8) 1568
  let s := s.fwSees p.func (fld p 24 8) 1568
  let tag : List Byte := [0x4C, 0x42, 0x39, 0x4B, 0x54, 0x4B]
  let key := Config.shake256 (tag ++ Config.mlKemDecap s.mrBytes ct)
  let s : State := { s with tabs := { s.tabs with ktk := some key } }
  done (s.fwWrite p.func (fld p 32 8) (natLe 32 (Config.shake256 (tag ++ [0x4F, 0x4B] ++ natLe 32 key.toNat)).toNat)) p .ok

/-! ### Lending (R407) -/

/-- LEND: the lent set of a die; squads on runners no longer lent are recalled. -/
def execLend (p : Pkt) (s : State) : Out :=
  let o := p.func
  let d := fld p 32 1
  let q := s.tabs.quotaInForce o
  let mask := BitVec.ofNat 64 (fld p 24 8)
  if q.mode != .fixed || (lentMask d mask &&& ~~~q.rmask) != 0 then done s p .notPermitted
  else
    let old := (agetD s.tabs.lent (o, d) (0, 0)).1
    let back := ((List.range 64).filter fun j => old.getLsbD j && !mask.getLsbD j).map fun j => 64 * d + j
    let s : State := { s with tabs := { s.tabs with lent := aput s.tabs.lent (o, d) (mask, fld p 34 2) } }
    let zs := s.fw.squads.filter fun z => z.owner != o && z.runners.any back.contains
    let s := zs.foldl (fun s z => s.recall z.id) s
    if zs.isEmpty then done s p .ok else s.startCmd p s.cycle (back.map runnerTag)
/-- A LEND goes on until its recalled runners are back. -/
def State.lendStep (s : State) (c : Cmd) : State :=
  let away := c.acks.any fun a =>
    let r := a - 2 ^ 16
    (s.fw.releasing.any fun e => e.1 == r) || ((s.rn r).squad.isSome && (s.rn r).owner != c.pkt.func)
  if away then s else s.endCmd c Sts.ok.word

/-! ### Stopping a function (R414) -/

/-- VFSTOP: the function's queues accept no more, its running squads are pre-empted. -/
def execVfstop (p : Pkt) (s : State) : Out :=
  let f := fld p 24 2
  let s := s.modFunc f fun z => { z with stop := true }
  let s := s.modFw fun w => { w with queues := w.queues.map fun e => if e.2.func == f then (e.1, { e.2 with stopped := true }) else e }
  let s := (s.fw.squads.filter fun z => z.owner == f).foldl (fun s z => s.slice z.id) s
  s.startCmd p (s.cycle + usec 1000)
/-- An image that an abandoned CTXSAVE wrote becomes an image of the stop: written again under a new nonce, so that none with the old one
has COMMIT set and the squad can be restored after VFGO (R387, R414). DESIGN CHOICE, log entry 106. -/
def State.reissue (s : State) (i : Image) : State :=
  let k := s.tabs.tkey i.owner
  let j : Image := { i with nonce := k.ctxn, commit := k.ctxn, gen := k.curgen, swept := 0 }
  let key := (i.heat, i.sqn, i.idx)
  let s : State := { s with tabs := { s.tabs with
    tkeys := aput s.tabs.tkeys i.owner { k with ctxn := k.ctxn + 1 }, expected := aput s.tabs.expected key j.nonce } }
  ((s.modFw fun w => { w with images := (w.images.filter fun z => (z.heat, z.sqn, z.idx) != key) ++ [j] }).askSlots j.parts true).putImage j
/-- A CTXSAVE of a stopping function abandoned whole: it starts again after VFGO. -/
def State.abandonCtx (s : State) (f : Nat) : State :=
  let l := s.fw.cmds.filter fun (c : Cmd) => c.pkt.queue == qKey f 0 && c.pkt.opc == 0x0B
  l.foldl (fun s c =>
    let s := s.modFw fun w => { w with cmds := w.cmds.filter fun (d : Cmd) => d.id != c.id }
    let id := BitVec.ofNat 64 (fld c.pkt 24 8)
    let s := s.modHeat id fun (h : Heat) => { h with paused := false }
    let s := (s.fw.images.filter fun i => i.heat == id && decide (nowNs c.due ≤ i.time)).foldl (fun s i => s.reissue i) s
    s.modQueue (qKey f 0) fun q => { q with pend := c.pkt :: q.pend }) s
/-- VFSTOP goes on until the function holds no runner and its control queue is at the boundary of its packet. -/
def State.stopStep (s : State) (c : Cmd) : State :=
  let f := fld c.pkt 24 2
  let s := if c.due ≤ s.cycle then s.abandonCtx f else s
  let held := (s.fw.squads.any fun z => z.owner == f && (z.state == .running || z.state == .saving))
    || s.fw.releasing.any fun e => (s.rn e.1).owner == f
  if held || s.fw.cmds.any fun (d : Cmd) => d.pkt.queue == qKey f 0 then s else s.endCmd c Sts.ok.word
/-- The queues of a function go on. -/
def State.goFunc (s : State) (f : Nat) : State :=
  let s := s.modFunc f fun z => { z with stop := false }
  let s := s.modFw fun w => { w with queues := w.queues.map fun e => if e.2.func == f then (e.1, { e.2 with stopped := false }) else e }
  s.pumpAll
/-- VFGO: after a VFSTOP of the function that goes on. -/
def execVfgo (p : Pkt) (s : State) : Out :=
  let f := fld p 24 2
  if s.fw.cmds.any fun (c : Cmd) => c.pkt.opc == 0x21 && fld c.pkt 24 2 == f then s.startCmd p s.cycle else done (s.goFunc f) p .ok
/-- A VFGO that waits for a VFSTOP. -/
def State.goStep (s : State) (c : Cmd) : State :=
  let f := fld c.pkt 24 2
  if s.fw.cmds.any fun (d : Cmd) => d.pkt.opc == 0x21 && fld d.pkt 24 2 == f && decide (d.id < c.id) then s
  else (s.goFunc f).endCmd c Sts.ok.word

/-! ### Commands go on (R391, R397) -/

/-- A command that takes time, as far as it can go now. -/
def State.cmdStep (s : State) (c : Cmd) : State :=
  match c.pkt.opc with
  | 0x05 | 0x06 | 0x07 => s.memStep c
  | 0x08 => s.leaseStep c
  | 0x0A | 0x13 => s.resetStep c
  | 0x0B => s.ctxStep c
  | 0x0D => s.wsetStep c
  | 0x10 => s.meterStep c
  | 0x14 => s.lendStep c
  | 0x20 => s.partStep c
  | 0x21 => s.stopStep c
  | 0x22 => s.goStep c
  | 0x100 => s.homeStep c
  | 0x101 => s.hostOutStep c
  | _ => s
/-- COMMAND_COMPLETE: a command whose effect has been made completes. -/
def execCommandComplete (n : Nat) (s : State) : Out :=
  match s.fw.cmds.find? fun (c : Cmd) => c.id == n with
  | some c => .next (s.cmdStep c)
  | none => .next s
/-- Race records and pool blocks of a finished squad's range cleared (R314). -/
def State.clearRange (s : State) (g : Nat × Nat) : State :=
  let out (a : Nat) : Bool := !decide (g.1 ≤ a ∧ a < g.1 + g.2)
  let s := s.modMem fun m => { m with
    races := m.races.filter fun e => match e.1 with | .phys n => out (256 * n) | _ => true
    pool := m.pool.flatMap fun u => outside [g] u }
  s.modFw fun w => { w with clearing := w.clearing.filter fun c => c != g }
/-- Firmware clears entries of the error logs: which and when is free (R285). DESIGN CHOICE, log entry 71. -/
def State.clearLogs (s : State) : State :=
  { (s.modMem fun m => { m with
      logs := m.logs.map fun l => (l.1, (l.2.zipIdx.filter fun e => !Config.clearsLog s.seq ((l.1.1 * 2 ^ 16 + l.1.2) * 16 + e.2)).map (·.1)) }) with
    seq := s.seq + 1 }
/-- The longer commands that a die's firmware core has accepted, in the order of acceptance, those of firmware itself first (R391). -/
def State.longCmds (s : State) (d : Nat) : List Cmd :=
  (s.fw.cmds.filter fun (c : Cmd) => c.pkt.die == d).mergeSort fun a b => decide (a.pkt.acc < b.pkt.acc ∨ (a.pkt.acc = b.pkt.acc ∧ a.id ≤ b.id))
/-- BACKGROUND_STEP of die d: the longer commands it has accepted advance in the order of their acceptance; die 0 clears records and logs and
advances scrubs. -/
def execBackgroundStep (d : Nat) (s : State) : Out :=
  if !s.bnd.released || s.cycle % 28 ≠ 17 then .next s
  else
    let s : State := { s with agenda := ((s.longCmds d).map fun c => Todo.act (.commandComplete c.id)) ++ s.agenda }
    if d = 0 then
      let s := match s.fw.clearing with
        | g :: _ => s.clearRange g
        | [] => s
      .next s.scrubSteps.clearLogs
    else .next s

end Sys2Proof.Machine
end

