-- ==== Sys2Proof/Machine/Audit.lean ====
section
/-! DEFINITION. The auditor's replays, in-field tests, and the monitors with what they do to scheduling, data rates and power (R294, R427-R432,
R435, R450). -/

namespace Sys2Proof.Machine

/-! ### Replays (R427, R428) -/

/-- An audit runner's number. -/
def auditNum (d k : Nat) : Nat := 0x100 + 64 * d + k
/-- The Press as a pass found it at its first K-block. -/
def Pass.press (z : Pass) : Press :=
  let p := z.ops.foldl (fun (p : Press) e => p.modSlot e.1 fun _ => e.2) Press.reset
  { z.banks.foldl (fun (p : Press) e => p.modBank e.1 fun _ => e.2) p with step := 0 }
/-- One K-block of a replay; none when a class that an enabled FE bit covers is met. -/
def replayBlock (c : PressCmd) (o : MatOp) (p : Press) (b : Nat) : Option Press :=
  let t := accTag o.fmt
  let rows := p.blockRes o b
  match c.hold rows.flatten with
  | some _ => none
  | none =>
    let a := p.slot o.a
    let w := p.slot o.w
    let wst := (List.range w.rows).any fun j => w.stain.getLsbD j
    let st := rowMask (((List.range a.rows).filter fun i => wst || a.stain.getLsbD i) ++ c.hits (tagFmt t) rows)
    some { p.setAcc t o.d (p.merged t o.d rows) (p.accStain t o.d ||| st) with step := b + 1 }
/-- The K-blocks of a pass. -/
def passBlocks (z : Pass) (o : MatOp) : List Nat := List.range (ceilDiv (z.press.slot o.a).k (kBlock o.fmt))
/-- The signature that a replay computes; a class that was covered disagrees with the original. -/
def Pass.replayed (z : Pass) : BitVec 64 :=
  match matOf z.cmd.i with
  | some o =>
    match (passBlocks z o).foldl (fun p b => p.bind fun p => replayBlock z.cmd o p b) (some z.press) with
    | some p => p.signature (accTag o.fmt) o.d
    | none => ~~~z.sig
  | none => ~~~z.sig
/-- Cycles of a pass's command (R188). -/
def Pass.cycles (z : Pass) : Nat :=
  match matOf z.cmd.i with
  | some o => 6 + o.cycles (z.press.slot o.a).k
  | none => 0
/-- The pass leaves the store and the replays. -/
def State.dropPass (s : State) (d id : Nat) : State :=
  s.modFw fun w => { w with
    store := aput w.store d ((agetD w.store d []).filter fun z => z.id != id)
    replays := w.replays.filter fun e => e.2.id != id }
/-- A dispatchable runner taken out of service for a test, after the squad it holds. DEDUCED, log entry 64. -/
def State.quarantine (s : State) (r : Nat) : State :=
  if (s.rn r).squad.isSome || s.fw.releasing.any fun e => e.1 == r then
    s.modFw fun w => { w with quar := if w.quar.contains r then w.quar else w.quar ++ [r] }
  else
    (s.modR r fun x => { x with withdrawn := true }).modFw fun w => { w with tests := if w.tests.contains r then w.tests else w.tests ++ [r] }
/-- An audit runner withdrawn for a test. -/
def State.withdraw (s : State) (n : Nat) : State :=
  (s.modR n fun x => { x with withdrawn := true }).modFw fun w => { w with tests := if w.tests.contains n then w.tests else w.tests ++ [n] }
/-- 24 hours of module time in cycles. -/
def dayCycles : Nat := 24 * 3600 * 1000000 * 1400
/-- A mismatch of a pass (R428, R429): counted, in the event stream and the status; the original runner is quarantined, at a second
one within 24 hours retired; under the kill policy of the pass the heat ends. DEDUCED, log entry 64. -/
def State.mismatch (s : State) (z : Pass) : State :=
  let again := s.fw.mism.any fun e => e.1 == z.run && decide (s.cycle < e.2 + dayCycles)
  let s := s.modAud z.owner fun (a : AudCfg) => { a with mis := a.mis + 1 }
  let s := (s.event z.heat 3 0 0).modHeat z.heat fun (h : Heat) => { h with audit := true }
  let s := s.modFw fun w => { w with
    mism := w.mism ++ [(z.run, s.cycle)]
    retired := if again && !w.retired.contains z.run then w.retired ++ [z.run] else w.retired }
  let s := s.quarantine z.run
  if z.kill then s.endHeat none z.heat (statusWord 0x0C 0x25 false z.run z.pc 0) 0 else s
/-- AUDIT_REPLAY: audit runner k of die d takes the oldest entry that it may replay. An entry that differed and whose second runner is no
longer in service is a mismatch, whether or not runner k is in service. -/
def execAuditReplay (d k : Nat) (s : State) : Out :=
  let n := auditNum d k
  let sto := agetD s.fw.store d []
  let alone (z : Pass) : Bool := match z.first with
    | some (a, _) => !((s.auditors d).any fun j => auditNum d j != a)
    | none => false
  match sto.find? alone with
  | some z => .next ((s.dropPass d z.id).mismatch z).settle
  | none =>
    if !(s.auditors d).contains k || s.fw.tests.contains n || (aget s.fw.replays (d, k)).isSome then .next s
    else
      let busy (z : Pass) : Bool := s.fw.replays.any fun e => e.2.id == z.id
      let mine (z : Pass) : Bool := !busy z && match z.first with | some (a, _) => a != n | none => true
      match sto.find? mine with
      | none => .next s
      | some z =>
        let s' : State := { s with seq := s.seq + 1 }
        let due := s.cycle + z.cycles + Config.replay s.seq
        .next ((s'.modR n fun x => { x with press := z.press }).modFw fun w => { w with
          replays := aput w.replays (d, k) { z with due := due } })
/-- AUDIT_REPLAY_COMPLETE: the signature is compared, the audit runner is zeroed. DEDUCED, log entry 64. -/
def execAuditReplayComplete (d k : Nat) (s : State) : Out :=
  match aget s.fw.replays (d, k) with
  | none => .next s
  | some z =>
    if s.cycle < z.due then .next s
    else
      let n := auditNum d k
      let sig := z.replayed ^^^ Config.silent s.seq
      let s : State := { s with seq := s.seq + 1 }
      let s := s.modR n fun x => { Runner.reset n with withdrawn := x.withdrawn }
      let s := s.modFw fun w => { w with replays := adel w.replays (d, k) }
      let other := (s.auditors d).any fun j => j != k && !s.fw.tests.contains (auditNum d j)
      match z.first with
      | none =>
        if sig == z.sig then .next (s.dropPass d z.id).settle
        else if other then
          .next (s.modFw fun w => { w with store := aput w.store d ((agetD w.store d []).map fun (y : Pass) =>
            if y.id == z.id then { y with first := some (n, sig) } else y) })
        else .next ((s.dropPass d z.id).mismatch z).settle
      | some (a, sa) =>
        let s := s.dropPass d z.id
        if sig == z.sig then .next (s.withdraw a).settle
        else if sig == sa then .next (s.mismatch z).settle
        else .next ((s.mismatch z).withdraw a).settle

/-! ### Monitors (R432, R450) -/

/-- The squads with a runner of some set pre-empted. -/
def State.preemptOn (s : State) (f : Nat → Bool) : State :=
  (s.fw.squads.filter fun z => z.runners.any f).foldl (fun s z => s.slice z.id) s
/-- A cluster's new entry among the hot ones: true from 105 °C until below 90 °C, false at 95 °C or above. -/
def hotEntry (old : Option Bool) (t : Int) : Option Bool :=
  if 420 ≤ t then some true
  else if old == some true && decide (360 ≤ t) then some true
  else if 380 ≤ t then some false else none
/-- The clusters' temperatures applied: pre-emption at 105 °C of a cluster and at 115 °C of a die; while the coolant's flow is lost every die
counts as one at 115 °C (R450). -/
def State.heatActions (s : State) (l : List Int) : State :=
  let t (c : Nat) : Int := l.getD c 0
  let hot := (List.range 32).filterMap fun c => (hotEntry (aget s.fw.hot c) (t c)).map fun b => (c, b)
  let peak (d : Nat) : Bool := s.fw.flowLost || (List.range 8).any fun c => decide (460 ≤ t (8 * d + c))
  let warm (d : Nat) : Bool := (List.range 8).any fun c => decide (360 ≤ t (8 * d + c))
  let dies := (List.range 4).filter fun d => peak d || (s.fw.dieHot.contains d && warm d)
  let s := s.modFw fun w => { w with hot := hot, dieHot := dies }
  s.preemptOn fun r => decide (420 ≤ t (clusterOf r)) || peak (dieOf r)
/-- The stacks' temperatures applied: a trip at 100 °C, over below 90 °C. -/
def State.stackActions (s : State) (l : List Int) : State :=
  let bit (k : Nat) : Bool := let t := l.getD k 0; decide (400 ≤ t) || (s.mem.trip.getLsbD k && decide (360 ≤ t))
  s.modMem fun m => { m with trip := BitVec.ofNat 12 ((List.range 12).foldl (fun a k => if bit k then a + 2 ^ k else a) 0) }
/-- Core rails out of range: squads on the cluster pre-empted, its runners tested before further dispatch. -/
def State.railActions (s : State) (l : List Bool) : State :=
  let bad (r : Nat) : Bool := l.getD (clusterOf r) false
  let s := s.preemptOn bad
  ((List.range 256).filter bad).foldl (fun s r => s.quarantine r) s
/-- The power estimate applied: no dispatch above the cap until it falls 100 W below it. DEDUCED, log entry 61. -/
def State.powerActions (s : State) (p : Nat) : State :=
  let above := decide (s.bnd.pcap < p)
  s.modFw fun w => { w with
    powerHold := above || (w.powerHold && decide (s.bnd.pcap - 100 ≤ p))
    powerOver := if above then some (w.powerOver.getD s.cycle) else none }
/-- MONITOR_SAMPLE: firmware's sample of a polling cycle, and its actions; a flow of 1.0 L/min or more is no longer lost. -/
def execMonitorSample (m : Readings) (s : State) : Out :=
  if !s.bnd.released then .next s
  else
    let s := s.modFw fun w => { w with readings := m, flowLost := w.flowLost && decide (m.flow < 10) }
    .next ((((s.heatActions m.cluster).stackActions m.stack).railActions m.railBad).powerActions m.power)
/-- POWER_OVERRUN: 10 ms above the cap, and every 1 ms from then on, the most recently dispatched squad of each die is pre-empted.
DEDUCED, log entry 61. -/
def execPowerOverrun (s : State) : Out :=
  match s.fw.powerOver with
  | some t =>
    if s.cycle < t + usec 10000 ∨ (s.cycle - t) % usec 1000 ≠ 0 then .next s
    else
      .next ((List.range 4).foldl (fun s d =>
        match (s.fw.squads.filter fun z => z.state == .running && z.runners.any fun r => dieOf r == d).foldl
            (fun (b : Option Squad) z => match b with
              | some y => if y.at_ < z.at_ then some z else b
              | none => some z) none with
        | some z => s.slice z.id
        | none => s) s)
  | none => .next s
/-- FLOW_LOSS: as every die at 115 °C, until a sample finds the flow again. DEDUCED, log entry 61. -/
def execFlowLoss (s : State) : Out :=
  .next ((s.modFw fun w => { w with flowLost := true, dieHot := [0, 1, 2, 3] }).preemptOn fun _ => true)

end Sys2Proof.Machine
end

