-- ==== Sys2Proof/Machine/Registers.lean ====
section
/-! DEFINITION. Cold reset and boot, function registers, TDISP and IDE (R286, R298, R388, R433-R441, R448-R450). -/

namespace Sys2Proof.Machine

/-! ### Boot (R431, R439, R440, R450) -/

/-- extend of a register that is zero (R440). -/
def measure (x : List Byte) : BitVec 256 := Config.shake256 (List.replicate 32 0 ++ natLe 32 (Config.shake256 x).toNat)
/-- Whether the boot ROM refuses an image (R439). -/
def imageBad (minSvn : Nat) (i : BootImage) : Bool := !i.sigOk || i.digest != Config.shake256 i.bytes || decide (i.svn < minSvn)
/-- M (R440). -/
def moduleDigest (m0 m1 m2 : BitVec 256) : BitVec 256 :=
  Config.shake256 ([0x4C, 0x42, 0x39, 0x4D, 0x45, 0x41, 0x53] ++ natLe 32 m0.toNat ++ natLe 32 m1.toNat ++ natLe 32 m2.toNat
    ++ [if Config.testEnabled then 1 else 0])
/-- COLD_RESET (R10, R439, R440): every state at reset but the retirement list and the fused minimum; the images are verified,
loaded and measured. The fresh-value counter goes on. DESIGN CHOICE, log entry 4. DESIGN CHOICE, log entry 6.
DEDUCED, log entry 49. DEDUCED, log entry 66. -/
def execColdReset (b : BootImages) (s : State) : Out :=
  let z := State.reset
  let z : State := { z with seq := s.seq + 1, fw := { z.fw with retired := s.fw.retired }, bnd := { z.bnd with minSvn := s.bnd.minSvn } }
  let imgs := [b.hub, b.die, b.conf]
  match imgs.find? (imageBad s.bnd.minSvn) with
  | some i => .next { z with bnd := { z.bnd with booted := true, refused := some (Config.shake256 i.bytes ^^^ 1) } }
  | none =>
    let m0 := measure Config.bootRom
    let m1 := measure b.hub.bytes
    let m2 := measure b.die.bytes
    let svn := (imgs.filter (·.raise)).foldl (fun v i => max v i.svn) s.bnd.minSvn
    .next { z with bnd := { z.bnd with
      mr := #v[m0, m1, m2, measure b.conf.bytes], m := moduleDigest m0 m1 m2, minSvn := svn, booted := true,
      actth := 256 + Config.threshold b.conf.bytes % 16128, conf := b.conf.bytes } }
/-- FIRMWARE_RELEASE: once the images are loaded and the flow reading meets its limit. -/
def execFirmwareRelease (flowOk : Bool) (s : State) : Out :=
  if flowOk && s.bnd.booted && s.bnd.refused.isNone then .next { s with bnd := { s.bnd with released := true } } else .next s

/-! ### Scrub at the boundary (R437) -/

/-- The IDE streams that cover a function and are secure. -/
def State.ideOf (s : State) (f : Nat) : Option IdeStream := s.bnd.ide.find? fun z => z.secure && decide (z.first ≤ f ∧ f ≤ z.last)
/-- TDI codes (R436). -/
def tdiCode : Tdi → Nat
  | .unlocked => 0 | .locked => 1 | .run => 2 | .error => 3
/-- FSTAT of a function (R436). -/
def State.fstat (s : State) (f : Nat) : Nat :=
  let z := s.func f
  (if f = 0 then 0 else tdiCode z.tdi) + (if z.stop then 8 else 0) + (if z.cqen then 16 else 0)
    + match s.ideOf f with | some i => i.n % 256 * 256 + 2 ^ 16 | none => 0
/-- An interface leaves its state: the owner is scrubbed, from RUN once its host-window pages have been unmapped (R437). -/
def State.leaveTdi (s : State) (f : Nat) (t : Tdi) : State :=
  let was := (s.func f).tdi
  let s := s.modFunc f fun z => { z with tdi := t }
  if was == .run then
    let h := s.hideAll (s.tabs.leaves.filter fun e => e.owner == f && pclass e.pa == .host)
    h.1.addCmd (ownPkt 0x101 f 0) h.1.cycle h.2.eraseDups
  else s.scrubHeats f
/-- An interface that is locked or in RUN goes to ERROR. -/
def State.tdiError (s : State) (f : Nat) : State :=
  let t := (s.func f).tdi
  if f != 0 && (t == .locked || t == .run) then s.leaveTdi f .error else s
/-- Every locked or running interface that no secure stream covers goes to ERROR. -/
def State.lostIde (s : State) : State :=
  (s.bnd.funcs.filter fun e => (s.ideOf e.1).isNone).foldl (fun s e => s.tdiError e.1) s

/-! ### Function registers (R388, R435, R449) -/

/-- A queue of a function closed by firmware itself (R409, R435). -/
def State.closeQueue (s : State) (f q : Nat) : State :=
  let rs := (s.runnersOf (qKey f q)).map runnerTag
  let s := s.resetQueue (qKey f q)
  s.addCmd (ownPkt 0x13 f q) (s.cycle + usec 990) rs
/-- Every queue of a function closed, queue 0 once the others have been (R435). -/
def State.closeAll (s : State) (f : Nat) : State :=
  let qs := (s.fw.queues.filter fun e => e.2.func == f).map fun e => e.2.qid
  let s := (qs.filter fun q => q != 0).foldl (fun s q => s.closeQueue f q) s
  let s := if qs.contains 0 then s.addCmd (ownPkt 0x13 f 0) s.cycle [] [] [] 0 true else s
  s.modFunc f fun z => { z with cqen := false }
/-- CQCTL_ENABLE: the descriptor is checked and queue 0 opened. -/
def execCqctlEnable (f : Nat) (s : State) : Out :=
  let z := s.func f
  if !z.enabled || z.cqen || !s.bnd.released || decide (1024 < f) || (s.queue (qKey f 0)).isSome then .next s
  else
    match s.descRefused f z.cqdesc with
    | some _ => .next s
    | none => .next ((s.openQueue f 0 (descOf z.cqdesc)).modFunc f fun z => { z with cqen := true })
/-- CQCTL_DISABLE: QCLOSE of every other queue, then queue 0. -/
def execCqctlDisable (f : Nat) (s : State) : Out := if (s.func f).cqen then .next (s.closeAll f) else .next s
/-- FUNCTION_ENABLE: a virtual function and its control queue come and go; none is enabled after a refused image (R439). -/
def execFunctionEnable (f : Nat) (on : Bool) (s : State) : Out :=
  if f = 0 ∨ 1024 < f ∨ s.bnd.refused.isSome then .next s
  else
    let s := if on then s else s.closeAll f
    .next (s.modFunc f fun z => { z with enabled := on })
/-- PCAP_WRITE: clamped; in force from the next polling cycle. -/
def execPcapWrite (v : Word) (s : State) : Out :=
  if s.bnd.refused.isSome then .next s else
  .next { s with bnd := { s.bnd with pcapDue := min 2400 (max 1200 (bits v.toNat 0 12)) } }
/-- HBMRATE_WRITE: a changed REQ bit is requested at the next polling cycle. -/
def execHbmrateWrite (v : Word) (s : State) : Out :=
  if s.bnd.refused.isSome then .next s else
  let req : BitVec 12 := v.setWidth 12
  let next := (s.cycle / 3584 + 1) * 3584
  let changed := (List.range 12).filter fun k => req.getLsbD k != s.bnd.hbmReq.getLsbD k
  .next (({ s with bnd := { s.bnd with hbmReq := req } } : State).modMem fun m => { m with
    rateDue := changed.foldl (fun l k => aput l k next) m.rateDue })
/-- EINJ_WRITE (R286, R435): ignored unless the module is test-enabled and the fields name the register's own instance. -/
def execEinjWrite (k : Nat) (v : Word) (s : State) : Out :=
  let w := v.toNat
  let arr := bits w 32 4
  if !Config.testEnabled || s.bnd.refused.isSome || decide (6 < arr ∨ k ≠ arr * 512 + bits w 16 9 ∨ 71 < bits w 9 7 ∨ 71 < bits w 2 7) then .next s
  else .next (s.modMem fun m => { m with einj := aput m.einj k v })
/-- A byte of a function register written. -/
def State.regByte (s : State) (f a : Nat) (b : Byte) : State :=
  let z := s.func f
  if a < 0x40 then (if z.cqen then s else s.modFunc f fun z => { z with cqdesc := z.cqdesc.set a b })
  else if 0x8000 ≤ a ∧ a < 0x8000 + 16 * vectorsOf f then
    let i := a - 0x8000
    let s := s.modFunc f fun z => { z with msix := aput z.msix i b }
    if i % 16 = 12 ∧ !b.getLsbD 0 ∧ z.pba.contains (i / 16) then
      (s.modFunc f fun z => { z with pba := z.pba.filter fun v => v != i / 16 }).send (.msix f (i / 16))
    else s
  else if f = 0 ∧ (a = 0xA0 ∨ a = 0xA1) then
    (if s.bnd.rigal.any (·.isOpen) then s
     else { s with bnd := { s.bnd with modid := BitVec.ofNat 16 (setBits s.bnd.modid.toNat (8 * (a - 0xA0)) 8 b.toNat) } })
  else if f = 0 ∧ 0x100 ≤ a ∧ a < 0x300 then
    let l := s.bnd.rgacc ++ List.replicate (0x200 - s.bnd.rgacc.length) 0
    { s with bnd := { s.bnd with rgacc := l.set (a - 0x100) b } }
  else s
/-- Whether a write meets a lock-protected register: CQDESC or the MSI-X table (R437). -/
def lockHit (f off n : Nat) : Bool := decide (0 < n ∧ (off < 0x40 ∨ (off < 0x8000 + 16 * vectorsOf f ∧ 0x8000 < off + n)))
/-- REGISTER_WRITE: registers without a behaviour of their own; a write to a protected register of a locked interface is not taken. -/
def execRegisterWrite (f off : Nat) (v : List Byte) (s : State) : Out :=
  let z := s.func f
  if !z.enabled || s.bnd.refused.isSome then .next s
  else if f != 0 && (z.tdi == .locked || z.tdi == .run) && lockHit f off v.length then .next (s.tdiError f)
  else .next (v.zipIdx.foldl (fun s b => s.regByte f (off + b.2) b.1) s)

/-! ### TDISP (R437) -/

/-- An SPDM or TDISP message sent back. PRESUMED, log entry 41. -/
def State.reply (s : State) (m : SpdmMsg) (code : Nat) (body : List Byte) : State := s.send (.spdm m.func code body)
/-- The interface that a TDISP message of a secured session is for. DEDUCED, log entry 51. -/
def State.tdiOf (s : State) (m : SpdmMsg) : Option Nat :=
  match m.func, m.session with
  | some f, some i =>
    if f != 0 && (s.func f).enabled && s.bnd.spdm.any (fun z => z.id == i && z.fin && z.func == some f) then some f else none
  | _, _ => none
/-- LOCK_INTERFACE. -/
def execLockInterface (m : SpdmMsg) (s : State) : Out :=
  match s.tdiOf m with
  | some f =>
    if (s.func f).tdi == .unlocked && (s.ideOf f).isSome then .next ((s.modFunc f fun z => { z with tdi := .locked }).reply m 0x103 [])
    else .next (s.reply m 0x17F [])
  | none => .next s
/-- START_INTERFACE. -/
def execStartInterface (m : SpdmMsg) (s : State) : Out :=
  match s.tdiOf m with
  | some f =>
    if (s.func f).tdi == .locked then .next ((s.modFunc f fun z => { z with tdi := .run }).reply m 0x106 []) else .next (s.reply m 0x17F [])
  | none => .next s
/-- STOP_INTERFACE. -/
def execStopInterface (m : SpdmMsg) (s : State) : Out :=
  match s.tdiOf m with
  | some f =>
    .next ((if (s.func f).tdi == .unlocked then s else s.leaveTdi f .unlocked).reply m 0x107 [])
  | none => .next s
/-- GET_DEVICE_INTERFACE_STATE. -/
def execGetDeviceInterfaceState (m : SpdmMsg) (s : State) : Out :=
  match s.tdiOf m with
  | some f => .next (s.reply m 0x105 [BitVec.ofNat 8 (tdiCode (s.func f).tdi)])
  | none => .next s
/-- GET_DEVICE_INTERFACE_REPORT: the BAR0 window and the MSI-X table. -/
def execGetDeviceInterfaceReport (m : SpdmMsg) (s : State) : Out :=
  match s.tdiOf m with
  | some f => .next (s.reply m 0x104 (Config.message 0x104 (natLe 2 f ++ natLe 4 0x10000 ++ natLe 4 0x8000 ++ natLe 4 (16 * vectorsOf f))))
  | none => .next s

/-! ### IDE (R438) -/

/-- IDE_KEY_MANAGEMENT, over a secured session of the PF: a programming message is refused while its range overlaps a secure stream; a stream
programmed anew or retired no longer covers its interfaces. DEDUCED, log entry 51. -/
def execIdeKeyManagement (k : IdeKm) (s : State) : Out :=
  if s.bnd.refused.isSome || !(s.bnd.spdm.any fun z => z.id == k.session && z.fin && z.func == some 0) then .next s else
  let others := s.bnd.ide.filter fun z => z.n != k.stream
  let put (l : List IdeStream) : State := { s with bnd := { s.bnd with ide := l } }
  match s.bnd.ide.find? fun z => z.n == k.stream, k.act with
  | _, .program =>
    if decide (255 < k.stream) || s.bnd.ide.any fun z => z.secure && decide (z.first ≤ k.last ∧ k.first ≤ z.last) then .next s
    else .next (put (others ++ [{ n := k.stream, first := k.first, last := k.last, secure := false }])).lostIde
  | some z, .goSecure => .next (put (others ++ [{ z with secure := true }]))
  | some _, .retire => .next (put others).lostIde
  | _, _ => .next s
/-- IDE_INTEGRITY_FAILURE: the stream is insecure, its interfaces go to ERROR. DEDUCED, log entry 51. -/
def execIdeIntegrityFailure (n : Nat) (s : State) : Out :=
  match s.bnd.ide.find? fun z => z.n == n with
  | some z =>
    let s : State := { s with bnd := { s.bnd with ide := (s.bnd.ide.filter fun y => y.n != n) ++ [{ z with secure := false }] } }
    .next ((s.bnd.funcs.filter fun e => decide (z.first ≤ e.1 ∧ e.1 ≤ z.last)).foldl (fun s e => s.tdiError e.1) s)
  | none => .next s

end Sys2Proof.Machine
end

