-- ==== Sys2Proof/Machine/Fabric.lean ====
section
/-! DEFINITION. SPDM, UALink ports, Rigal sessions, lease requests and notices of peers (R255, R256, R296, R297, R441-R447). -/

namespace Sys2Proof.Machine

/-! ### SPDM (R442, R443) -/

/-- The mailbox a message came through, as a key. -/
def boxKey (m : SpdmMsg) : Nat := match m.func with | some f => f | none => 0xFFFF
/-- Whether a mailbox exists. -/
def State.boxOpen (s : State) (m : SpdmMsg) : Bool := match m.func with | some f => (s.func f).enabled | none => true
/-- A request answered, where its mailbox exists. PRESUMED, log entry 41. -/
def State.answer (s : State) (m : SpdmMsg) (code : Nat) (body : List Byte) : State := if s.boxOpen m then s.reply m code body else s
/-- ERROR. -/
def State.spdmError (s : State) (m : SpdmMsg) (code : Nat) : State := s.answer m 0x7F [BitVec.ofNat 8 code]
/-- A request whose answer has no effect on the module. PRESUMED, log entry 41. -/
def plainAnswer (m : SpdmMsg) (code : Nat) (s : State) : Out := .next (s.answer m code (Config.message code m.body))
/-- The certificate chain of slot 0: DeviceID, the attestation key, the key-transport key (R441, R442). PRESUMED, log entry 41. -/
def State.certChain (s : State) : List Byte :=
  let att := Config.attPublic s.mrBytes
  let kt := Config.ktPublic s.mrBytes
  Config.deviceCert ++ att ++ Config.deviceSign att ++ kt ++ Config.falconSign s.mrBytes kt
/-- The body of VERSION: 1.2 and 1.3 (R442). PRESUMED, log entry 41. -/
def versionsBody : List Byte := [0, 0, 0, 2] ++ natLe 2 0x1200 ++ natLe 2 0x1300
/-- The algorithms that the module negotiates (R442). -/
inductive SpdmAlg | sha3_384 | falcon1024 | mlKem1024 | aes256Gcm
  deriving DecidableEq, Repr
/-- The algorithms, as ALGORITHMS names them. PRESUMED, log entry 41. -/
def algorithms : List SpdmAlg := [.sha3_384, .falcon1024, .mlKem1024, .aes256Gcm]
/-- The number of an algorithm in ALGORITHMS. PRESUMED, log entry 41. -/
def SpdmAlg.code : SpdmAlg → Byte
  | .sha3_384 => 1 | .falcon1024 => 2 | .mlKem1024 => 3 | .aes256Gcm => 4
/-- GET_VERSION: the connection starts anew. -/
def execGetVersion (m : SpdmMsg) (s : State) : Out :=
  .next (State.answer { s with bnd := { s.bnd with negotiated := s.bnd.negotiated.filter fun k => k != boxKey m } } m 0x04 versionsBody)
/-- GET_CAPABILITIES. -/
def execGetCapabilities (m : SpdmMsg) (s : State) : Out := plainAnswer m 0x61 s
/-- NEGOTIATE_ALGORITHMS: a requester that offers none of the module's algorithms is refused. -/
def execNegotiateAlgorithms (m : SpdmMsg) (s : State) : Out :=
  if !m.algOk then .next (s.spdmError m 0x01)
  else if !s.boxOpen m then .next s
  else
    let s : State := { s with bnd := { s.bnd with
      negotiated := if s.bnd.negotiated.contains (boxKey m) then s.bnd.negotiated else s.bnd.negotiated ++ [boxKey m] } }
    .next (s.answer m 0x63 (algorithms.map (·.code)))
/-- A request that needs negotiated algorithms. -/
def negotiatedGo (m : SpdmMsg) (s : State) (k : State → State) : Out :=
  if !s.boxOpen m then .next s
  else if s.bnd.negotiated.contains (boxKey m) then .next (k s) else .next (s.spdmError m 0x04)
/-- GET_DIGESTS: the digest of slot 0's chain. PRESUMED, log entry 41. -/
def execGetDigests (m : SpdmMsg) (s : State) : Out := negotiatedGo m s fun s => s.answer m 0x01 ([0, 1] ++ Config.sha3 s.certChain)
/-- GET_CERTIFICATE: the part of slot 0's chain that the request names by offset and length; other slots are empty. PRESUMED, log entry 41. -/
def execGetCertificate (m : SpdmMsg) (s : State) : Out :=
  negotiatedGo m s fun s =>
    if fieldLe m.body 0 1 % 16 ≠ 0 then s.spdmError m 0x01
    else
      let rest := s.certChain.drop (fieldLe m.body 2 2)
      let part := rest.take (fieldLe m.body 4 2)
      s.answer m 0x02 ([0, 0] ++ natLe 2 part.length ++ natLe 2 (rest.length - part.length) ++ part)
/-- A response signed by the attestation key, with the request (R443). PRESUMED, log entry 41. -/
def State.signed (s : State) (m : SpdmMsg) (body : List Byte) : List Byte := body ++ Config.falconSign s.mrBytes (Config.sha3 (m.body ++ body))
/-- CHALLENGE: signed by the attestation key. PRESUMED, log entry 41. -/
def execChallenge (m : SpdmMsg) (s : State) : Out :=
  negotiatedGo m s fun s => s.answer m 0x03 (s.signed m ([0, 1] ++ Config.sha3 s.certChain ++ Config.message 0x03 m.body))
/-- RETLIST: one bit per runner number (R435). DESIGN CHOICE, log entry 40. -/
def State.retlist (s : State) : List Byte :=
  natLe 256 (s.fw.retired.foldl (fun a r => if a.testBit r then a else a + 2 ^ r) 0)
/-- MONSUM, 256 bytes: the latest readings, the thresholds crossed and the actions in force (R432, R435; its layout: log entry 40). DESIGN
CHOICE, log entry 40. -/
def State.monsum (s : State) : List Byte :=
  let z := s.fw.readings
  let deg (t : Int) : List Byte := natLe 2 (t % 65536).toNat
  let flags (l : List Nat) (n : Nat) : List Byte := natLe n (l.foldl (fun a k => a + 2 ^ k) 0)
  padTo 256 ((List.range 32).flatMap (fun c => deg (z.cluster.getD c 0)) ++ (List.range 12).flatMap (fun c => deg (z.stack.getD c 0)) ++ deg z.hub
  ++ (List.range 32).flatMap (fun c => natLe 2 (z.coreV.getD c 0)) ++ (List.range 32).flatMap (fun c => natLe 2 (z.process.getD c 0))
  ++ flags ((List.range 32).filter fun c => z.railBad.getD c false) 4 ++ natLe 4 z.power ++ natLe 2 z.flow
  ++ flags (s.fw.hot.map (·.1)) 4 ++ flags ((s.fw.hot.filter (·.2)).map (·.1)) 4 ++ flags s.fw.dieHot 1 ++ natLe 2 s.mem.trip.toNat
  ++ [BitVec.ofNat 8 (bitAt s.fw.powerHold 0 + bitAt s.fw.powerOver.isSome 1 + bitAt s.fw.flowLost 2)]
  ++ [BitVec.ofNat 8 z.hubV.length] ++ z.hubV.flatMap (natLe 2) ++ [BitVec.ofNat 8 z.lpddr.length] ++ z.lpddr.flatMap deg)
/-- A byte of a function's register window, as a host read finds it; 0 at an unassigned offset (R435). -/
def State.windowByte (s : State) (f a : Nat) : Byte :=
  let z := s.func f
  let reg (base v : Nat) : Byte := BitVec.ofNat 8 (v / 2 ^ (8 * (a - base)))
  let pend (k : Nat) : Nat := ((List.range 8).map fun j => if z.pba.contains (8 * k + j) then 2 ^ j else 0).sum
  if a < 0x40 then z.cqdesc.getD a 0
  else if a < 0x48 then reg 0x40 (if z.cqen then 1 else 0)
  else if a < 0x50 then reg 0x48 (s.fstat f)
  else if 0x1000 ≤ a ∧ a < 0x2000 then reg (a / 4 * 4) (agetD z.bells ((a - 0x1000) / 4) 0).toNat
  else if 0x2000 ≤ a ∧ a < 0x2000 + vectorsOf f / 8 then BitVec.ofNat 8 (pend (a - 0x2000))
  else if 0x8000 ≤ a ∧ a < 0x8000 + 16 * vectorsOf f then z.msixByte (a - 0x8000)
  else if f ≠ 0 then 0
  else if 0x80 ≤ a ∧ a < 0x88 then reg 0x80 (if Config.testEnabled then 1 else 0)
  else if 0x88 ≤ a ∧ a < 0x90 then reg 0x88 s.bnd.pcapDue
  else if 0x90 ≤ a ∧ a < 0x98 then reg 0x90 (s.bnd.hbmReq.toNat + s.mem.low.toNat * 2 ^ 16)
  else if 0xA0 ≤ a ∧ a < 0xA8 then reg 0xA0 s.bnd.modid.toNat
  else if 0x100 ≤ a ∧ a < 0x300 then s.bnd.rgacc.getD (a - 0x100) 0
  else if 0x400 ≤ a ∧ a < 0x500 then s.retlist.getD (a - 0x400) 0
  else if 0x500 ≤ a ∧ a < 0x600 then s.monsum.getD (a - 0x500) 0
  else if 0x10000 ≤ a ∧ a < 0x17000 then reg (a / 8 * 8) (agetD s.mem.einj ((a - 0x10000) / 8) 0).toNat
  else 0
/-- What a host read of a function's window gives: nothing from a window that does not answer, as after a refused image (R435, R439). -/
def State.windowRead (s : State) (f off n : Nat) : List Byte :=
  if !(s.func f).enabled || s.bnd.refused.isSome then []
  else (List.range n).map fun i => if off + i < (if f = 0 then 0x20000 else 0x10000) then s.windowByte f (off + i) else 0
/-- The measurement blocks in order (R443); after a refused image each register reads as R439 says. DESIGN CHOICE, log entry 40.
DEDUCED, log entry 49. -/
def State.measurements (s : State) (rep : List Byte) : List (List Byte) :=
  let reg (v : BitVec 256) : List Byte := natLe 32 ((s.bnd.refused.getD v).toNat)
  let sess := (s.bnd.rigal.filter (·.isOpen)).flatMap fun z => natLe 2 z.peer ++ natLe 2 z.ports.toNat ++ natLe 32 z.m.toNat
  s.bnd.mr.toList.map reg ++ [reg s.bnd.m,
    [if Config.testEnabled then 1 else 0] ++ natLe 8 s.bnd.minSvn ++ natLe 32 Config.rootDigest.toNat,
    natLe 2 s.bnd.actth ++ (List.range 33).flatMap (fun k => natLe 8 (Config.energyWeight s.bnd.conf k)), Config.ktPublic s.mrBytes, s.retlist, s.monsum, rep, natLe 2 s.bnd.modid.toNat ++ sess]
/-- The measurement blocks that a request asks for, each with its index and length: their number for index 0, all of them for 0xFF. PRESUMED,
log entry 41. -/
def measured (blocks : List (List Byte)) (ix : Nat) : List Byte :=
  let one (p : List Byte × Nat) : List Byte := [BitVec.ofNat 8 (p.2 + 1)] ++ natLe 2 p.1.length ++ p.1
  let l := if ix = 0 then [] else if ix = 0xFF then blocks.zipIdx else blocks.zipIdx.filter fun p => p.2 + 1 = ix
  [BitVec.ofNat 8 (if ix = 0 then blocks.length else l.length)] ++ l.flatMap one
/-- GET_MEASUREMENTS: a new meter report of the mailbox's function is sampled, the blocks asked for are returned, signed where the request asks
for that (R443). PRESUMED, log entry 41. -/
def execGetMeasurements (m : SpdmMsg) (s : State) : Out :=
  negotiatedGo m s fun s =>
    let ix := fieldLe m.body 1 1
    let r := s.newReport (m.func.getD 0) (List.replicate 16 0)
    if 12 < ix ∧ ix ≠ 0xFF then s.spdmError m 0x01
    else
      let b := measured (r.1.measurements r.2) ix
      r.1.answer m 0x60 (if (fieldLe m.body 0 1) % 2 = 1 then r.1.signed m b else b)
/-- KEY_EXCHANGE: a session begins. -/
def execKeyExchange (m : SpdmMsg) (s : State) : Out :=
  negotiatedGo m s fun s =>
    let z : Spdm := { id := s.seq, func := m.func, fin := false }
    ({ s with seq := s.seq + 1, bnd := { s.bnd with spdm := s.bnd.spdm ++ [z] } }).answer m 0x64 (Config.message 0x64 m.body)
/-- The session a message names, through the mailbox that opened it. -/
def State.session (s : State) (m : SpdmMsg) : Option Spdm := s.bnd.spdm.find? fun z => m.session == some z.id && z.func == m.func
/-- A request inside a session. -/
def sessionGo (m : SpdmMsg) (fin : Bool) (s : State) (k : Spdm → State) : Out :=
  match s.session m with
  | some z => if z.fin == fin then .next (k z) else .next (s.spdmError m 0x04)
  | none => .next (s.spdmError m 0x04)
/-- FINISH: the session is secured. -/
def execFinish (m : SpdmMsg) (s : State) : Out :=
  sessionGo m false s fun z =>
    ({ s with bnd := { s.bnd with spdm := s.bnd.spdm.map fun y => if y.id == z.id then { y with fin := true } else y } } : State).answer m 0x65
      (Config.message 0x65 m.body)
/-- KEY_UPDATE. -/
def execKeyUpdate (m : SpdmMsg) (s : State) : Out := sessionGo m true s fun _ => s.answer m 0x69 (Config.message 0x69 m.body)
/-- HEARTBEAT. -/
def execHeartbeat (m : SpdmMsg) (s : State) : Out := sessionGo m true s fun _ => s.answer m 0x68 []
/-- END_SESSION. -/
def execEndSession (m : SpdmMsg) (s : State) : Out :=
  sessionGo m true s fun z => ({ s with bnd := { s.bnd with spdm := s.bnd.spdm.filter fun y => y.id != z.id } } : State).answer m 0x6C []
/-- Any other SPDM request: ERROR UnsupportedRequest. -/
def execSpdmUnsupportedRequest (m : SpdmMsg) (s : State) : Out := .next (s.spdmError m 0x07)

/-! ### Rigal sessions (R446, R447) -/

/-- The boundary changed. -/
def State.modBnd (s : State) (f : Boundary → Boundary) : State := { s with bnd := f s.bnd }
/-- The session or attempt that has a port. DEDUCED, log entry 50. -/
def State.rigalOn (s : State) (n : Nat) : Option Rigal := s.bnd.rigal.find? fun z => z.ports.getLsbD n
/-- A session or attempt changed. -/
def State.modRigal (s : State) (peer : Nat) (f : Rigal → Rigal) : State :=
  s.modBnd fun b => { b with rigal := b.rigal.map fun z => if z.peer == peer then f z else z }
/-- A session or attempt is over: its ports are out of session. -/
def State.dropRigal (s : State) (z : Rigal) : State :=
  (s.modBnd fun b => { b with rigal := b.rigal.filter fun y => y.peer != z.peer, portUp := b.portUp &&& ~~~z.ports }).farExtents
/-- Whether a peer's M is among the accepted digests; a digest of zeros is unused (R435, R446). -/
def State.accepts (s : State) (m : BitVec 256) : Bool :=
  m != 0 && (recordsOf 32 s.bnd.rgacc).any fun d => leNat d == m.toNat && d.length == 32
/-- What the module says at a step of the handshake, given its transcript: its identity, a key or ciphertext, its signature; 5 asks for a
rekey. -/
def State.rigalText (s : State) (step : Nat) (script : List Byte) : List Byte :=
  match step with
  | 1 => natLe 2 s.bnd.modid.toNat ++ natLe 32 s.bnd.m.toNat ++ s.certChain
  | 3 => Config.falconSign s.mrBytes (natLe 32 (Config.shake256 script).toNat)
  | k => Config.message (0x200 + k) script
/-- It said on a port. -/
def State.rigalSay (s : State) (n step : Nat) (script : List Byte) : State := s.send (.rigal n step (s.rigalText step script))
/-- The four session keys: one for each direction of traffic, one for each of rekeying (R446). -/
def sessionKeys (secret script : List Byte) : List (BitVec 256) :=
  let tag : List Byte := [0x4C, 0x42, 0x39, 0x52, 0x49, 0x47, 0x41, 0x4C]
  let k := Config.shake1024 (tag ++ secret ++ natLe 32 (Config.shake256 script).toNat)
  (List.range 4).map fun i => k.extractLsb' (256 * i) 256
/-- A port in a mask. -/
def portBit (n : Nat) : BitVec 16 := BitVec.ofNat 16 (2 ^ n)
/-- PORT_TRAINED: the port joins an open session with its peer, or an attempt to open one; else firmware, once released, begins an attempt.
Equal identifiers, or one of 0, end it. DEDUCED, log entry 50. -/
def execPortTrained (n peer : Nat) (s : State) : Out :=
  if !s.bnd.released || decide (15 < n ∨ peer = 0 ∨ peer = s.bnd.modid.toNat) || s.bnd.modid == 0 || (s.rigalOn n).isSome then .next s
  else
    match s.bnd.rigal.find? fun z => z.peer == peer with
    | some z =>
      let s := s.modRigal peer fun z => { z with ports := z.ports ||| portBit n }
      if z.isOpen then .next ((s.modBnd fun b => { b with portUp := b.portUp ||| portBit n }).farExtents) else .next s
    | none =>
      let z : Rigal :=
        { peer := peer, m := 0, ports := portBit n, step := 1, initiator := decide (s.bnd.modid.toNat < peer), isOpen := false, flits := 0,
          flitsIn := 0, rekeying := false, script := [], secret := [], keys := [], at_ := s.cycle }
      .next ((s.modBnd fun b => { b with rigal := b.rigal ++ [z] }).rigalSay n 1 [])
/-- A message of the handshake on a port, at the step it belongs to; one that fails its check ends the attempt. -/
def rigalGo (m : RigalMsg) (step : Nat) (initiator : Option Bool) (s : State) (k : Rigal → State) : Out :=
  match s.rigalOn m.port with
  | some z =>
    if z.isOpen || z.step != step || (match initiator with | some b => z.initiator != b | none => false) then .next s
    else if !m.ok || m.modid != z.peer then .next (s.dropRigal z)
    else .next (k z)
  | none => .next s
/-- RIGAL_IDENTITY (step 1): the initiator goes on with its encapsulation key. -/
def execRigalIdentity (m : RigalMsg) (s : State) : Out :=
  rigalGo m 1 none s fun z =>
    let mine := s.rigalText 1 []
    let both := if z.initiator then mine ++ m.body else m.body ++ mine
    let key := if z.initiator then s.rigalText 2 both else []
    let s := s.modRigal z.peer fun y => { y with m := m.m, step := 2, script := both ++ key }
    if z.initiator then s.rigalSay m.port 2 both else s
/-- RIGAL_ENCAPSULATION_KEY (step 2, at the responder): the ciphertext and the signature go back. -/
def execRigalEncapsulationKey (m : RigalMsg) (s : State) : Out :=
  rigalGo m 2 (some false) s fun z =>
    let key := z.script ++ m.body
    let ct := s.rigalText 2 key
    let s : State := { s.modRigal z.peer fun y => { y with step := 3, script := key ++ ct, secret := Config.rigalSecret s.seq ct } with seq := s.seq + 1 }
    (s.rigalSay m.port 2 key).rigalSay m.port 3 (key ++ ct)
/-- RIGAL_CIPHERTEXT (step 2, at the initiator): the signature goes out. -/
def execRigalCiphertext (m : RigalMsg) (s : State) : Out :=
  rigalGo m 2 (some true) s fun z =>
    let all := z.script ++ m.body
    let s : State := { s.modRigal z.peer fun y => { y with step := 3, script := all, secret := Config.rigalSecret s.seq m.body } with seq := s.seq + 1 }
    s.rigalSay m.port 3 all
/-- RIGAL_SIGNATURE (steps 3 and 4): with an accepted M of the peer the session is open under its four keys and its ports carry traffic. -/
def execRigalSignature (m : RigalMsg) (s : State) : Out :=
  rigalGo m 3 none s fun z =>
    if !s.accepts z.m then s.dropRigal z
    else
      ((s.modRigal z.peer fun y => { y with
        step := 4, isOpen := true, flits := 0, flitsIn := 0, keys := sessionKeys y.secret y.script, at_ := s.cycle }).modBnd fun b =>
        { b with portUp := b.portUp ||| z.ports }).farExtents
/-- Sessions that have carried 2^32 flits in a direction, or have stood for 24 hours, ask for a rekey; until it is done their ports carry no
further traffic (R446). DESIGN CHOICE, log entry 107. -/
def State.rekeys (s : State) : State :=
  let due (z : Rigal) : Bool := z.isOpen && !z.rekeying && decide (2 ^ 32 ≤ z.flits ∨ 2 ^ 32 ≤ z.flitsIn ∨ z.at_ + dayCycles ≤ s.cycle)
  (s.bnd.rigal.filter due).foldl (fun s z =>
    let s := s.modRigal z.peer fun y => { y with rekeying := true }
    match setBitsOf z.ports with
    | n :: _ => s.rigalSay n 5 z.script
    | [] => s) s
/-- RIGAL_REKEY: new keys; one that fails, or a peer whose M is no longer accepted, closes the session. -/
def execRigalRekey (m : RigalMsg) (s : State) : Out :=
  match s.rigalOn m.port with
  | some z =>
    if !z.isOpen then .next s
    else if !m.ok || !s.accepts z.m then .next (s.dropRigal z)
    else
      let sec := Config.rigalSecret s.seq m.body
      .next ({ s.modRigal z.peer fun y => { y with
        flits := 0, flitsIn := 0, rekeying := false, secret := sec, keys := sessionKeys sec (y.script ++ m.body), at_ := s.cycle } with
        seq := s.seq + 1 } : State).farExtents
  | none => .next s
/-- PORT_DOWN (R445): each unanswered request on the port is sent again on the port that the rule now gives; with no port left it waits for
one, and P is cleared. DEDUCED, log entry 50. -/
def execPortDown (n : Nat) (s : State) : Out :=
  let s := s.modBnd fun b => { b with
    portUp := b.portUp &&& ~~~(portBit n)
    rigal := (b.rigal.map fun z => { z with ports := z.ports &&& ~~~(portBit n) }).filter fun z => z.isOpen || z.ports != 0 }
  let off (m : FarMsg) : FarMsg := if m.port == some n then { m with port := none } else m
  .next ({ s with tabs := { s.tabs with leases := s.tabs.leases.map fun e =>
    (e.1, { e.2 with unanswered := e.2.unanswered.map off }) } } : State).farExtents

/-! ### Leases at the lessor, and notices (R255, R256, R296, R445) -/

/-- The lent byte whose channel serves a line or a block behind the lines: the reserved bytes of a channel are a fifteenth of its usable ones
(R288, R297). DESIGN CHOICE, log entry 102. -/
def Lease.servedAt (e : Lease) (line : Nat) : Nat := e.lbase + if 64 * line < e.len then 64 * line else 15 * (64 * line - e.len)
/-- LEASE_REQUEST: on a port of the entry that is in session (R444), presented to the channel of its line, of the range or of the tree nodes and
race records kept for it in its share of the reserved regions (R297), while the entry's ports accept it; a write not above the last one applied
for its line is dropped. -/
def execLeaseRequest (q : LeaseReq) (s : State) : Out :=
  match aget s.tabs.leases q.entry with
  | some e =>
    let stale := q.write && match aget e.applied q.line with | some n => decide (q.seqNo ≤ n) | none => false
    let t := s
    let s := (s.flit q.port true).flit q.port false
    if !(e.ports &&& s.bnd.portUp).getLsbD q.port then .next t
    else if !e.lessor || decide (e.len + e.len / 15 < 64 * q.line + 64) then .next (s.send (.leaseReply q.entry q.line false []))
    else if stale then .next (s.send (.leaseReply q.entry q.line true []))
    else .next (s.addReq 0x1FF [(e.servedAt q.line, 64, q.data)] 0 q.write s.cycle (.lease q.entry q.line q.seqNo))
  | none => if s.bnd.portUp.getLsbD q.port then .next (s.send (.leaseReply q.entry q.line false [])) else .next s
/-- PEER_NOTICE: an agreement is kept for the write that asks for it; a revocation or an early return moves the entry to REVOKING. -/
def execPeerNotice (q : PeerNote) (s : State) : Out :=
  match q.kind with
  | .agree => .next (s.modBnd fun b => { b with agreed := if b.agreed.contains q.entry then b.agreed else b.agreed ++ [q.entry] })
  | .revoke | .early =>
    match aget s.tabs.leases q.entry with
    | some e => if e.revoking then .next s else .next (s.beginRevoke q.entry)
    | none => .next s

end Sys2Proof.Machine
end

