-- ==== Sys2Proof/Machine/Vector.lean ====
section
/-! DEFINITION. The vector operations (R157-R177). -/

namespace Sys2Proof.Machine

/-! ### Elementwise arithmetic and logic (R157-R159) -/

/-- VADD (R157). -/
def execVadd (o : V3) (s : State) : Out := vecArith (.vadd o) s o false 1 4 (· + ·) fAdd
/-- VADDSAT (R84, R157). -/
def execVaddsat (o : V3) (s : State) : Out := vecArith (.vaddsat o) s o true 1 4 (· + ·) fAdd
/-- VSUB (R157). -/
def execVsub (o : V3) (s : State) : Out := vecArith (.vsub o) s o false 1 4 (· - ·) fSub
/-- VSUBSAT (R84, R157). -/
def execVsubsat (o : V3) (s : State) : Out := vecArith (.vsubsat o) s o true 1 4 (· - ·) fSub
/-- VMUL (R157). -/
def execVmul (o : V3) (s : State) : Out := vecArith (.vmul o) s o false 3 4 (· * ·) fMul
/-- VMULLO (R157). -/
def execVmullo (o : V3) (s : State) : Out := vecArith (.vmullo o) s o false 3 4 (· * ·) fMul
/-- The high half of a product (R157). -/
def vecMulHi (i : Instr) (s : State) (o : V3) (sg : Bool) : Out :=
  let e := fmtBits o.ty
  vecBits i s o.w o.ty 3 fun x y _ => wrapI e (intOf sg e x * intOf sg e y / 2 ^ e)
/-- VMULHI (R157). -/
def execVmulhi (o : V3) (s : State) : Out := vecMulHi (.vmulhi o) s o true
/-- VMULHIZ (R157). -/
def execVmulhiz (o : V3) (s : State) : Out := vecMulHi (.vmulhiz o) s o false
/-- A fused multiply-add (R157). -/
def vecFma (i : Instr) (s : State) (o : V4) (negP negZ : Bool) : Out :=
  let e := fmtBits o.ty
  vecEl i s o.w e e 4 o.rm true o.ty fun r x y z => fFma o.ty o.rm negP negZ r x y z
/-- VFMA (R157). -/
def execVfma (o : V4) (s : State) : Out := vecFma (.vfma o) s o false false
/-- VFMS (R157). -/
def execVfms (o : V4) (s : State) : Out := vecFma (.vfms o) s o false true
/-- VFNMA (R157). -/
def execVfnma (o : V4) (s : State) : Out := vecFma (.vfnma o) s o true false
/-- VDIV (R157). -/
def execVdiv (o : V3) (s : State) : Out := vecArith (.vdiv o) s o false 12 12 (fun x _ => x) fDiv
/-- VMIN (R157, R159). -/
def execVmin (o : V3) (s : State) : Out := vecArith (.vmin o) s o false 1 1 min fun f _ _ x y => fMinMax f false x y
/-- VMAX (R157, R159). -/
def execVmax (o : V3) (s : State) : Out := vecArith (.vmax o) s o false 1 1 max fun f _ _ x y => fMinMax f true x y
/-- VCOPYSIGN (R157): x with the sign bit of y. -/
def execVcopysign (o : V3) (s : State) : Out :=
  vecBits (.vcopysign o) s o.w o.ty 1 fun x y _ => signed o.ty (signOf o.ty y) (magOf o.ty x)
/-- VAVG (R157). -/
def execVavg (o : V3) (s : State) : Out :=
  let e := fmtBits o.ty
  let sg := isSigned o.ty
  vecBits (.vavg o) s o.w o.ty 1 fun x y _ => wrapI e ((intOf sg e x + intOf sg e y + 1) / 2)
/-- VAND (R157, R158). -/
def execVand (o : V3) (s : State) : Out := vecBits (.vand o) s o.w o.ty 1 fun x y _ => x &&& y
/-- VOR (R157, R158). -/
def execVor (o : V3) (s : State) : Out := vecBits (.vor o) s o.w o.ty 1 fun x y _ => x ||| y
/-- VXOR (R157, R158). -/
def execVxor (o : V3) (s : State) : Out := vecBits (.vxor o) s o.w o.ty 1 fun x y _ => x ^^^ y
/-- VSHL (R157): zero for a count of e or more. -/
def execVshl (o : V3) (s : State) : Out :=
  let e := fmtBits o.ty
  vecBits (.vshl o) s o.w o.ty 1 fun x c _ => if e ≤ c then 0 else x * 2 ^ c
/-- VSHR (R157). -/
def execVshr (o : V3) (s : State) : Out :=
  let e := fmtBits o.ty
  vecBits (.vshr o) s o.w o.ty 1 fun x c _ => if e ≤ c then 0 else x / 2 ^ c
/-- VSAR (R157): all sign bits for a count of e or more. -/
def execVsar (o : V3) (s : State) : Out :=
  let e := fmtBits o.ty
  vecBits (.vsar o) s o.w o.ty 1 fun x c _ => wrapI e (intOf true e x / 2 ^ min c e)

/-! ### The unary group (R160-R162) -/

/-- VMOV (R160): bits [w-1:0], stain and poison. -/
def execVmov (o : V2) (s : State) : Out :=
  slotGo (.vmov o) s fun u s =>
    .next (s.vOut u 0 (wBits o.w) (fmtBits o.ty) 1 (s.srcV u 0).toNat (s.stainOr u) (s.poisonOr u))
/-- VABS (R160). -/
def execVabs (o : V2) (s : State) : Out :=
  let e := fmtBits o.ty
  vecBits (.vabs o) s o.w o.ty 1 fun x _ _ => if isFloat o.ty then magOf o.ty x else wrapI e (intOf true e x).natAbs
/-- VNEG (R160). -/
def execVneg (o : V2) (s : State) : Out :=
  let e := fmtBits o.ty
  vecBits (.vneg o) s o.w o.ty 1 fun x _ _ =>
    if isFloat o.ty then signed o.ty (!(signOf o.ty x)) (magOf o.ty x) else wrapI e (-(intOf true e x))
/-- VNOT (R160). -/
def execVnot (o : V2) (s : State) : Out := vecBits (.vnot o) s o.w o.ty 1 fun x _ _ => 2 ^ fmtBits o.ty - 1 - x
/-- VPOPC (R160). -/
def execVpopc (o : V2) (s : State) : Out := vecBits (.vpopc o) s o.w o.ty 1 fun x _ _ => popFrom x (fmtBits o.ty)
/-- VCLZ (R160): e for zero. -/
def execVclz (o : V2) (s : State) : Out :=
  let e := fmtBits o.ty
  vecBits (.vclz o) s o.w o.ty 1 fun x _ _ => if x = 0 then e else e - 1 - Nat.log2 x
/-- VSQRT (R160). -/
def execVsqrt (o : V2) (s : State) : Out :=
  let e := fmtBits o.ty
  vecEl (.vsqrt o) s o.w e e 12 o.rm true o.ty fun r x _ _ => fSqrt o.ty o.rm r x
/-- A copy of all 1024 bits with the stain set (R161). -/
def vecStain (i : Instr) (s : State) (b : Bool) : Out :=
  slotGo i s fun u s => .next (s.vOut u 0 1024 8 1 (s.srcV u 0).toNat b (s.poisonOr u))
/-- VSTAIN (R161). -/
def execVstain (o : VDS) (s : State) : Out := vecStain (.vstain o) s true
/-- VCLEAN (R161). -/
def execVclean (o : VDS) (s : State) : Out := vecStain (.vclean o) s false
/-- A predicate result of a vector slot. -/
def State.pOut (s : State) (u : Use) (L : Nat) (b : Bool) : State :=
  match u.writes[0]? with
  | some d => s.issueRes u.sl u.pos L (Pend.of d (if b then 1 else 0))
  | none => s
/-- VSTST (R161). -/
def execVstst (o : VDS) (s : State) : Out := slotGo (.vstst o) s fun u s => .next (s.pOut u 1 (s.srcStain u 0))
/-- VSEEDR (R162); an early read takes it by 32-bit elements. DESIGN CHOICE, log entry 90. -/
def execVseedr (o : VD) (s : State) : Out :=
  slotGo (.vseedr o) s fun u s => .next (s.vOut u 0 1024 32 2 (s.srcV u 0).toNat false false)
/-- VSEEDW (R162): poison raises POISON_USE; the stain is ignored. -/
def execVseedw (o : VS) (s : State) : Out :=
  slotGo (.vseedw o) s fun u s => noPoison u s u.reads fun s =>
    match u.writes[0]? with
    | some d => .next (s.issueRes u.sl u.pos 2 { Pend.of d (s.srcV u 0) with ew := 32 })
    | none => .next s

/-! ### Special functions (R164, R165) -/

/-- A special function. -/
def vecFun (i : Instr) (s : State) (o : V2) (g : Fun1) : Out :=
  let e := fmtBits o.ty
  vecEl i s o.w e e 12 .rne true o.ty fun _ x _ _ => fun1 g o.ty x
/-- VEXP2 (R164). -/
def execVexp2 (o : V2) (s : State) : Out := vecFun (.vexp2 o) s o .exp2
/-- VLOG2 (R164). -/
def execVlog2 (o : V2) (s : State) : Out := vecFun (.vlog2 o) s o .log2
/-- VRCP (R164). -/
def execVrcp (o : V2) (s : State) : Out := vecFun (.vrcp o) s o .rcp
/-- VRSQ (R164). -/
def execVrsq (o : V2) (s : State) : Out := vecFun (.vrsq o) s o .rsq
/-- VSIN (R164). -/
def execVsin (o : V2) (s : State) : Out := vecFun (.vsin o) s o .sin
/-- VCOS (R164). -/
def execVcos (o : V2) (s : State) : Out := vecFun (.vcos o) s o .cos
/-- VTANH (R164). -/
def execVtanh (o : V2) (s : State) : Out := vecFun (.vtanh o) s o .tanh

/-! ### Compares and selects (R166-R168) -/

/-- A vector condition on two elements (R166). -/
def vccEval (c : VCc) (f : Fmt) (x y : Nat) : Bool :=
  let e := fmtBits f
  let un := isFloat f && (isNanF f x || isNanF f y)
  let a := if isFloat f then keyCmp f x else intOf (isSigned f) e x
  let b := if isFloat f then keyCmp f y else intOf (isSigned f) e y
  match c with
  | .eq => !un && a == b
  | .ne => un || a != b
  | .lt => !un && decide (a < b)
  | .le => !un && decide (a ≤ b)
  | .gt => !un && decide (b < a)
  | .ge => !un && decide (b ≤ a)
  | .uno => un
  | .ord => !un
/-- VCMP (R166): true when the condition holds for some element. -/
def execVcmp (o : VCmpO) (s : State) : Out :=
  slotGo (.vcmp o) s fun u s => noPoison u s u.reads fun s =>
    let e := fmtBits o.ty
    let x := (s.srcV u 0).toNat
    let y := (s.srcV u 1).toNat
    .next (s.pOut u 1 ((List.range (elemCount o.w e)).any fun i => vccEval o.cc o.ty (elemAt x e i) (elemAt y e i)))
/-- VCMPM (R167). -/
def execVcmpm (o : VCmpO) (s : State) : Out :=
  vecBits (.vcmpm o) s o.w o.ty 1 fun x y _ => if vccEval o.cc o.ty x y then 2 ^ fmtBits o.ty - 1 else 0
/-- VSEL (R168). -/
def execVsel (o : V4) (s : State) : Out :=
  vecBits (.vsel o) s o.w o.ty 1 fun x y z => if z.testBit (fmtBits o.ty - 1) then x else y

/-! ### Conversions (R169-R173) -/

/-- VCVT (R169); an integer result is no quarantine hit (R84). DEDUCED, log entry 79. -/
def execVcvt (o : VCvtO) (s : State) : Out :=
  vecEl (.vcvt o) s o.w (fmtBits o.ty) (fmtBits o.fmt) 4 o.rm (isFloat o.fmt) o.fmt fun r x _ _ => convert o.ty o.fmt o.rm o.sat r x
/-- VCVTEF (R103, R170): the result and the residual. -/
def execVcvtef (o : VCv4) (s : State) : Out :=
  slotGo (.vcvtef o) s fun u s =>
    let es := fmtBits o.ty
    let ed := fmtBits o.fmt
    let x := (s.srcV u 0).toNat
    let xs := (List.range (elemCount o.w (max es ed))).map fun i => elemAt x es i
    let ys := xs.map fun a => convert o.ty o.fmt o.rm false 0 a
    let zs := (xs.zip ys).map fun p => residual o.ty o.fmt p.1 p.2
    fpGo u s ys true ((ys.any fun y => isSpecial o.fmt y.v) || zs.any (isSpecial o.ty)) fun hit =>
      let st := s.stainOr u || hit
      let s' := s.vOut u 0 (wBits o.w) ed 4 (pack ed (ys.map (·.v))) st (s.poisonOr u)
      .next (s'.vOut u 1 (wBits o.w) es 4 (pack es zs) st (s.poisonOr u))
/-- VQNT (R171): fields and scales. -/
def execVqnt (o : VCv4) (s : State) : Out :=
  slotGo (.vqnt o) s fun u s =>
    let es := fmtBits o.ty
    let ed := fmtBits o.fmt
    let n := wBits o.w / es
    let seed := s.seedRead u
    let x := (s.srcV u 0).toNat
    let blk (j : Nat) : Nat × List FRes :=
      let ix := (List.range 32).map fun i => 32 * j + i
      quantBlock o.fmt o.rm (ix.map (randOf seed)) (ix.map fun i => decodeF o.ty (elemAt x es i))
    let bs := (List.range (n / 32)).map blk
    let rs := bs.flatMap (·.2)
    fpGo u s rs true (bs.any fun b => b.1 == 255) fun hit =>
      let st := s.stainOr u || hit
      let s' := s.vOut u 0 (wBits o.w) ed 6 (pack ed (rs.map (·.v))) st (s.poisonOr u)
      let s' := s'.vOut u 1 (wBits o.w) 8 6 (pack 8 (bs.map (·.1))) st (s.poisonOr u)
      .next (s'.stepSeed u o.rm seed)
/-- VDQNT (R172). -/
def execVdqnt (o : VCv4) (s : State) : Out :=
  slotGo (.vdqnt o) s fun u s =>
    let es := fmtBits o.fmt
    let ed := fmtBits o.ty
    let x := (s.srcV u 0).toNat
    let t := (s.srcV u 1).toNat
    let rs := (List.range (wBits o.w / ed)).map fun i =>
      finish o.ty o.rm false 0 (blockValue o.fmt (elemAt x es i) (elemAt t 8 (i / 32))) false
    fpGo u s rs true (rs.any fun r => isSpecial o.ty r.v) fun hit =>
      .next (s.vOut u 0 (wBits o.w) ed 6 (pack ed (rs.map (·.v))) (s.stainOr u || hit) (s.poisonOr u))
/-- VPACKSP (R173): kept elements and masks; an early read takes the masks byte by byte. DESIGN CHOICE, log entry 90. -/
def execVpacksp (o : VPackO) (s : State) : Out :=
  slotGo (.vpacksp o) s fun u s =>
    let e := fmtBits o.ty
    let x := (s.srcV u 0).toNat
    let grp (g : Nat) : List (Nat × Bool) :=
      let xs := (List.range 48).map fun j => elemAt x e (48 * g + j)
      xs.zip (keptOf (nOf o.n) (xs.map (packRank o.ty)))
    let gs := (List.range (wBits o.w / (48 * e))).map grp
    let vals := gs.flatMap fun g => (g.filter (·.2)).map (·.1)
    let mask := gs.flatMap fun g => g.map fun p => if p.2 then 1 else 0
    let s' := s.vOut u 0 (wBits o.w) e 6 (pack e vals) (s.stainOr u) (s.poisonOr u)
    .next (s'.vOut u 1 (wBits o.w) 8 6 (pack 1 mask) (s.stainOr u) (s.poisonOr u))

/-! ### Reductions and scans (R174, R175) -/

/-- VRED (R110, R174). -/
def execVred (o : VRedO) (s : State) : Out :=
  slotGo (.vred o) s fun u s =>
    let e := fmtBits o.ty
    let n := elemCount o.w e
    let x := (s.srcV u 0).toNat
    let xs := (List.range n).map fun i => elemAt x e i
    let steps := redTree o.op o.ty o.rm (Nat.log2 n) xs
    let z := ((steps.getLastD []).headD (FRes.of 0)).v
    fpGo u s (joinSteps steps (n / 2)) (isFloat o.ty) (isSpecial o.ty z) fun hit =>
      .next (s.vOut u 0 (wBits o.w) e 6 z (s.stainOr u || hit) (s.poisonOr u))
/-- VSCAN (R112, R174). -/
def execVscan (o : VRedO) (s : State) : Out :=
  slotGo (.vscan o) s fun u s =>
    let e := fmtBits o.ty
    let n := elemCount o.w e
    let x := (s.srcV u 0).toNat
    let rs := scanSteps o.op o.ty o.rm (Nat.log2 n) 1 ((List.range n).map fun i => FRes.of (elemAt x e i))
    fpGo u s rs (isFloat o.ty) (rs.any fun r => isSpecial o.ty r.v) fun hit =>
      .next (s.vOut u 0 (wBits o.w) e 6 (pack e (rs.map (·.v))) (s.stainOr u || hit) (s.poisonOr u))
/-- VREDR (R111, R175): the fold of the clean registers and the exclusion report, which an early read takes byte by byte. DESIGN CHOICE,
log entry 90. -/
def execVredr (o : VRedO) (s : State) : Out :=
  slotGo (.vredr o) s fun u s =>
    let e := fmtBits o.ty
    let n := elemCount o.w e
    let ks := List.range u.reads.length
    let L := 4 + 2 * u.reads.length
    let clean := ks.filter fun k => !s.srcStain u k
    let mask := (ks.map fun k => if s.srcStain u k then 2 ^ k else 0).sum
    let rep := (u.reads.length - clean.length) + mask * 2 ^ 64
    let rows := clean.map fun k => let v := (s.srcV u k).toNat; (List.range n).map fun i => FRes.of (elemAt v e i)
    let report (s : State) : State := s.vOut u 1 1024 8 L rep false false
    match rows with
    | [] => .next (report (s.vOut u 0 (wBits o.w) e L 0 true false))
    | r0 :: rest =>
      let rs := rest.foldl (fun a b => (a.zip b).map fun p => redStep o.op o.ty .rne p.1 p.2) r0
      fpGo u s rs (isFloat o.ty) (rs.any fun r => isSpecial o.ty r.v) fun hit =>
        .next (report (s.vOut u 0 (wBits o.w) e L (pack e (rs.map (·.v))) hit (clean.any (s.srcPoison u))))

/-! ### Permutations and constants (R176, R177) -/

/-- VPERM (R176). -/
def execVperm (o : VPermO) (s : State) : Out :=
  vecAll (.vperm o) s o.w o.ty 2 fun x t _ n => (List.range n).map fun i => x (t i % n)
/-- VSHUF (R176): the old D selects. -/
def execVshuf (o : VPermO) (s : State) : Out :=
  vecAll (.vshuf o) s o.w o.ty 2 fun x t d n => (List.range n).map fun i =>
    let j := d i % (2 * n)
    if j < n then x j else t (j - n)
/-- VBCAST (R176). -/
def execVbcast (o : VPermO) (s : State) : Out :=
  vecAll (.vbcast o) s o.w o.ty 2 fun x t _ n => (List.range n).map fun _ => x (t 0 % n)
/-- VEXT (R176). -/
def execVext (o : VPermO) (s : State) : Out := vecAll (.vext o) s o.w o.ty 2 fun x t _ n => [x (t 0 % n)]
/-- VINS (R176): the other elements keep the old D. -/
def execVins (o : VPermO) (s : State) : Out :=
  vecAll (.vins o) s o.w o.ty 2 fun x t d n => (List.range n).map fun i => if i = t 0 % n then x 0 else d i
/-- VROT (R176). -/
def execVrot (o : VPermO) (s : State) : Out :=
  vecAll (.vrot o) s o.w o.ty 2 fun x t _ n => (List.range n).map fun i => x ((i + t 0 % n) % n)
/-- VCOMPRESS (R176). -/
def execVcompress (o : VPermO) (s : State) : Out :=
  vecAll (.vcompress o) s o.w o.ty 2 fun x t _ n =>
    ((List.range n).filter fun i => (t i).testBit (fmtBits o.ty - 1)).map x
/-- The unused elements of S1 handed out, lowest first, to the positions of a mask. -/
def expandTo (x : Nat → Nat) : Nat → List Bool → List Nat
  | _, [] => []
  | k, true :: t => x k :: expandTo x (k + 1) t
  | k, false :: t => 0 :: expandTo x k t
/-- VEXPAND (R176). -/
def execVexpand (o : VPermO) (s : State) : Out :=
  vecAll (.vexpand o) s o.w o.ty 2 fun x t _ n =>
    expandTo x 0 ((List.range n).map fun i => (t i).testBit (fmtBits o.ty - 1))
/-- VZIP (R176). -/
def execVzip (o : VPermO) (s : State) : Out :=
  vecAll (.vzip o) s o.w o.ty 2 fun x t _ n => (List.range n).map fun i => if i % 2 = 0 then x (i / 2) else t (i / 2)
/-- VUNZIP (R176). -/
def execVunzip (o : VPermO) (s : State) : Out :=
  vecAll (.vunzip o) s o.w o.ty 2 fun x t _ n => (List.range n).map fun i =>
    if i < n / 2 then x (2 * i) else t (2 * (i - n / 2))
/-- The fill value of VLI (R77): the immediate's ten bits at the top, in f64 too. DESIGN CHOICE, log entry 91. -/
def vliFill (f : Fmt) (c : BitVec 10) : Nat :=
  if isFloat f then c.toNat * 2 ^ (fmtBits f - 10)
  else wrapI (fmtBits f) (if isSigned f then c.toInt else c.toNat)
/-- VLI (R177). -/
def execVli (o : VLiO) (s : State) : Out :=
  slotGo (.vli o) s fun u s =>
    let e := fmtBits o.ty
    .next (s.vOut u 0 (wBits o.w) e 1 (pack e (List.replicate (elemCount o.w e) (vliFill o.ty o.c))) false false)

end Sys2Proof.Machine
end

