-- ==== Sys2Proof/Machine/Dispatch.lean ====
section
/-! DEFINITION. Which meaning each instruction, event and command has. -/

namespace Sys2Proof.Machine

/-- What an instruction does to the machine. -/
def exec (i : Instr) (s : State) : Host.Outcome State Fault Refusal :=
  match i with
  | .nop o => Sys2Proof.Machine.execNop o s
  | .header o => Sys2Proof.Machine.execHeader o s
  | .leg o => Sys2Proof.Machine.execLeg o s
  | .exchange o => Sys2Proof.Machine.execExchange o s
  | .patch o => Sys2Proof.Machine.execPatch o s
  | .exposed o => Sys2Proof.Machine.execExposed o s
  | .interlocked o => Sys2Proof.Machine.execInterlocked o s
  | .hint o => Sys2Proof.Machine.execHint o s
  | .add o => Sys2Proof.Machine.execAdd o s
  | .sub o => Sys2Proof.Machine.execSub o s
  | .and o => Sys2Proof.Machine.execAnd o s
  | .or o => Sys2Proof.Machine.execOr o s
  | .xor o => Sys2Proof.Machine.execXor o s
  | .shl o => Sys2Proof.Machine.execShl o s
  | .shr o => Sys2Proof.Machine.execShr o s
  | .sar o => Sys2Proof.Machine.execSar o s
  | .rol o => Sys2Proof.Machine.execRol o s
  | .min o => Sys2Proof.Machine.execMin o s
  | .max o => Sys2Proof.Machine.execMax o s
  | .minz o => Sys2Proof.Machine.execMinz o s
  | .maxz o => Sys2Proof.Machine.execMaxz o s
  | .mul o => Sys2Proof.Machine.execMul o s
  | .mulh o => Sys2Proof.Machine.execMulh o s
  | .mulhz o => Sys2Proof.Machine.execMulhz o s
  | .div o => Sys2Proof.Machine.execDiv o s
  | .divz o => Sys2Proof.Machine.execDivz o s
  | .rem o => Sys2Proof.Machine.execRem o s
  | .remz o => Sys2Proof.Machine.execRemz o s
  | .mov o => Sys2Proof.Machine.execMov o s
  | .not o => Sys2Proof.Machine.execNot o s
  | .clz o => Sys2Proof.Machine.execClz o s
  | .ctz o => Sys2Proof.Machine.execCtz o s
  | .popc o => Sys2Proof.Machine.execPopc o s
  | .bswap o => Sys2Proof.Machine.execBswap o s
  | .movFromLdq0 o => Sys2Proof.Machine.execMovFromLdq0 o s
  | .movFromLdq1 o => Sys2Proof.Machine.execMovFromLdq1 o s
  | .addi o => Sys2Proof.Machine.execAddi o s
  | .andi o => Sys2Proof.Machine.execAndi o s
  | .ori o => Sys2Proof.Machine.execOri o s
  | .xori o => Sys2Proof.Machine.execXori o s
  | .shli o => Sys2Proof.Machine.execShli o s
  | .shri o => Sys2Proof.Machine.execShri o s
  | .sari o => Sys2Proof.Machine.execSari o s
  | .extr o => Sys2Proof.Machine.execExtr o s
  | .ins o => Sys2Proof.Machine.execIns o s
  | .li o => Sys2Proof.Machine.execLi o s
  | .lih o => Sys2Proof.Machine.execLih o s
  | .sel o => Sys2Proof.Machine.execSel o s
  | .cmp o => Sys2Proof.Machine.execCmp o s
  | .cmpi o => Sys2Proof.Machine.execCmpi o s
  | .pand o => Sys2Proof.Machine.execPand o s
  | .por o => Sys2Proof.Machine.execPor o s
  | .pxor o => Sys2Proof.Machine.execPxor o s
  | .pnot o => Sys2Proof.Machine.execPnot o s
  | .pmov o => Sys2Proof.Machine.execPmov o s
  | .br o => Sys2Proof.Machine.execBr o s
  | .call o => Sys2Proof.Machine.execCall o s
  | .loopb o => Sys2Proof.Machine.execLoopb o s
  | .brc o => Sys2Proof.Machine.execBrc o s
  | .brr o => Sys2Proof.Machine.execBrr o s
  | .callr o => Sys2Proof.Machine.execCallr o s
  | .ret o => Sys2Proof.Machine.execRet o s
  | .chk o => Sys2Proof.Machine.execChk o s
  | .loopset o => Sys2Proof.Machine.execLoopset o s
  | .wait o => Sys2Proof.Machine.execWait o s
  | .xtovVa o => Sys2Proof.Machine.execXtovVa o s
  | .xtovVb o => Sys2Proof.Machine.execXtovVb o s
  | .vtoxVa o => Sys2Proof.Machine.execVtoxVa o s
  | .vtoxVb o => Sys2Proof.Machine.execVtoxVb o s
  | .vatovb o => Sys2Proof.Machine.execVatovb o s
  | .vbtova o => Sys2Proof.Machine.execVbtova o s
  | .xtoa o => Sys2Proof.Machine.execXtoa o s
  | .atox o => Sys2Proof.Machine.execAtox o s
  | .csrr o => Sys2Proof.Machine.execCsrr o s
  | .csrw o => Sys2Proof.Machine.execCsrw o s
  | .acsrr o => Sys2Proof.Machine.execAcsrr o s
  | .acsrw o => Sys2Proof.Machine.execAcsrw o s
  | .trap o => Sys2Proof.Machine.execTrap o s
  | .rft o => Sys2Proof.Machine.execRft o s
  | .done o => Sys2Proof.Machine.execDone o s
  | .halt o => Sys2Proof.Machine.execHalt o s
  | .rwnd o => Sys2Proof.Machine.execRwnd o s
  | .preemptAck o => Sys2Proof.Machine.execPreemptAck o s
  | .pushc o => Sys2Proof.Machine.execPushc o s
  | .popa o => Sys2Proof.Machine.execPopa o s
  | .brq o => Sys2Proof.Machine.execBrq o s
  | .qpush o => Sys2Proof.Machine.execQpush o s
  | .qdrain o => Sys2Proof.Machine.execQdrain o s
  | .qstat o => Sys2Proof.Machine.execQstat o s
  | .extrQ o => Sys2Proof.Machine.execExtrQ o s
  | .shpr o => Sys2Proof.Machine.execShpr o s
  | .tstate o => Sys2Proof.Machine.execTstate o s
  | .keyq o => Sys2Proof.Machine.execKeyq o s
  | .vadd o => Sys2Proof.Machine.execVadd o s
  | .vaddsat o => Sys2Proof.Machine.execVaddsat o s
  | .vsub o => Sys2Proof.Machine.execVsub o s
  | .vsubsat o => Sys2Proof.Machine.execVsubsat o s
  | .vmul o => Sys2Proof.Machine.execVmul o s
  | .vmullo o => Sys2Proof.Machine.execVmullo o s
  | .vmulhi o => Sys2Proof.Machine.execVmulhi o s
  | .vmulhiz o => Sys2Proof.Machine.execVmulhiz o s
  | .vfma o => Sys2Proof.Machine.execVfma o s
  | .vfms o => Sys2Proof.Machine.execVfms o s
  | .vfnma o => Sys2Proof.Machine.execVfnma o s
  | .vdiv o => Sys2Proof.Machine.execVdiv o s
  | .vmin o => Sys2Proof.Machine.execVmin o s
  | .vmax o => Sys2Proof.Machine.execVmax o s
  | .vcopysign o => Sys2Proof.Machine.execVcopysign o s
  | .vavg o => Sys2Proof.Machine.execVavg o s
  | .vand o => Sys2Proof.Machine.execVand o s
  | .vor o => Sys2Proof.Machine.execVor o s
  | .vxor o => Sys2Proof.Machine.execVxor o s
  | .vshl o => Sys2Proof.Machine.execVshl o s
  | .vshr o => Sys2Proof.Machine.execVshr o s
  | .vsar o => Sys2Proof.Machine.execVsar o s
  | .vmov o => Sys2Proof.Machine.execVmov o s
  | .vabs o => Sys2Proof.Machine.execVabs o s
  | .vneg o => Sys2Proof.Machine.execVneg o s
  | .vnot o => Sys2Proof.Machine.execVnot o s
  | .vpopc o => Sys2Proof.Machine.execVpopc o s
  | .vclz o => Sys2Proof.Machine.execVclz o s
  | .vsqrt o => Sys2Proof.Machine.execVsqrt o s
  | .vstain o => Sys2Proof.Machine.execVstain o s
  | .vclean o => Sys2Proof.Machine.execVclean o s
  | .vstst o => Sys2Proof.Machine.execVstst o s
  | .vseedr o => Sys2Proof.Machine.execVseedr o s
  | .vseedw o => Sys2Proof.Machine.execVseedw o s
  | .vpushSdq o => Sys2Proof.Machine.execVpushSdq o s
  | .vpushIxq o => Sys2Proof.Machine.execVpushIxq o s
  | .vmovFromLdq0 o => Sys2Proof.Machine.execVmovFromLdq0 o s
  | .vmovFromLdq1 o => Sys2Proof.Machine.execVmovFromLdq1 o s
  | .vexp2 o => Sys2Proof.Machine.execVexp2 o s
  | .vlog2 o => Sys2Proof.Machine.execVlog2 o s
  | .vrcp o => Sys2Proof.Machine.execVrcp o s
  | .vrsq o => Sys2Proof.Machine.execVrsq o s
  | .vsin o => Sys2Proof.Machine.execVsin o s
  | .vcos o => Sys2Proof.Machine.execVcos o s
  | .vtanh o => Sys2Proof.Machine.execVtanh o s
  | .vcmp o => Sys2Proof.Machine.execVcmp o s
  | .vcmpm o => Sys2Proof.Machine.execVcmpm o s
  | .vsel o => Sys2Proof.Machine.execVsel o s
  | .vcvt o => Sys2Proof.Machine.execVcvt o s
  | .vcvtef o => Sys2Proof.Machine.execVcvtef o s
  | .vqnt o => Sys2Proof.Machine.execVqnt o s
  | .vdqnt o => Sys2Proof.Machine.execVdqnt o s
  | .vpacksp o => Sys2Proof.Machine.execVpacksp o s
  | .vred o => Sys2Proof.Machine.execVred o s
  | .vscan o => Sys2Proof.Machine.execVscan o s
  | .vredr o => Sys2Proof.Machine.execVredr o s
  | .vperm o => Sys2Proof.Machine.execVperm o s
  | .vshuf o => Sys2Proof.Machine.execVshuf o s
  | .vbcast o => Sys2Proof.Machine.execVbcast o s
  | .vext o => Sys2Proof.Machine.execVext o s
  | .vins o => Sys2Proof.Machine.execVins o s
  | .vrot o => Sys2Proof.Machine.execVrot o s
  | .vcompress o => Sys2Proof.Machine.execVcompress o s
  | .vexpand o => Sys2Proof.Machine.execVexpand o s
  | .vzip o => Sys2Proof.Machine.execVzip o s
  | .vunzip o => Sys2Proof.Machine.execVunzip o s
  | .vli o => Sys2Proof.Machine.execVli o s
  | .mgclaim o => Sys2Proof.Machine.execMgclaim o s
  | .mgrel o => Sys2Proof.Machine.execMgrel o s
  | .mgfill o => Sys2Proof.Machine.execMgfill o s
  | .mgspfill o => Sys2Proof.Machine.execMgspfill o s
  | .mma o => Sys2Proof.Machine.execMma o s
  | .mmasp o => Sys2Proof.Machine.execMmasp o s
  | .mmac o => Sys2Proof.Machine.execMmac o s
  | .acz o => Sys2Proof.Machine.execAcz o s
  | .acload o => Sys2Proof.Machine.execAcload o s
  | .acdrain o => Sys2Proof.Machine.execAcdrain o s
  | .acscale o => Sys2Proof.Machine.execAcscale o s
  | .acstain o => Sys2Proof.Machine.execAcstain o s
  | .acclean o => Sys2Proof.Machine.execAcclean o s
  | .esync o => Sys2Proof.Machine.execEsync o s
  | .estatPress o => Sys2Proof.Machine.execEstatPress o s
  | .estatSprinter o => Sys2Proof.Machine.execEstatSprinter o s
  | .estatRelay o => Sys2Proof.Machine.execEstatRelay o s
  | .lda o => Sys2Proof.Machine.execLda o s
  | .ldaS o => Sys2Proof.Machine.execLdaS o s
  | .ldst o => Sys2Proof.Machine.execLdst o s
  | .ldx o => Sys2Proof.Machine.execLdx o s
  | .sta o => Sys2Proof.Machine.execSta o s
  | .stst o => Sys2Proof.Machine.execStst o s
  | .stx o => Sys2Proof.Machine.execStx o s
  | .tld o => Sys2Proof.Machine.execTld o s
  | .tst o => Sys2Proof.Machine.execTst o s
  | .tmov o => Sys2Proof.Machine.execTmov o s
  | .tcopy o => Sys2Proof.Machine.execTcopy o s
  | .tfill o => Sys2Proof.Machine.execTfill o s
  | .tzero o => Sys2Proof.Machine.execTzero o s
  | .twait o => Sys2Proof.Machine.execTwait o s
  | .calr o => Sys2Proof.Machine.execCalr o s
  | .caga o => Sys2Proof.Machine.execCaga o s
  | .crsc o => Sys2Proof.Machine.execCrsc o s
  | .ca2a o => Sys2Proof.Machine.execCa2a o s
  | .cbcs o => Sys2Proof.Machine.execCbcs o s
  | .amo o => Sys2Proof.Machine.execAmo o s
  | .amoVector o => Sys2Proof.Machine.execAmoVector o s
  | .lds o => Sys2Proof.Machine.execLds o s
  | .sts o => Sys2Proof.Machine.execSts o s
  | .fence o => Sys2Proof.Machine.execFence o s
  | .bars o => Sys2Proof.Machine.execBars o s
  | .barinit o => Sys2Proof.Machine.execBarinit o s
  | .bararr o => Sys2Proof.Machine.execBararr o s
  | .barinv o => Sys2Proof.Machine.execBarinv o s
  | .sig o => Sys2Proof.Machine.execSig o s
  | .tdef o => Sys2Proof.Machine.execTdef o s
  | .tfree o => Sys2Proof.Machine.execTfree o s
  | .seal o => Sys2Proof.Machine.execSeal o s
  | .unseal o => Sys2Proof.Machine.execUnseal o s
  | .scrub o => Sys2Proof.Machine.execScrub o s
  | .keyrot o => Sys2Proof.Machine.execKeyrot o s
  | .keyld o => Sys2Proof.Machine.execKeyld o s
  | .pwquota o => Sys2Proof.Machine.execPwquota o s
  | .pwpleat o => Sys2Proof.Machine.execPwpleat o s
  | .pwlap o => Sys2Proof.Machine.execPwlap o s
  | .pwlease o => Sys2Proof.Machine.execPwlease o s
  | .pwgran o => Sys2Proof.Machine.execPwgran o s
  | .pwweight o => Sys2Proof.Machine.execPwweight o s
  | .tableWriteComplete r => Sys2Proof.Machine.execTableWriteComplete r s
  | .resultLands r sl n => Sys2Proof.Machine.execResultLands r sl n s
  | .ifqReinjection r sl n => Sys2Proof.Machine.execIfqReinjection r sl n s
  | .waitElapsed r sl => Sys2Proof.Machine.execWaitElapsed r sl s
  | .queueEntryVisible r q => Sys2Proof.Machine.execQueueEntryVisible r q s
  | .qdrainTakesEffect r => Sys2Proof.Machine.execQdrainTakesEffect r s
  | .storeMatch r => Sys2Proof.Machine.execStoreMatch r s
  | .rewindReentry r => Sys2Proof.Machine.execRewindReentry r s
  | .notPresentHoldRelease r => Sys2Proof.Machine.execNotPresentHoldRelease r s
  | .extentAcknowledge r x => Sys2Proof.Machine.execExtentAcknowledge r x s
  | .exchangePass q => Sys2Proof.Machine.execExchangePass q s
  | .barsComplete q => Sys2Proof.Machine.execBarsComplete q s
  | .strongAccessPerform r n => Sys2Proof.Machine.execStrongAccessPerform r n s
  | .barrierArrival r => Sys2Proof.Machine.execBarrierArrival r s
  | .dataSlot ch => Sys2Proof.Machine.execDataSlot ch s
  | .dataArrival n => Sys2Proof.Machine.execDataArrival n s
  | .lapBoundary ch => Sys2Proof.Machine.execLapBoundary ch s
  | .mendingSlot ch => Sys2Proof.Machine.execMendingSlot ch s
  | .rowPrecharge ch bank row => Sys2Proof.Machine.execRowPrecharge ch bank row s
  | .sweepComplete o => Sys2Proof.Machine.execSweepComplete o s
  | .dataRateChange k => Sys2Proof.Machine.execDataRateChange k s
  | .retrainingDone k => Sys2Proof.Machine.execRetrainingDone k s
  | .pressCommandStart r q => Sys2Proof.Machine.execPressCommandStart r q s
  | .kBlockCommit r => Sys2Proof.Machine.execKBlockCommit r s
  | .pressCommandComplete r q => Sys2Proof.Machine.execPressCommandComplete r q s
  | .sprinterCommandStart r => Sys2Proof.Machine.execSprinterCommandStart r s
  | .sprinterChunkCommit r => Sys2Proof.Machine.execSprinterChunkCommit r s
  | .sprinterCommandComplete r => Sys2Proof.Machine.execSprinterCommandComplete r s
  | .collectiveStart q mask => Sys2Proof.Machine.execCollectiveStart q mask s
  | .collectiveStep q mask => Sys2Proof.Machine.execCollectiveStep q mask s
  | .patchCopyComplete r sl => Sys2Proof.Machine.execPatchCopyComplete r sl s
  | .runnerFinish r => Sys2Proof.Machine.execRunnerFinish r s
  | .eventInterruptTimer n => Sys2Proof.Machine.execEventInterruptTimer n s
  | .preemptAcknowledge r it => Sys2Proof.Machine.execPreemptAcknowledge r it s
  | .contextSaveComplete r => Sys2Proof.Machine.execContextSaveComplete r s
  | .runnerRelease r => Sys2Proof.Machine.execRunnerRelease r s
  | .pollingSlot d k => Sys2Proof.Machine.execPollingSlot d k s
  | .backgroundStep d => Sys2Proof.Machine.execBackgroundStep d s
  | .waitFaultTimeout n => Sys2Proof.Machine.execWaitFaultTimeout n s
  | .schedulingRound => Sys2Proof.Machine.execSchedulingRound s
  | .fairnessWindow => Sys2Proof.Machine.execFairnessWindow s
  | .leaseDeadline n => Sys2Proof.Machine.execLeaseDeadline n s
  | .nopPacket p => Sys2Proof.Machine.execNopPacket p s
  | .launch p => Sys2Proof.Machine.execLaunch p s
  | .waitPacket p => Sys2Proof.Machine.execWaitPacket p s
  | .signal p => Sys2Proof.Machine.execSignal p s
  | .barrierPkt p => Sys2Proof.Machine.execBarrierPkt p s
  | .map p => Sys2Proof.Machine.execMap p s
  | .unmap p => Sys2Proof.Machine.execUnmap p s
  | .migrate p => Sys2Proof.Machine.execMigrate p s
  | .lease p => Sys2Proof.Machine.execLease p s
  | .revoke p => Sys2Proof.Machine.execRevoke p s
  | .resetq p => Sys2Proof.Machine.execResetq p s
  | .ctxsave p => Sys2Proof.Machine.execCtxsave p s
  | .ctxload p => Sys2Proof.Machine.execCtxload p s
  | .wsetload p => Sys2Proof.Machine.execWsetload p s
  | .wsetswitch p => Sys2Proof.Machine.execWsetswitch p s
  | .auditcfg p => Sys2Proof.Machine.execAuditcfg p s
  | .meterread p => Sys2Proof.Machine.execMeterread p s
  | .keywrap p => Sys2Proof.Machine.execKeywrap p s
  | .qopen p => Sys2Proof.Machine.execQopen p s
  | .qclose p => Sys2Proof.Machine.execQclose p s
  | .lend p => Sys2Proof.Machine.execLend p s
  | .part p => Sys2Proof.Machine.execPart p s
  | .vfstop p => Sys2Proof.Machine.execVfstop p s
  | .vfgo p => Sys2Proof.Machine.execVfgo p s
  | .commandComplete n => Sys2Proof.Machine.execCommandComplete n s
  | .doorbellWrite f q v => Sys2Proof.Machine.execDoorbellWrite f q v s
  | .cqctlEnable f => Sys2Proof.Machine.execCqctlEnable f s
  | .cqctlDisable f => Sys2Proof.Machine.execCqctlDisable f s
  | .pcapWrite v => Sys2Proof.Machine.execPcapWrite v s
  | .hbmrateWrite v => Sys2Proof.Machine.execHbmrateWrite v s
  | .einjWrite k v => Sys2Proof.Machine.execEinjWrite k v s
  | .registerWrite f off v => Sys2Proof.Machine.execRegisterWrite f off v s
  | .monitorSample m => Sys2Proof.Machine.execMonitorSample m s
  | .powerOverrun => Sys2Proof.Machine.execPowerOverrun s
  | .flowLoss => Sys2Proof.Machine.execFlowLoss s
  | .runnerPowerGate r => Sys2Proof.Machine.execRunnerPowerGate r s
  | .selfTestComplete r pass => Sys2Proof.Machine.execSelfTestComplete r pass s
  | .auditReplay d k => Sys2Proof.Machine.execAuditReplay d k s
  | .auditReplayComplete d k => Sys2Proof.Machine.execAuditReplayComplete d k s
  | .coldReset b => Sys2Proof.Machine.execColdReset b s
  | .firmwareRelease flowOk => Sys2Proof.Machine.execFirmwareRelease flowOk s
  | .hostCompletion n ok data => Sys2Proof.Machine.execHostCompletion n ok data s
  | .lockInterface m => Sys2Proof.Machine.execLockInterface m s
  | .startInterface m => Sys2Proof.Machine.execStartInterface m s
  | .stopInterface m => Sys2Proof.Machine.execStopInterface m s
  | .getDeviceInterfaceState m => Sys2Proof.Machine.execGetDeviceInterfaceState m s
  | .getDeviceInterfaceReport m => Sys2Proof.Machine.execGetDeviceInterfaceReport m s
  | .ideKeyManagement k => Sys2Proof.Machine.execIdeKeyManagement k s
  | .ideIntegrityFailure n => Sys2Proof.Machine.execIdeIntegrityFailure n s
  | .getVersion m => Sys2Proof.Machine.execGetVersion m s
  | .getCapabilities m => Sys2Proof.Machine.execGetCapabilities m s
  | .negotiateAlgorithms m => Sys2Proof.Machine.execNegotiateAlgorithms m s
  | .getDigests m => Sys2Proof.Machine.execGetDigests m s
  | .getCertificate m => Sys2Proof.Machine.execGetCertificate m s
  | .challenge m => Sys2Proof.Machine.execChallenge m s
  | .getMeasurements m => Sys2Proof.Machine.execGetMeasurements m s
  | .keyExchange m => Sys2Proof.Machine.execKeyExchange m s
  | .finish m => Sys2Proof.Machine.execFinish m s
  | .keyUpdate m => Sys2Proof.Machine.execKeyUpdate m s
  | .heartbeat m => Sys2Proof.Machine.execHeartbeat m s
  | .endSession m => Sys2Proof.Machine.execEndSession m s
  | .spdmUnsupportedRequest m => Sys2Proof.Machine.execSpdmUnsupportedRequest m s
  | .portTrained n peer => Sys2Proof.Machine.execPortTrained n peer s
  | .portDown n => Sys2Proof.Machine.execPortDown n s
  | .rigalIdentity m => Sys2Proof.Machine.execRigalIdentity m s
  | .rigalEncapsulationKey m => Sys2Proof.Machine.execRigalEncapsulationKey m s
  | .rigalCiphertext m => Sys2Proof.Machine.execRigalCiphertext m s
  | .rigalSignature m => Sys2Proof.Machine.execRigalSignature m s
  | .rigalRekey m => Sys2Proof.Machine.execRigalRekey m s
  | .leaseRequest q => Sys2Proof.Machine.execLeaseRequest q s
  | .leaseReply m ok => Sys2Proof.Machine.execLeaseReply m ok s
  | .softError r replayOk => Sys2Proof.Machine.execSoftError r replayOk s
  | .peerNotice q => Sys2Proof.Machine.execPeerNotice q s
  | .functionEnable f on => Sys2Proof.Machine.execFunctionEnable f on s

end Sys2Proof.Machine
end

