-- ==== Sys2Proof/Machine/Issue.lean ====
section
/-! DEFINITION. Issue of a bundle: fetch, decode checks, guards, interlock, queue conditions, slots in order, the next
address (R37-R43, R47, R53-R58, R63, R64, R237-R240, R313, R332, R336, R340, R343, R354, R359, R361, R366). -/

namespace Sys2Proof.Machine

/-! ### Fetch (R237-R240) -/

/-- What a fetch gives. -/
inductive Fetched
  | ok (b : BundleWord) (s : State)
  | stall (s : State)
  | bounds
  | failed (s : State)

/-- The 128 bits of sixteen bytes, little-endian (R37). -/
def bundleOfBytes (l : List Byte) : BundleWord := BitVec.ofNat 128 (leNat l)
/-- A bundle read from a half of an instruction memory: errors corrected and logged, or the fetch fails (R284). -/
def State.fetchFrom (s : State) (r : Nat) (sl : Slice) (one : Bool) (k : Nat) : Fetched :=
  let m := ((s.rn r).sx sl).im
  let off := imemOff sl one k
  match s.failsIn 5 r off 16 with
  | [] =>
    .ok (bundleOfBytes ((if one then m.bytes1 else m.bytes0).read (16 * k) 16))
      ((s.corrects r 5 r off 16).modR r fun x => x.modX sl fun y => { y with im := { y.im with active1 := one } })
  | bad => .failed (s.logWords r bad)
/-- The bundle at a code address of a slice; a patch that is not resident is copied first. A half that a copy goes to holds no patch until the
copy is complete (R18). DEDUCED, log entry 67. -/
def State.fetch (s : State) (r : Nat) (sl : Slice) (pc : Word) : Fetched :=
  let m := ((s.rn r).sx sl).im
  let n := pc.toNat
  let q := patchOf pc
  let k := bits n 4 12
  match aget m.tab q with
  | none => .bounds
  | some p =>
    if n % 16 ≠ 0 ∨ 2 ^ 22 ≤ n ∨ p.len ≤ k then .bounds
    else if m.half0 == some q then s.fetchFrom r sl false k
    else if m.half1 == some q then s.fetchFrom r sl true k
    else if m.copy.isSome then .stall s
    else .stall (s.startCopy r sl q)

/-! ### Checks of the whole bundle (R47, R53, R63, R64) -/

/-- The width of a vector slot's operation (R45, R47). -/
def vecWidth : Instr → Nat
  | .vadd o | .vaddsat o | .vsub o | .vsubsat o | .vmul o | .vmullo o | .vmulhi o | .vmulhiz o | .vdiv o | .vmin o | .vmax o
  | .vcopysign o | .vavg o | .vand o | .vor o | .vxor o | .vshl o | .vshr o | .vsar o => wBits o.w
  | .vfma o | .vfms o | .vfnma o | .vsel o => wBits o.w
  | .vmov o | .vabs o | .vneg o | .vnot o | .vpopc o | .vclz o | .vsqrt o | .vexp2 o | .vlog2 o | .vrcp o | .vrsq o
  | .vsin o | .vcos o | .vtanh o => wBits o.w
  | .vstain _ | .vclean _ | .vstst _ | .vseedr _ | .vseedw _ | .vpushSdq _ | .vpushIxq _ => 1024
  | .vmovFromLdq0 o | .vmovFromLdq1 o => wBits o.w
  | .vcmp o | .vcmpm o => wBits o.w
  | .vcvt o => wBits o.w
  | .vcvtef o | .vqnt o | .vdqnt o => wBits o.w
  | .vpacksp o => wBits o.w
  | .vred o | .vscan o | .vredr o => wBits o.w
  | .vperm o | .vshuf o | .vbcast o | .vext o | .vins o | .vrot o | .vcompress o | .vexpand o | .vzip o | .vunzip o =>
    wBits o.w
  | .vli o => wBits o.w
  | _ => 0
/-- Whether an operation requires H (R34). -/
def needsH : Instr → Bool
  | .keyld _ | .pwquota _ | .pwpleat _ | .pwlap _ | .pwlease _ | .pwgran _ | .pwweight _ => true
  | _ => false
/-- A mark from 001 to 101. -/
def isMark : Instr → Bool
  | .leg _ | .exchange _ | .patch _ | .exposed _ | .interlocked _ => true
  | _ => false
/-- A header with or without a mark. -/
def isHeaderOp (i : Instr) : Bool :=
  isMark i || match i with | .header _ | .hint _ => true | _ => false
/-- RFT. -/
def isRft : Instr → Bool
  | .rft _ => true
  | _ => false
/-- A marked bundle whose issue is a leg boundary by its mark. -/
def legMark : Instr → Bool
  | .leg _ | .exchange _ => true
  | _ => false

/-- Whether the bundle now at a slice's pc stands in a delay slot (R53, R54). -/
def Strm.inDelay (t : Strm) : Bool :=
  match t.br with
  | none => false
  | some b => t.reentry.isNone || decide (b.left < 3)
/-- The slot and reason of the first ILLEGAL_BUNDLE of a decoded bundle. `stray`: an RFT of it executes with HND = 0 (R143). DESIGN CHOICE,
log entry 77. -/
def bundleErr (x : Runner) (sl : Slice) (ds : List (Except Illegal Instr)) (stray : Bool) : Option (Nat × Nat) :=
  let t := x.st sl
  let width (k : Nat) := match ds[k]? with | some (.ok i) => vecWidth i | _ => 0
  let slotErr (k : Nat) : Option Nat :=
    match ds[k]? with
    | some (.error e) => some e.code
    | some (.ok i) =>
      if k = 0 && t.inDelay && (isMark i || match instrUse x i with | some u => u.branch | none => false) then some 4
      else if isRft i && stray then some 10
      else if k = 2 && decide (1536 < width 1 + width 2) then some 5
      else if needsH i && !x.atH then some 1
      else none
    | none => none
  [0, 1, 2, 3].findSome? fun k => (slotErr k).map fun e => (k, e)

/-! ### Issue conditions (R57, R58, R332, R336, R361) -/

/-- Whether an unlanded result and a register named by a bundle are the same state (R57). -/
def clash (p d : Dst) : Bool :=
  p == d ||
  match p, d with
  | .esnapP, .sys n => n.toNat == 0x13
  | .p i, .sys n => n.toNat == 0x006 && i != 0
  | .ap i, .sys n => n.toNat == 0x007 && i != 0
  | .sys n, .p _ => n.toNat == 0x006
  | .sys n, .ap _ => n.toNat == 0x007
  | .loop .c, .p i => decide (8 ≤ i.toNat)
  | .loop .a, .ap i => decide (8 ≤ i.toNat)
  | .p i, .loop .c => decide (8 ≤ i.toNat)
  | .ap i, .loop .a => decide (8 ≤ i.toNat)
  | .loop .c, .sys n => [0x006, 0x008, 0x009, 0x00C, 0x00D].contains n.toNat
  | .loop .a, .sys n => [0x007, 0x00A, 0x00B, 0x00E].contains n.toNat
  | .sys n, .loop .c => [0x006, 0x008, 0x009, 0x00C, 0x00D].contains n.toNat
  | .sys n, .loop .a => [0x007, 0x00A, 0x00B, 0x00E].contains n.toNat
  | _, _ => false
/-- Whether a register has a write of the slice still to land (R57). -/
def Runner.pending (x : Runner) (sl : Slice) (d : Dst) : Bool :=
  (x.sx sl).pend.any fun p => !p.landed && !p.cross && clash p.dst d
/-- How many results an unlanded entry is (R361): a loop operation's stand for several. -/
def pendCount (p : Pend) : Nat :=
  match p.dst with
  | .loop sl => (match sl with | .c => 4 | .a => 3) + popFrom (p.val.extractLsb' 79 8).toNat 8
  | _ => 1
/-- Results a slice may have in flight (R361). -/
def flightCap : Slice → Nat
  | .c => 32
  | .a => 16
/-- Occurrences of a queue in some uses. -/
def countQ (f : Use → List QName) (us : List Use) (q : QName) : Nat := ((us.flatMap f).filter fun z => z == q).length
/-- The queues. -/
def allQ : List QName := [.laq, .ldq0, .ldq1, .saq, .sdq, .ixq, .caq, .acq]
/-- The slip condition of R336 for the loads of a bundle. -/
def Runner.slipReady (x : Runner) (us : List Use) : Bool :=
  let n := (us.flatMap (·.ldqs)).length
  n == 0 || decide (x.slip + n ≤ x.leg.lim.toNat)
/-- The pops of a bundle (R58, R332). -/
def Runner.popsReady (x : Runner) (us : List Use) : Bool := allQ.all fun q => decide (countQ (·.pops) us q ≤ x.poppable q)
/-- The LDQ and LAQ entries that a bundle's loads need (R336). -/
def Runner.loadRoom (x : Runner) (us : List Use) : Bool :=
  let nl (b : Bool) := ((us.flatMap (·.ldqs)).filter fun z => z == b).length
  (nl false == 0 || decide (x.occPush .ldq0 + nl false ≤ 32)) && (nl true == 0 || decide (x.occPush .ldq1 + nl true ≤ 32))
  && decide (x.laq.length + (us.map (·.laq)).sum ≤ 64)
/-- The conditions on the queues and on the results in flight, for the slots that execute, but for those of R336 and the pops.
DEDUCED, log entry 16. -/
def Runner.roomReady (x : Runner) (sl : Slice) (us : List Use) : Bool :=
  let saqs := (us.map (·.saq)).sum
  let infl := ((((x.sx sl).pend.filter fun p => !p.landed).map pendCount).sum : Nat)
  decide (infl + (us.map (·.nres)).sum ≤ flightCap sl)
  && (countQ (·.pops) us .sdq == 0 || decide (countQ (·.pops) us .sdq + x.saq.length + saqs ≤ x.poppable .sdq))
  && (allQ.all fun q => countQ (·.pushes) us q == 0 || decide (x.occPush q + countQ (·.pushes) us q ≤ qCap q))
  && decide (x.saq.length + saqs ≤ 32)
  && (saqs == 0 || x.legEnd.isNone)
/-- All of them. -/
def Runner.queuesReady (x : Runner) (sl : Slice) (us : List Use) : Bool :=
  x.roomReady sl us && x.loadRoom us && x.slipReady us && x.popsReady us
/-- A cycle in which only R336 holds an A-slice bundle, or only a pop a C-slice bundle (R422). -/
def Runner.countStall (x : Runner) (sl : Slice) (us : List Use) : Runner :=
  match sl with
  | .a => if x.roomReady .a us && x.popsReady us && !(x.loadRoom us && x.slipReady us) then { x with slipst := x.slipst + 1 } else x
  | .c => if x.roomReady .c us && x.loadRoom us && x.slipReady us && !x.popsReady us then { x with popst := x.popst + 1 } else x
/-- The interlock (R57), in interlocked mode. -/
def Runner.unlocked (x : Runner) (sl : Slice) (us : List Use) : Bool :=
  (x.st sl).exposed || us.all fun u => (u.reads ++ u.writes).all fun d => !x.pending sl d
/-- Guards settled (R58). -/
def Runner.guardsSettled (x : Runner) (sl : Slice) (us : List Use) : Bool :=
  (x.st sl).exposed || us.all fun u => !x.pending sl (x.pred sl u.g.p)

/-- Whether a slice may issue at all in this cycle. -/
def State.mayIssue (s : State) (x : Runner) (sl : Slice) : Bool :=
  let t := x.st sl
  let y := x.sx sl
  let full := x.hamFull && !(t.hnd || y.trap.isSome)
  y.st == .run && !t.done && !t.acked && decide (t.wait ≤ s.cycle) && x.rewind.isNone && !x.stopReq && !x.preempt && !full
    && (match sl with
        | .a => !x.leg.frozen && x.tabop.isNone && x.qdrain.isNone
            && (match x.legEnd with | some c => decide (s.cycle < c) | none => true)
        | .c => true)

/-! ### A load performed again at its pop (R343) -/

/-- Whether an entry is to be loaded again at its pop. -/
def LdqE.again (e : LdqE) : Bool := e.st == .fault && e.retry
/-- Whether some head that a re-entered bundle pops is to be loaded again. -/
def Runner.wantsRetry (x : Runner) (us : List Use) : Bool :=
  [false, true].any fun one => decide (0 < countQ (·.pops) us (ldqName one)) &&
    match (x.leg.ldq one).head? with | some e => e.again | none => false
/-- The head of an LDQ whose trap asked for it is made to load again, in its place, with every check of R338: one that fails is FAULT
again, and a clear present bit rewinds the leg. -/
def State.retryHead (s : State) (r : Nat) (one : Bool) : State :=
  let x := s.rn r
  let put (s : State) (f : LdqE → LdqE) : State := s.modR r fun x => x.modLeg fun l => l.modLdq one fun q =>
    match q with | [] => [] | h :: t => f { h with retry := false } :: t
  match (x.leg.ldq one).head? with
  | some e =>
    if e.again then
      match e.load, e.strong with
      | some q, _ =>
        match x.firstFail (sizeBits q.size) false q.addrs with
        | some (.misaligned a) => put s (faultE 0x02 6 a)
        | some (.bounds a) => put s (faultE 0x20 0 a)
        | some (.notPresent i) => s.rewind r 1 [i]
        | none =>
          let q : LaqE := { q with taken := 0, arrived := 0, data := 0, ue := false, elig := s.cycle }
          ((put s fun h => { h with st := .reserved }).modR r fun x => { x with laq := q :: x.laq }).serveLoad r q
      | none, some z => (put s fun h => { h with st := .reserved }).modR r fun x => { x with strong := z :: x.strong }
      | none, none => s
    else s
  | none => s
/-- Heads of the LDQs that the re-entered bundle pops. -/
def State.retryHeads (s : State) (r : Nat) (us : List Use) : State :=
  [false, true].foldl (fun s one => if 0 < countQ (·.pops) us (ldqName one) then s.retryHead r one else s) s

/-! ### The bundle -/

/-- Whether slot 0 of a bundle that executes it holds an RFT that executes with HND = 0: one whose guard is true (R43, R143); none while its
guard is not settled (R58). -/
def State.strayRft (s : State) (sl : Slice) (ds : List (Except Illegal Instr)) : Option Bool :=
  match ds with
  | .ok (.rft o) :: _ =>
    if (s.me.st sl).hnd then some false
    else match instrUse s.me (.rft o) with
      | some u => if s.me.guardsSettled sl [u] then some (s.guardOf u) else none
      | none => some false
  | _ => some false

/-- The uses of the slots of a decoded bundle from slot `k` on. -/
def usesFrom (x : Runner) (ds : List (Except Illegal Instr)) (k : Nat) : List Use :=
  (ds.drop k).filterMap fun d => match d with | .ok i => instrUse x i | .error _ => none
/-- The guard of the slot at position k, false where there is none. -/
def State.guardAt (s : State) (us : List Use) (k : Nat) : Bool :=
  match us.find? fun u => u.pos == k with
  | some u => s.rdP u.sl k 9 u.g.p != u.g.neg
  | none => false
/-- The guards of slots 1 to 3 as read now. -/
def State.guardsNow (s : State) (us : List Use) : BitVec 3 :=
  guardBits (s.guardAt us 1) (s.guardAt us 2) (s.guardAt us 3)

/-- Lane-group cycles of a slot that executes, in its owner's meter (R423). -/
def State.addLanes (s : State) (i : Instr) : State :=
  match vecWidth i, instrUse s.me i with
  | 0, _ => s
  | n, some u => if s.guardOf u then s.modMeter s.me.owner fun m => { m with lanes := m.lanes + n / 256 } else s
  | _, none => s
/-- The slots executed in order; a slot does nothing once the bundle has stopped. -/
def runSlots (ex : Instr → State → Out) : List (Except Illegal Instr) → State → Out
  | [], s => .next s
  | .error _ :: t, s => runSlots ex t s
  | .ok i :: t, s =>
    match ex i s with
    | .next s' => runSlots ex t (if s'.cur.st == .ok then s'.addLanes i else s')
    | o => o
/-- The index and data entries that the next slot of a bundle finds at its queues' heads (R58). -/
def State.withPops (s s' : State) : State :=
  s.modMe fun x => x.modLeg fun l => { l with ixq := s'.me.leg.ixq, sdq := s'.me.leg.sdq }
/-- The first slot whose own conditions do not let the bundle issue, or whose check stops all of it: each is tried alone,
but for the queue entries that lower slots take. -/
def firstHold (ex : Instr → State → Out) (want : Status → Bool) (s : State) : List (Except Illegal Instr) → Option Out
  | [] => none
  | .error _ :: t => firstHold ex want s t
  | .ok i :: t =>
    match ex i s with
    | .next s' =>
      if want s'.cur.st then some (.next s')
      else firstHold ex want (if s'.cur.st == .ok then s.withPops s' else s) t
    | o => some o

/-- What an issued bundle leaves: the next address, its branch or delay slot, the return of an RFT, an ended leg. The address after the last
bundle of a full patch is bundle 0 of the next patch number. DESIGN CHOICE, log entry 94. -/
def State.finishBundle (s : State) (sl : Slice) : State :=
  let r := s.cur.run
  let now := s.cycle
  let next := s.cur.pc + 16
  let go (b : Br) (x : Runner) : Runner :=
    if b.rft then x.reenter sl now
    else x.modSt sl fun t => { t with br := none, pc := b.target.getD next }
  let s := s.modR r fun x =>
    let t := x.st sl
    let x := x.modSt sl fun t => { t with pc := next, reentry := none, marked := false }
    if t.done then x
    else match s.cur.br with
      | some b => x.modSt sl fun t => { t with br := some b }
      | none =>
        match t.br with
        | none => x
        | some b =>
          let left := if s.cur.reent then b.left else b.left - 1
          if left = 0 then go b x else x.modSt sl fun t => { t with br := some { b with left := left } }
  if s.cur.endLeg then s.modR r fun x => { x with legEnd := some (now + 1) } else s

/-- The issue context of a bundle. -/
def State.openBundle (s : State) (r : Nat) (sl : Slice) : State :=
  let t := (s.rn r).st sl
  let same := match s.cur.pre with | some (c, _, _) => c == s.cycle && s.cur.run == r | none => false
  { s with cur :=
    { run := r, pc := t.pc, st := .ok, guards := none, reent := t.reentry.isSome, endLeg := false, marked := t.marked, br := none,
      pre := (if same then s.cur.pre else some (s.cycle, s.seq, (s.rn r).foldNow s.cycle)),
      cmark := same && s.cur.cmark } }

/-- In interlocked mode the results of one bundle to one register land in slot order (R57): a lower slot's result lands no later than
a higher slot's. DEDUCED, log entry 10. -/
def orderBundle (now : Nat) (l : List Pend) : List Pend :=
  let mine (p : Pend) : Bool := p.issue == now && !p.own && !p.reinj
  l.map fun p => if mine p then
    { p with land := ((l.filter fun q => mine q && decide (p.slot < q.slot) && clash p.dst q.dst).map (·.land)).foldl min p.land } else p
/-- The results of the bundle being issued, in slot order. -/
def State.orderResults (s : State) (sl : Slice) : State :=
  if (s.me.st sl).exposed then s else s.modMe fun x => x.modX sl fun y => { y with pend := orderBundle s.cycle y.pend }

/-- What the queue array does as the slots of a bundle pop entries, and whether an uncorrectable word rewinds the leg (R284). DESIGN CHOICE, log
entry 100. -/
def State.slotReads (s : State) (us : List Use) : State × Bool :=
  if us.any fun u => s.guardOf u && !u.pops.isEmpty then s.queueReads s.cur.run else (s, false)
/-- What it does as they push or reserve entries. DESIGN CHOICE, log entry 100. -/
def State.slotWrites (s : State) (us : List Use) : State :=
  if us.any fun u => s.guardOf u && (!u.pushes.isEmpty || !u.ldqs.isEmpty || decide (0 < u.laq + u.saq)) then s.queueWrites s.cur.run else s
/-- Slots of a bundle issued: the whole-bundle checks and rewinds first, then the slots in order (R354). -/
def issueSlots (ex : Instr → State → Out) (sl : Slice) (live : List (Except Illegal Instr)) (s : State) : Out :=
  match firstHold ex (fun z => z == .whole) s live with
  | some (.next s') => .next (s'.withPops s)
  | some o => o
  | none =>
    match firstHold ex (fun z => z == .np) s live with
    | some o => o
    | none =>
      let us := usesFrom s.me live 0
      match s.slotReads us with
      | (s, true) => s.rewindBundle 2 []
      | (s, false) =>
        match runSlots ex live s with
        | .next s' =>
          if s'.cur.st == .stopped || s'.cur.st == .illegal then .next s' else .next (((s'.orderResults sl).finishBundle sl).slotWrites us)
        | o => o

/-- The leg mark of a bundle carried out, then the rest; a RACE that the commit finds is taken at an A-slice bundle itself. An exchange is passed
before the bundle's checks, as a leg boundary is. DEDUCED, log entry 15. DESIGN CHOICE, log entry 88. -/
def afterMark (ex : Instr → State → Out) (sl : Slice) (hd : Option Instr) (s : State) (k : State → Out) : Out :=
  match hd with
  | some i =>
    if legMark i then
      match ex i s with
      | .next s' =>
        let s' := if s'.cur.st == .ok then { s' with cur := { s'.cur with marked := true } } else s'
        match sl, s'.me.ax.trap with
        | .a, some t => s'.trapBundle .a t
        | _, _ => if s'.cur.st == .ok then k s' else .next s'
      | o => o
    else k s
  | none => k s

/-- The guards of slots 1 to 3 of the bundle being issued: read now, or from the trap shadow in a bundle re-entered past slot 0
(R359). -/
def State.bundleGuards (s : State) (sl : Slice) (all : List Use) : BitVec 3 :=
  match (s.me.st sl).reentry with
  | some (_ + 1, g) => g
  | _ => s.guardsNow all
/-- A decoded bundle tried: it issues, or waits. `n` bounds the boundaries it makes before it goes on. DEDUCED, log entry 12.
DESIGN CHOICE, log entry 78. -/
def tryBundle (ex : Instr → State → Out) (sl : Slice) (ds : List (Except Illegal Instr)) : Nat → State → Out
  | 0, s => .next s
  | n + 1, s =>
    let x := s.me
    let t := x.st sl
    let k := match t.reentry with | some (k, _) => k | none => 0
    let hd := match ds with | .ok i :: _ => if k = 0 && isHeaderOp i then some i else none | _ => none
    let stray := if k = 0 then s.strayRft sl ds else some false
    match bundleErr x sl ds (stray.getD false) with
    | some (slot, reason) =>
      if stray.isNone && slot != 0 then .next s
      else afterMark ex sl hd s fun s => s.trapBundle sl { PTrap.mk' 0x01 reason slot with resume := 0 }
    | none =>
      let all := usesFrom x ds k
      let hold : Out := .next s
      -- a mode or patch mark acts before the conditions, and only if the bundle then issues
      let s1 := match hd with
        | some i => if legMark i then s else (match ex i s with
            | .next s' => { s' with cur := { s'.cur with marked := true } } | _ => s)
        | none => s
      if s1.cur.st != .ok then hold
      else if !s1.me.guardsSettled sl (if k = 0 then all else all.filter fun u => u.pos == 0) then hold
      else
        let gs := s1.bundleGuards sl all
        let s1 := { s1 with cur := { s1.cur with guards := some gs } }
        let on := all.filter fun u => s1.guardOf u
        let body := (ds.drop k).filter fun d => match d with | .ok i => !isHeaderOp i | _ => false
        if !s1.me.unlocked sl on then hold
        else if s1.cur.reent && s1.me.wantsRetry on then hold
        else if !s1.me.queuesReady sl on then
          match firstHold ex (fun z => z == .wait) s1 body with
          | some _ => hold
          | none => .next (s.modMe fun x => x.countStall sl on)
        else
          match firstHold ex (fun z => z == .wait || (z == .bound && !(hd.any legMark))) s1 body with
          | some (.next s') =>
            if s'.cur.st == .bound then tryBundle ex sl ds n { s' with cur := { s'.cur with st := .ok } }
            else hold
          | some o => o
          | none =>
            -- a mode or patch mark has no effect in a bundle that fails a check of R63
            let s0 := { s with cur := { s.cur with guards := some gs } }
            match (if hd.any legMark then none else firstHold ex (fun z => z == .whole) s0 body) with
            | some (.next s') => .next (s'.withPops s0)
            | some o => o
            | none => afterMark ex sl hd s1 (issueSlots ex sl body)

/-- The loads that a re-entered bundle of the C slice pops are asked for again, at the beginning of the cycle in which it would issue, so
that slots of that cycle may serve them (R343). DEDUCED, log entry 22. -/
def State.retryLoads (s : State) (r : Nat) : State :=
  let x := s.rn r
  match x.leg.c.reentry, s.fetch r .c x.leg.c.pc with
  | some (k, _), .ok b _ =>
    let ds := decodeBundle .c b
    let all := usesFrom x ds k
    let z := s.openBundle r .c
    let z := { z with cur := { z.cur with guards := some (z.bundleGuards .c all) } }
    let on := all.filter fun u => z.guardOf u
    if s.mayIssue x .c && x.cx.trap.isNone && (bundleErr x .c ds false).isNone
        && x.guardsSettled .c (if k = 0 then all else all.filter fun u => u.pos == 0) && x.unlocked .c on && x.wantsRetry on then
      s.retryHeads r on
    else s
  | _, _ => s

/-- A RACE taken at the A-slice bundle now issuing (R313): before its mark and its slots; at a bundle re-entered part-way the slots
that have committed stay committed (R356, R359). DEDUCED, log entry 15. -/
def State.pendingRace (s : State) (sl : Slice) (t : PTrap) (b : BundleWord) : Out :=
  let x := s.me
  let k := match (x.st sl).reentry with | some (k, _) => k | none => 0
  let s := { s with cur := { s.cur with guards := some (s.bundleGuards sl (usesFrom x (decodeBundle sl b) 0)) } }
  s.trapBundle sl { t with resume := k }
/-- The issue of the next bundle of a slice of a runner, in the current cycle. -/
def issueBundle (ex : Instr → State → Out) (r : Nat) (sl : Slice) (s : State) : Out :=
  let s := s.openBundle r sl
  let x := s.rn r
  if !s.mayIssue x sl then .next s
  else
    match s.fetch r sl s.cur.pc with
    | .bounds => s.fatalBundle sl 0x20 s.cur.pc
    | .stall s' => .next s'
    | .failed s' => s'.rewindBundle 2 []
    | .ok b s' =>
      match (x.sx sl).trap with
      | some t => s'.pendingRace sl t b
      | none => tryBundle ex sl (decodeBundle sl b) 3 s'

end Sys2Proof.Machine
end

