-- ==== Sys2Proof/Machine/Load.lean ====
section
/-! DEFINITION. A one-bundle program placed in the instruction memory of runner 0 (log entry 7). -/

namespace Sys2Proof.Machine

/-- The bundle that holds one slot word in position `pos`, NOPs elsewhere. -/
def wordBundle (pos : BitVec 2) (w : SlotWord) : BundleWord :=
  bundleOf (if pos = 0 then w else 0) (if pos = 1 then w else 0) (if pos = 2 then w else 0) (if pos = 3 then w else 0)
/-- Runner 0 with a one-bundle patch 0 in a slice, about to issue it. DESIGN CHOICE, log entry 7. -/
def Runner.withBundle (x : Runner) (sl : Slice) (b : BundleWord) : Runner :=
  (x.modX sl fun y => { y with
    st := .run
    im := { y.im with
      half0 := some 0
      bytes0 := Memory.write [] 0 (natLe 16 b.toNat)
      tab := [(0, { len := 1, next := none })] } }).modSt sl fun t => { t with pc := 0 }
/-- The word placed so that the next step issues its bundle. DESIGN CHOICE, log entry 7. -/
def State.placeWord (s : State) (nbits w : Nat) : State :=
  match (if nbits = 32 ∧ w < 2 ^ 32 then tableClass (BitVec.ofNat 32 w) else none) with
  | some (sl, pos) =>
    { s.modR 0 (fun x => x.withBundle sl (wordBundle pos (BitVec.ofNat 32 w))) with agenda := [.issue 0 sl] }
  | none => s

end Sys2Proof.Machine
end

