-- ==== Sys2Proof/Machine/Run.lean ====
section
/-! DEFINITION. The events that the machine makes happen by itself, and the commands that its queues start: each has the meaning that
`exec` gives the event of the same name. -/

namespace Sys2Proof.Machine

/-- A started packet carried out (R395). -/
def runCommand (p : Pkt) (s : State) : Out :=
  match p.opc with
  | 0x00 => execNopPacket p s
  | 0x01 => execLaunch p s
  | 0x02 => execWaitPacket p s
  | 0x03 => execSignal p s
  | 0x04 => execBarrierPkt p s
  | 0x05 => execMap p s
  | 0x06 => execUnmap p s
  | 0x07 => execMigrate p s
  | 0x08 => execLease p s
  | 0x09 => execRevoke p s
  | 0x0A => execResetq p s
  | 0x0B => execCtxsave p s
  | 0x0C => execCtxload p s
  | 0x0D => execWsetload p s
  | 0x0E => execWsetswitch p s
  | 0x0F => execAuditcfg p s
  | 0x10 => execMeterread p s
  | 0x11 => execKeywrap p s
  | 0x12 => execQopen p s
  | 0x13 => execQclose p s
  | 0x14 => execLend p s
  | 0x20 => execPart p s
  | 0x21 => execVfstop p s
  | 0x22 => execVfgo p s
  | _ => .next s
/-- An event of the machine's own. -/
def runAct (a : Act) (s : State) : Out :=
  match a with
  | .tableWriteComplete r => execTableWriteComplete r s
  | .resultLands r sl n => execResultLands r sl n s
  | .ifqReinjection r sl n => execIfqReinjection r sl n s
  | .waitElapsed r sl => execWaitElapsed r sl s
  | .queueEntryVisible r q => execQueueEntryVisible r q s
  | .qdrainTakesEffect r => execQdrainTakesEffect r s
  | .storeMatch r => execStoreMatch r s
  | .rewindReentry r => execRewindReentry r s
  | .notPresentHoldRelease r => execNotPresentHoldRelease r s
  | .extentAcknowledge r x => execExtentAcknowledge r x s
  | .exchangePass q => execExchangePass q s
  | .barsComplete q => execBarsComplete q s
  | .strongAccessPerform r n => execStrongAccessPerform r n s
  | .barrierArrival r => execBarrierArrival r s
  | .dataSlot ch => execDataSlot ch s
  | .dataArrival n => execDataArrival n s
  | .lapBoundary ch => execLapBoundary ch s
  | .mendingSlot ch => execMendingSlot ch s
  | .rowPrecharge ch bank row => execRowPrecharge ch bank row s
  | .sweepComplete o => execSweepComplete o s
  | .dataRateChange k => execDataRateChange k s
  | .retrainingDone k => execRetrainingDone k s
  | .pressCommandStart r q => execPressCommandStart r q s
  | .kBlockCommit r => execKBlockCommit r s
  | .pressCommandComplete r q => execPressCommandComplete r q s
  | .sprinterCommandStart r => execSprinterCommandStart r s
  | .sprinterChunkCommit r => execSprinterChunkCommit r s
  | .sprinterCommandComplete r => execSprinterCommandComplete r s
  | .collectiveStart q m => execCollectiveStart q m s
  | .collectiveStep q m => execCollectiveStep q m s
  | .patchCopyComplete r sl => execPatchCopyComplete r sl s
  | .runnerFinish r => execRunnerFinish r s
  | .eventInterruptTimer n => execEventInterruptTimer n s
  | .preemptAcknowledge r it => execPreemptAcknowledge r it s
  | .contextSaveComplete r => execContextSaveComplete r s
  | .runnerRelease r => execRunnerRelease r s
  | .pollingSlot d k => execPollingSlot d k s
  | .backgroundStep d => execBackgroundStep d s
  | .waitFaultTimeout n => execWaitFaultTimeout n s
  | .schedulingRound => execSchedulingRound s
  | .fairnessWindow => execFairnessWindow s
  | .leaseDeadline i => execLeaseDeadline i s
  | .command p => runCommand p s
  | .commandComplete n => execCommandComplete n s
  | .powerOverrun => execPowerOverrun s
  | .runnerPowerGate r => execRunnerPowerGate r s
  | .auditReplay d k => execAuditReplay d k s
  | .auditReplayComplete d k => execAuditReplayComplete d k s

end Sys2Proof.Machine
end

