-- ==== Sys2Proof/Machine/Plan.lean ====
section
/-! DEFINITION. What happens in a cycle, phase by phase: the model's one order of the agents' steps (notes/assumptions/2). -/

namespace Sys2Proof.Machine

/-- The phases of a cycle, in order. DESIGN CHOICE, log entry 2. -/
def phases : List Todo := (List.range 12).map .plan

/-- The order of results landing in one cycle: by slot, then by issue (R61). -/
def landBefore (p q : Pend) : Bool := decide (p.slot < q.slot ∨ (p.slot = q.slot ∧ p.seq < q.seq))
/-- Results of a runner that land now: first the copies into the other slice, whose register its own slots' writes win (R139); then
re-injected entries, which writes of the resumed code win (R363); then the others (R61). -/
def landingNow (x : Runner) (now : Nat) : List Todo :=
  let due (sl : Slice) : List (Slice × Pend) :=
    (((x.sx sl).pend.filter fun p => !p.landed && decide (p.land ≤ now)).mergeSort landBefore).map fun p => (sl, p)
  let all := due .c ++ due .a
  let todo (e : Slice × Pend) : Todo :=
    if e.2.reinj then .act (.ifqReinjection x.num e.1 e.2.seq) else .act (.resultLands x.num e.1 e.2.seq)
  ((all.filter (·.2.cross)) ++ (all.filter fun e => !e.2.cross && e.2.reinj) ++ all.filter fun e => !e.2.cross && !e.2.reinj).map todo

/-- Whether a C-slice operation pops LDQ1, or LDQ0. -/
def popsLdq (one : Bool) (i : Instr) : Bool :=
  match i with
  | .movFromLdq0 _ | .vmovFromLdq0 _ => !one
  | .movFromLdq1 _ | .vmovFromLdq1 _ => one
  | _ => false
/-- Whether the A slice's next bundle holds a QDRAIN of an LDQ that the C slice's next bundle pops: it acts on the queue before the pops of its
cycle (R349). DEDUCED, log entry 21. -/
def State.aFirst (s : State) (x : Runner) : Bool :=
  match s.fetch x.num .a x.leg.s.pc, s.fetch x.num .c x.leg.c.pc with
  | .ok b _, .ok c _ =>
    match decodeBundle .a b with
    | .ok (.qdrain o) :: _ => ((o.g.p == 0 || x.leg.s.preds.getLsbD (x.leg.s.pphys o.g.p).toNat) != o.g.neg) && (decodeBundle .c c).any fun d => match d with | .ok i => popsLdq o.ldq1 i | _ => false
    | _ => false
  | _, _ => false
/-- The bundles that may issue. -/
def issueNow (s : State) : List Todo :=
  (s.runners.filter (·.active)).flatMap fun x =>
    if s.aFirst x then [.issue x.num .a, .issue x.num .c] else [.issue x.num .c, .issue x.num .a]

/-- The runners that hold a squad. -/
def State.busy (s : State) : List Runner := s.runners.filter fun x => x.squad.isSome
/-- Waits, queue entries, store matches and patch copies of a runner that may be due. -/
def readySteps (x : Runner) (now : Nat) : List Todo :=
  let waits (sl : Slice) : List Todo := let w := (x.st sl).wait; if 0 < w ∧ w ≤ now then [.act (.waitElapsed x.num sl)] else []
  let copies (sl : Slice) : List Todo := if (x.sx sl).im.copy.isSome then [.act (.patchCopyComplete x.num sl)] else []
  let news (q : QName) : Bool := match q with
    | .sdq => x.leg.sdq.any fun e => !e.shown && decide (e.due ≤ now)
    | .ixq => x.leg.ixq.any fun e => !e.shown && decide (e.due ≤ now)
    | .caq => x.leg.caq.any fun e => !e.shown && decide (e.due ≤ now)
    | .acq => x.leg.acq.any fun e => !e.shown && decide (e.due ≤ now)
    | _ => false
  waits .c ++ waits .a
  ++ ((allQ.filter fun q => news q || x.freed.any fun e => e.1 == q && decide (e.2 ≤ now)).map fun q => .act (.queueEntryVisible x.num q))
  ++ (if x.saq.isEmpty || x.leg.sdq.isEmpty then [] else [.act (.storeMatch x.num)]) ++ copies .c ++ copies .a
/-- The runners whose leg boundary, made by an operation of an earlier bundle, is due. DEDUCED, log entry 16. -/
def State.boundariesDue (s : State) : List Runner :=
  s.runners.filter fun x => x.saq.isEmpty && match x.legEnd with | some c => decide (c ≤ s.cycle) | none => false
/-- The items that acknowledge (R377). -/
def ackItems : List AckItem := [.c, .a, .va, .vb, .press, .sprinter, .relay]
/-- Ends of runners, exchanges, re-entries, acknowledgements. -/
def turnSteps (s : State) : List Todo :=
  let own (x : Runner) : List Todo :=
    let stop : List Todo := if x.stopReq || (x.leg.c.done && x.leg.s.done) then [.act (.runnerFinish x.num)] else []
    let hold : List Todo := if x.holdNp.isEmpty then [] else [.act (.notPresentHoldRelease x.num)]
    let back : List Todo := if x.rewind.isSome then [.act (.rewindReentry x.num)] else []
    stop ++ hold ++ back
  let passes : List Todo :=
    (s.fw.squads.filter fun z => z.exch.isSome || z.runners.any fun r => (s.rn r).exchAt.isSome).map fun z => .act (.exchangePass z.id)
  let extents : List Todo :=
    ((s.fw.cmds.flatMap (·.acks)).eraseDups.filter fun k => decide (k < 2 ^ 16)).map fun k => .act (.extentAcknowledge (k / 16) (k % 16))
  let saves (r : Nat) : List Todo :=
    (ackItems.filter fun it => !(s.rn r).ackm.getLsbD (ackBit it)).map fun it => .act (.preemptAcknowledge r it)
  let acks : List Todo := (s.fw.squads.filter fun z => z.state == .saving).flatMap fun z => z.runners.flatMap saves
  s.busy.flatMap own ++ passes ++ extents ++ acks
/-- Polling slots of the four dies, and from the twelfth firmware-core cycle of each slot on, 17 cycles after its beginning, their background
steps (R391). DEDUCED, log entry 58. -/
def pollSteps (s : State) : List Todo :=
  let k := s.cycle % 3584 / 28
  if s.cycle % 28 = 0 then ((List.range 4).filter fun d => (s.inSlot (128 * d + k)).isSome).map fun d => .act (.pollingSlot d k)
  else if s.cycle % 28 = 17 then (List.range 4).map fun d => .act (.backgroundStep d)
  else []
/-- Timers of queues, lease deadlines, saves and releases. -/
def timerSteps (s : State) : List Todo :=
  let timers (e : Nat × Queue) : List Todo :=
    let irq : List Todo := if e.2.firstUnsig.isSome then [.act (.eventInterruptTimer e.1)] else []
    let wait : List Todo := if e.2.npSince.isSome then [.act (.waitFaultTimeout e.1)] else []
    irq ++ wait
  let leases : List Todo := (s.tabs.leases.filter fun e => e.2.revoking).map fun e => .act (.leaseDeadline e.1)
  let saves : List Todo := s.fw.saving.map fun e => .act (.contextSaveComplete e.1)
  let frees : List Todo := s.fw.releasing.map fun e => .act (.runnerRelease e.1)
  s.fw.queues.flatMap timers ++ leases ++ saves ++ frees
/-- The Starter's windows and rounds, gating of idle runners, power, the auditor. -/
def roundSteps (s : State) : List Todo :=
  let window : List Todo := if s.cycle % usec 10000 = 0 then [.act .fairnessWindow] else []
  let sched : List Todo := if s.cycle % usec 10 = 0 then [.act .schedulingRound] else []
  let gates : List Todo := (s.runners.filter fun x => x.squad.isNone && !x.gated && decide (x.idleAt + usec 200 ≤ s.cycle)).map
    fun x => .act (.runnerPowerGate x.num)
  let power : List Todo := if s.fw.powerOver.isSome then [.act .powerOverrun] else []
  let audit (d j : Nat) : List Todo :=
    let start : List Todo := if (agetD s.fw.store d []).isEmpty then [] else [.act (.auditReplay d j)]
    let done : List Todo := if (aget s.fw.replays (d, j)).isSome then [.act (.auditReplayComplete d j)] else []
    start ++ done
  window ++ sched ++ gates ++ power ++ (List.range 4).flatMap fun d => audit d 0 ++ audit d 1
/-- Polling, firmware's timers, commands, scheduling, the auditor. -/
def firmSteps (s : State) : List Todo := pollSteps s ++ timerSteps s ++ roundSteps s

/-- The steps of phase k: samples of meters, inputs; results; waits and queues; leg boundaries; memory; the Press; the Sprinter, the Relay, barriers and
tables; ends of runners; firmware; QDRAIN; issue. Phase 5 has none of its own. -/
def phaseSteps (s : State) (k : Nat) : List Todo :=
  match k with
  | 0 => ((s.fw.cmds.filter fun (c : Cmd) => c.pkt.opc == 0x10).map fun c => .act (.commandComplete c.id))
      ++ (s.inbox.filter fun e => decide (e.1 ≤ s.cycle)).map fun e => .ev e.2
  | 1 => (s.runners.filter (·.rewind.isNone)).flatMap fun x => landingNow x s.cycle
  | 2 => s.busy.flatMap fun x => readySteps x s.cycle
  | 3 => s.boundariesDue.map fun x => .boundary x.num
  | 4 => memSteps s
  | 6 => (s.busy.filter fun x => !x.stopReq).flatMap pressSteps
  | 7 => s.busy.flatMap sprSteps
      ++ ((s.fw.squads.filter fun z => z.state == .running || z.state == .saving).flatMap fun z => relaySteps s z ++ [.act (.barsComplete z.id)])
      ++ ((s.busy.filter fun x => match x.tabop with | some t => !s.tableBlocked x t || decide (t.img.length < t.need) | none => false).map
        fun x => .act (.tableWriteComplete x.num))
  | 8 => turnSteps s
  | 9 => firmSteps s
  | 10 => (s.runners.filter (·.qdrain.isSome)).map fun x => .act (.qdrainTakesEffect x.num)
  | 11 => issueNow s
  | _ => []

/-- The A slice's loads go on, but those of a pre-empted runner only for a QDRAIN, for its strong path (R379) or for a rewind (R344, R378). -/
def Runner.loadsGoOn (x : Runner) : Bool := !x.preempt || x.qdrain.isSome || (x.rewind.isSome && !x.ackm.getLsbD 0) || (!x.strong.isEmpty && !x.ackm.getLsbD 0)
/-- What a cycle adds to the meters: runner time of the runners that hold a squad and have not acknowledged, Press cycles of started
multiplications by format (R423). -/
def State.meterCycle (s : State) : State :=
  s.busy.foldl (fun s x =>
    let p := match x.press.cq with
      | c :: _ => if c.start.isSome then (matOf c.i).map fun o => o.fmt.code else none
      | [] => none
    if x.ackm == ~~~0 then s
    else s.modMeter x.owner fun m => { m with
      runns := m.runns + 1
      press := match p with | some f => bump m.press f 1 | none => m.press }) s
/-- What the machine does at the beginning of phase k by itself. DESIGN CHOICE, log entry 2. DEDUCED, log entry 65. -/
def State.enterPhase (s : State) (k : Nat) : State :=
  match k with
  | 0 =>
    let s : State := { s with inbox := s.inbox.filter fun e => decide (s.cycle < e.1) }
    if s.cycle % 3584 = 0 then { s with bnd := { s.bnd with pcap := s.bnd.pcapDue } } else s
  | 4 => (s.busy.filter fun x => x.leg.c.reentry.isSome).foldl (fun s x => s.retryLoads x.num) s.farReenc.flushHeld.takeReplies
  | 5 =>
    let s := (s.busy.filter (·.loadsGoOn)).foldl (fun s x => s.serveLoads x.num) s
    s.busy.foldl (fun s x => s.drainHamper x.num) s
  | 8 => s.busy.foldl (fun s x => (s.startChunks x.num).strongSteps x.num) s
  | 9 => if s.bnd.released then (s.lateTests.rekeys.flushEvents.lateStores.readmitAll).pumpAll else s.lateTests
  | 10 => s.meterCycle
  | _ => s
/-- Phase k: its steps go to the head of the agenda. DESIGN CHOICE, log entry 2. -/
def State.planPhase (s : State) (k : Nat) : State :=
  let s' := s.enterPhase k
  { s' with agenda := phaseSteps (if k = 0 then { s' with inbox := s.inbox } else s') k ++ s'.agenda }
/-- A-slice traps without a handler that no C-slice trap of their cycle holds back end their heats (R357, R358). -/
def State.uncaughtA (s : State) : State :=
  (s.runners.filter fun x => x.squad.isSome && x.ax.st == .trapHeld && !x.leg.c.hnd).foldl (fun s x =>
    match x.ax.trap with | some t => s.enter x.num .a t x.leg.s s.cycle | none => s) s
/-- A new cycle; the runners of heats that ended in the last one have stopped at their bundle boundary (R145, R358). -/
def State.newCycle (s : State) : State := { s.uncaughtA.stopEnded.modMem (fun m => { m with tileLog := [] }) with cycle := s.cycle + 1, agenda := phases }
/-- A leg boundary that an operation of an earlier bundle makes (R366). DEDUCED, log entry 16. -/
def State.legBoundary (s : State) (r : Nat) : State := s.boundary r false none

end Sys2Proof.Machine
end

