-- ==== Sys2Proof/Machine/Step.lean ====
section
/-! DEFINITION. One step of the machine, and a state whose next step runs one given instruction. -/

namespace Sys2Proof.Machine

/-- One step: the next item of the agenda, or a new cycle when it is empty. -/
def step (s : State) : Host.Outcome State Fault Refusal :=
  match s.agenda with
  | [] => .next s.newCycle
  | .ev i :: t => exec i { s with agenda := t }
  | .act a :: t => runAct a { s with agenda := t }
  | .issue r sl :: t =>
    if runnerNums.contains r then issueBundle exec r sl { s with agenda := t } else .fault .noSuchRunner
  | .boundary r :: t =>
    if runnerNums.contains r then .next (State.legBoundary { s with agenda := t } r) else .fault .noSuchRunner
  | .plan k :: t => .next (State.planPhase { s with agenda := t } k)

/-- The state with an instruction placed where the next step fetches it (log entry 7). DESIGN CHOICE, log entry 7. -/
def State.withFetchWord (s : State) (nbits w : Nat) : State := s.placeWord nbits w

end Sys2Proof.Machine
end

