-- ==== Sys2Proof/Safety.lean ====
section
/-! DEFINITION. The terms that the claims about the machine are stated in: when a slot operation executes, what it means that
it issues a result, what stays as it was. -/

namespace Sys2Proof.Machine

/-! ### Slot operations -/

/-- A slot operation of the bundle being issued executes: no earlier slot has stopped the bundle, its register indexes exist
(R64), its guard is true (R43), and no read of it traps as early (R56). `u` is what it reads and writes. -/
def Executes (i : Instr) (s : State) (u : Use) : Prop :=
  s.cur.st = .ok ∧ instrUse s.me i = some u ∧ u.bad = none ∧ s.guardOf u = true ∧ s.earlyOf u true = none

/-- A slot operation is reached with legal indexes and a false guard that traps no early read (R43). -/
def Skipped (i : Instr) (s : State) (u : Use) : Prop :=
  s.cur.st = .ok ∧ instrUse s.me i = some u ∧ u.bad = none ∧ s.guardOf u = false ∧ s.earlyOf u false = none

/-- No register that a slot reads is poisoned (R115, R155). -/
def Unpoisoned (s : State) (u : Use) : Prop := ∀ p ∈ u.reads.zipIdx, s.readPoison u.sl u.pos p.2 p.1 = false

/-- No Press exception is pending (R199, R200). -/
def NoPressException (s : State) : Prop := s.me.press.pend = false

/-- The state with one more result in flight in slice `sl` of the runner whose bundle issues: issued now by slot `slot` with
latency bound L, to land in cycle `land` (R56). -/
def State.issued (s : State) (sl : Slice) (slot L land : Nat) (p : Pend) : State :=
  { s with
    seq := s.seq + 1
    runners := s.runners.map fun x => if x.num = s.cur.run then
      x.modX sl fun y => { y with
        pend := y.pend ++ [{ p with issue := s.cycle, bound := L, land := land, slot := slot, seq := s.seq }] } else x }

/-- From s to t one result was issued and nothing else happened; it lands in one of the cycles c + 1 to c + L (R56). -/
def Issues (s t : State) (sl : Slice) (slot L : Nat) (p : Pend) : Prop :=
  ∃ land, s.cycle + 1 ≤ land ∧ land ≤ s.cycle + L ∧ t = s.issued sl slot L land p

/-- Two results issued, one after the other. -/
def Issues2 (s t : State) (sl : Slice) (slot L : Nat) (p : Pend) (L' : Nat) (q : Pend) : Prop :=
  ∃ m, Issues s m sl slot L p ∧ Issues m t sl slot L' q

/-- A scalar result with its poison. -/
def scalPend (d : Dst) (v : Word) (poison : Bool) : Pend :=
  { Pend.of d (v.setWidth 1024) with poisonW := true, poison := poison }
/-- A predicate result. -/
def predPend (d : Dst) (b : Bool) : Pend := scalPend d (if b then 1 else 0) false
/-- A vector result of width w in elements of e bits (R152). -/
def vecPend (d : Dst) (w e : Nat) (v : VWord) (stain poison : Bool) : Pend :=
  { Pend.of d v with mask := wMask w, ew := e, stainW := true, stain := stain, poisonW := true, poison := poison }

/-- The poison of a scalar operand. -/
def State.rdPoison (s : State) (sl : Slice) (slot op : Nat) (i : RegIx) : Bool := s.readPoison sl slot op (s.me.scal sl i)

/-- A two-operand operation D := f x y of latency L (R128, R129, R115). -/
def Binary (mk : R3 → Instr) (L : Nat) (f : Word → Word → Word) : Prop :=
  ∀ (o : R3) (s : State) (u : Use), Executes (mk o) s u → ∃ t, exec (mk o) s = .next t ∧
    Issues s t o.sl 0 L (scalPend (s.me.scal o.sl o.d) (f (s.rd o.sl 0 0 o.s1) (s.rd o.sl 0 1 o.s2))
      (s.rdPoison o.sl 0 0 o.s1 || s.rdPoison o.sl 0 1 o.s2))
/-- A one-operand operation D := f x of latency 1. -/
def Unary (mk : R2 → Instr) (f : Word → Word) : Prop :=
  ∀ (o : R2) (s : State) (u : Use), Executes (mk o) s u → ∃ t, exec (mk o) s = .next t ∧
    Issues s t o.sl 0 1 (scalPend (s.me.scal o.sl o.d) (f (s.rd o.sl 0 0 o.s1)) (s.rdPoison o.sl 0 0 o.s1))
/-- An operation with IMM12, sign-extended (R131). -/
def WithImm (mk : RI → Instr) (f : Word → Word → Word) : Prop :=
  ∀ (o : RI) (s : State) (u : Use), Executes (mk o) s u → ∃ t, exec (mk o) s = .next t ∧
    Issues s t o.sl 0 1 (scalPend (s.me.scal o.sl o.d) (f (s.rd o.sl 0 0 o.s1) (o.imm.signExtend 64)) (s.rdPoison o.sl 0 0 o.s1))
/-- A shift by a constant (R131). -/
def WithCount (mk : RSh → Instr) (f : Word → Nat → Word) : Prop :=
  ∀ (o : RSh) (s : State) (u : Use), Executes (mk o) s u → ∃ t, exec (mk o) s = .next t ∧
    Issues s t o.sl 0 1 (scalPend (s.me.scal o.sl o.d) (f (s.rd o.sl 0 0 o.s1) o.n.toNat) (s.rdPoison o.sl 0 0 o.s1))

/-- How a condition reads a value (R75, R133): unsigned for its .z forms, signed for the others. -/
def ccNumber (c : Cc) {n : Nat} (x : BitVec n) : Int :=
  match c with
  | .ltZ | .leZ | .gtZ | .geZ => x.toNat
  | _ => x.toInt
/-- Whether two numbers meet a condition (R75). -/
def ccRelates (c : Cc) (x y : Int) : Bool :=
  match c with
  | .eq => decide (x = y)
  | .ne => decide (x ≠ y)
  | .ltS | .ltZ => decide (x < y)
  | .leS | .leZ => decide (x ≤ y)
  | .gtS | .gtZ => decide (y < x)
  | .geS | .geZ => decide (y ≤ x)
/-- Whether a number meets a branch condition (R75). -/
def bcHolds (c : Bc) (x : Int) : Bool :=
  match c with
  | .eqz => decide (x = 0)
  | .nez => decide (x ≠ 0)
  | .ltz => decide (x < 0)
  | .gez => decide (0 ≤ x)
  | .gtz => decide (0 < x)
  | .lez => decide (x ≤ 0)
/-- Predicate logic on two predicates (R134). -/
def PredLogic (mk : R3 → Instr) (f : Bool → Bool → Bool) : Prop :=
  ∀ (o : R3) (s : State) (u : Use), Executes (mk o) s u → ∃ t, exec (mk o) s = .next t ∧
    Issues s t o.sl 0 1 (predPend (s.me.pred o.sl (o.d.setWidth 4))
      (f ((s.readV o.sl 0 0 (s.me.pred o.sl (o.s1.setWidth 4))).getLsbD 0)
        ((s.readV o.sl 0 1 (s.me.pred o.sl (o.s2.setWidth 4))).getLsbD 0)))
/-- Predicate logic on one predicate (R134). -/
def PredLogic1 (mk : R2 → Instr) (f : Bool → Bool) : Prop :=
  ∀ (o : R2) (s : State) (u : Use), Executes (mk o) s u → ∃ t, exec (mk o) s = .next t ∧
    Issues s t o.sl 0 1 (predPend (s.me.pred o.sl (o.d.setWidth 4))
      (f ((s.readV o.sl 0 0 (s.me.pred o.sl (o.s1.setWidth 4))).getLsbD 0)))

/-! ### Branches -/

/-- The bundle being issued branches: three delay slots follow, then the target, or the next bundle when it is not taken (R53). -/
def State.branches (s : State) (target : Option Word) : State :=
  { s with cur := { s.cur with br := some { target := target, left := 3, rft := false } } }
/-- The address that a bundle offset names (R52): sixteen bytes a bundle, from the branch's own address. -/
def State.offsetTo (s : State) {n : Nat} (off : BitVec n) : Word := s.cur.pc + BitVec.ofInt 64 (16 * off.toInt)
/-- What LOOPSET and LOOPB put in flight (R119, R120): lc, lfc, the two bases, and p8 to p15, of which `pm` marks those written. -/
def loopRes (sl : Slice) (lc lfc rot prot pv pm : Nat) : Pend := Pend.of (.loop sl) (loopVal lc lfc rot prot pv pm)

/-! ### Copies and pops -/

/-- What XTOV puts in flight (R138): 64 bits at element `e`; the stain stays, and the poison is only ever set. -/
def elementPend (d : Dst) (e : Nat) (v : Word) (poison : Bool) : Pend :=
  { Pend.of d (v.setWidth 1024 <<< (64 * e)) with mask := 1#16 <<< e, ew := 64, poisonW := poison, poison := true }
/-- The head of LDQ0 or LDQ1 popped: gone for the C slice now, its place seen free by the A slice two cycles later (R332). -/
def State.popsLdq (s : State) (one : Bool) : State :=
  s.modMe fun x => { x with
    leg := (if one then { x.leg with ldq1 := x.leg.ldq1.tail } else { x.leg with ldq0 := x.leg.ldq0.tail })
    freed := x.freed ++ [(if one then .ldq1 else .ldq0, s.cycle + 2)] }
/-- The entry that VPUSH pushes (R163): all 1024 bits and the stain, seen by the other slice two cycles later (R332). -/
def State.pushedVector (s : State) (v : VPos) (i : RegIx) : VqE :=
  { data := s.readV .c (vposNat v) 0 (s.me.vreg v i), stain := s.readStain .c (vposNat v) 0 (s.me.vreg v i),
    due := s.cycle + 2, shown := false }

/-! ### Vector operations -/

/-- Operand `op` of a vector slot, as a number (R89). -/
def State.vsrc (s : State) (v : VPos) (op : Nat) (i : RegIx) : Nat := (s.readV .c (vposNat v) op (s.me.vreg v i)).toNat
/-- The first n elements of a vector are those given, and every bit above them is zero (R89, R152). -/
def Elements (val : VWord) (e n : Nat) (f : Nat → Nat) : Prop :=
  (∀ k < n, elemAt val.toNat e k = f k % 2 ^ e) ∧ ∀ j, n * e ≤ j → val.getLsbD j = false
/-- No element meets a class whose trap is enabled, or quarantine is on (R100, R106). -/
def FpQuiet (x : Runner) (n : Nat) (r : Nat → FRes) : Prop :=
  x.quar = true ∨ ∀ k < n, (x.fei = true → (r k).inv = false) ∧ (x.fez = true → (r k).dz = false) ∧
    (x.feo = true → (r k).ovf = false)
/-- A quarantine hit of a computing operation (R106): some result is a NaN or an infinity, or meets a class. -/
def quarHit (x : Runner) (comp : Bool) (f : Fmt) (n : Nat) (r : Nat → FRes) : Bool :=
  x.quar && comp && (List.range n).any fun k => isSpecial f (r k).v || (r k).inv || (r k).dz || (r k).ovf
/-- The seed steps once when a slot rounds stochastically (R102); otherwise nothing further happens. -/
def SeedSteps (m t : State) (v : VPos) (rm : Rm) (seed : Nat) : Prop :=
  if rm = .sr then Issues m t .c (vposNat v) 1 { Pend.of (seedOf v) (seedStep (BitVec.ofNat 1024 seed)) with ew := 32 } else t = m
/-- The vector operation `i` completes, when no enabled class is met, with the n elements `r` of e bits in its destination, to land
within L cycles; `comp` says that quarantine looks at its results, in format `f`. -/
def GivesElements (i : Instr) (s : State) (v : VPos) (d : RegIx) (w : Width) (e n L : Nat) (rm : Rm) (comp : Bool) (f : Fmt)
    (r : (seed k : Nat) → FRes) : Prop :=
  ∀ u, Executes i s u → FpQuiet s.me n (r (s.seedRead u)) → ∃ t m val, exec i s = .next t ∧
    Issues s m .c (vposNat v) L (vecPend (s.me.vreg v d) (wBits w) e val
      (s.stainOr u || quarHit s.me comp f n (r (s.seedRead u))) (s.poisonOr u)) ∧
    Elements val e n (fun k => (r (s.seedRead u) k).v) ∧ SeedSteps m t v rm (s.seedRead u)
/-- An elementwise operation of two sources, on elements of the operation's own type. -/
def Vector2 (mk : V3 → Instr) (ok : Fmt → Bool) (L : Nat) (comp : Bool) (g : (ty : Fmt) → (rm : Rm) → (r x y : Nat) → FRes) : Prop :=
  ∀ (o : V3) (s : State), (mk o).wellFormed → ok o.ty →
    let e := fmtBits o.ty
    GivesElements (mk o) s o.v o.d o.w e (elemCount o.w e) L o.rm comp o.ty fun seed k =>
      g o.ty o.rm (randOf seed k) (elemAt (s.vsrc o.v 0 o.s1) e k) (elemAt (s.vsrc o.v 1 o.s2) e k)
/-- The same with a third source. -/
def Vector3 (mk : V4 → Instr) (L : Nat) (comp : Bool) (g : (ty : Fmt) → (rm : Rm) → (r x y z : Nat) → FRes) : Prop :=
  ∀ (o : V4) (s : State), (mk o).wellFormed →
    let e := fmtBits o.ty
    GivesElements (mk o) s o.v o.d o.w e (elemCount o.w e) L o.rm comp o.ty fun seed k =>
      g o.ty o.rm (randOf seed k) (elemAt (s.vsrc o.v 0 o.s1) e k) (elemAt (s.vsrc o.v 1 o.s2) e k)
        (elemAt (s.vsrc o.v 2 o.t) e k)
/-- An elementwise operation of one source. -/
def Vector1 (mk : V2 → Instr) (ok : Fmt → Bool) (L : Nat) (comp : Bool) (g : (ty : Fmt) → (rm : Rm) → (r x : Nat) → FRes) : Prop :=
  ∀ (o : V2) (s : State), (mk o).wellFormed → ok o.ty →
    let e := fmtBits o.ty
    GivesElements (mk o) s o.v o.d o.w e (elemCount o.w e) L o.rm comp o.ty fun seed k =>
      g o.ty o.rm (randOf seed k) (elemAt (s.vsrc o.v 0 o.s1) e k)
/-- An integer result of e bits that meets no class: the low e bits of an integer (R84). -/
def lowBits (ty : Fmt) (z : Int) : FRes := FRes.of (z % 2 ^ fmtBits ty).toNat
/-- The integer an element stands for in its type (R84). -/
def asInt (ty : Fmt) (x : Nat) : Int := if ty.isIS = true ∧ 2 ^ (fmtBits ty - 1) ≤ x then (x : Int) - 2 ^ fmtBits ty else x
/-- The nearest integer that a type holds (R84). -/
def nearest (ty : Fmt) (z : Int) : Int :=
  let lo : Int := if ty.isIS then -(2 ^ (fmtBits ty - 1)) else 0
  let hi : Int := if ty.isIS then 2 ^ (fmtBits ty - 1) - 1 else 2 ^ fmtBits ty - 1
  if z < lo then lo else if hi < z then hi else z
/-- A permutation's elements from the elements of its sources and of the old destination (R176). -/
def Permutes (mk : VPermO → Instr) (g : (e n : Nat) → (x t d : Nat → Nat) → Nat → Nat) : Prop :=
  ∀ (o : VPermO) (s : State) (u : Use), (mk o).wellFormed → Executes (mk o) s u → ∃ t val, exec (mk o) s = .next t ∧
    let e := fmtBits o.ty
    let n := elemCount o.w e
    Issues s t .c (vposNat o.v) 2 (vecPend (s.me.vreg o.v o.d) (wBits o.w) e val (s.stainOr u) (s.poisonOr u)) ∧
    Elements val e n (g e n (elemAt (s.vsrc o.v 0 o.s1) e) (elemAt (s.vsrc o.v 1 o.t) e) (elemAt (s.vsrc o.v 2 o.d) e))
/-- Whether an exact value is a number. -/
def FV.finite : FV → Bool
  | .num _ _ _ => true
  | _ => false
/-- The rational number that a finite exact value is: ±m·2^e. -/
def FV.toRat : FV → Rat
  | .num neg m e => (if neg then -1 else 1) * (m : Rat) * (2 : Rat) ^ e
  | _ => 0
/-- A vector condition on two elements (R78, R166): integers as their type reads them, floating-point numbers by value, and a NaN
unordered with everything. -/
def VcHolds (c : VCc) (ty : Fmt) (x y : Nat) : Prop :=
  if ty.isF ∧ ((decodeF ty x).finite = false ∧ magOf ty x ≠ infBits ty ∨ (decodeF ty y).finite = false ∧ magOf ty y ≠ infBits ty) then
    c = .ne ∨ c = .uno
  else
    let a : Int := if ty.isF then (if signOf ty x then -(magOf ty x : Int) else magOf ty x) else asInt ty x
    let b : Int := if ty.isF then (if signOf ty y then -(magOf ty y : Int) else magOf ty y) else asInt ty y
    match c with
    | .eq => a = b
    | .ne => a ≠ b
    | .lt => a < b
    | .le => a ≤ b
    | .gt => b < a
    | .ge => b ≤ a
    | .uno => False
    | .ord => True

/-! ### Exact arithmetic and rounding -/

/-- The dropped-bit count k of R96: the bits that a dropped fraction needs, 32 when it needs more. -/
def DroppedBits (d : ℝ) (k : Nat) : Prop :=
  k ≤ 32 ∧ (k < 32 → ∃ n : Nat, d * 2 ^ k = n) ∧ ∀ j < k, ¬∃ n : Nat, d * 2 ^ j = n
/-- When the truncated significand t of a magnitude goes up, d being the fraction dropped and `neg` the sign (R96). -/
def GoesUp (rm : Rm) (neg : Bool) (t : Nat) (d : ℝ) (r : Nat) : Prop :=
  match rm with
  | .rne => 1 / 2 < d ∨ d = 1 / 2 ∧ t % 2 = 1
  | .rtz => False
  | .rup => 0 < d ∧ neg = false
  | .rdn => 0 < d ∧ neg = true
  | .rna => 1 / 2 ≤ d
  | .sr => ∃ k n : Nat, DroppedBits d k ∧ 0 < k ∧ (n : ℝ) ≤ d * 2 ^ k ∧ d * 2 ^ k < n + 1 ∧ 2 ^ k ≤ n + r % 2 ^ k
/-- The table of R97: the largest finite value with `.sat`, in the modes that go towards it, and in a format with neither infinities nor
NaNs; otherwise the canonical NaN of e4m3, or the infinity. -/
def OverflowsTo (f : Fmt) (rm : Rm) (neg sat : Bool) (v : Nat) : Prop :=
  let top := sat = true ∨ rm = .rtz ∨ rm = .rup ∧ neg = true ∨ rm = .rdn ∧ neg = false ∨ f = .e3m2 ∨ f = .e2m3 ∨ f = .e2m1
  (top → signOf f v = neg ∧ magOf f v = maxFin f) ∧ (¬top → f = .e4m3 → v = 0x7F) ∧ (¬top → f ≠ .e4m3 → decodeF f v = .inf neg)
/-- z is the result of rounding the number of magnitude a and sign `neg` into a format, as the text of R96 computes it: in the binade e of a, no
lower than that of the smallest normal value, a is t + d quanta; t goes up or not; and a result above the largest finite value overflows. -/
def RoundsTo (f : Fmt) (rm : Rm) (sat : Bool) (r : Nat) (neg : Bool) (a : ℝ) (z : FRes) : Prop :=
  ∃ (e : Int) (t up : Nat) (d : ℝ),
    1 - (fmtBias f : Int) ≤ e ∧ a < 2 ^ (e + 1) ∧ (e = 1 - (fmtBias f : Int) ∨ 2 ^ e ≤ a) ∧
    a = (t + d) * 2 ^ (e - (manBits f : Int)) ∧ 0 ≤ d ∧ d < 1 ∧ (GoesUp rm neg t d r ∧ up = 1 ∨ ¬GoesUp rm neg t d r ∧ up = 0) ∧
    (let y : ℝ := (t + up) * 2 ^ (e - (manBits f : Int))
     let top : ℝ := ((decodeF f (maxFin f)).toRat : ℝ)
     (top < y → z.ovf = !sat ∧ OverflowsTo f rm neg sat z.v) ∧
     (y ≤ top → z.ovf = false ∧ ∃ m k, decodeF f z.v = .num neg m k ∧ (m : ℝ) * 2 ^ k = y))
/-- z is the exact value x rounded once, with no other class met; an exact zero has the sign `zero` (R88, R96). -/
def Computes (f : Fmt) (rm : Rm) (r : Nat) (x : ℝ) (zero : Bool) (z : FRes) : Prop :=
  z.inv = false ∧ z.dz = false ∧ (x = 0 → z.ovf = false ∧ z.v = signed f zero 0) ∧
  ∀ neg, x ≠ 0 → (neg = true ↔ x < 0) → RoundsTo f rm false r neg |x| z
/-- The real number that a finite exact value is. -/
def FV.IsReal (v : FV) (x : ℝ) : Prop := v.finite = true ∧ x = (v.toRat : ℝ)
/-- The sign of a value. -/
def FV.sign : FV → Bool
  | .nan _ n => n
  | .inf n => n
  | .num n _ _ => n
/-- The sign of an exact zero sum of two numbers with these signs (R88; of two zeros of one sign it is theirs: log entry 30). -/
def zeroSign (rm : Rm) (a b : Bool) : Bool := if a = b then a else rm == .rdn

/-- No floating-point class traps a vector slot (R100): quarantine is on, or the three enables are clear. -/
def NoFpTraps (x : Runner) : Prop := x.quar = true ∨ (x.fei = false ∧ x.fez = false ∧ x.feo = false)
/-- A stain that is that of the operands, but for a quarantine hit (R154). -/
def StainFrom (s : State) (u : Use) (st : Bool) : Prop :=
  (s.stainOr u = true → st = true) ∧ (s.me.quar = false → st = s.stainOr u)
/-- Element i of the pairwise tree over elements (R110): after no step the element, after s + 1 the operation on two of step s. -/
def treeElement (op : Nat → Nat → Nat) (x : Nat → Nat) : Nat → Nat → Nat
  | 0, i => x i
  | s + 1, i => op (treeElement op x s (2 * i)) (treeElement op x s (2 * i + 1))
/-- Element i of an inclusive scan after s steps (R112). -/
def scanElement (op : Nat → Nat → Nat) (x : Nat → Nat) : Nat → Nat → Nat
  | 0, i => x i
  | s + 1, i => if i < 2 ^ s then scanElement op x s i else op (scanElement op x s (i - 2 ^ s)) (scanElement op x s i)
/-- The fold of some elements in order (R111); zero of none. -/
def foldElement (op : Nat → Nat → Nat) : List Nat → Nat
  | [] => 0
  | a :: t => t.foldl op a
/-- A bundle's slot raises a floating-point trap at element k (R100, R353): the slot does not commit. -/
def FpTrapAt (i : Instr) (s : State) (u : Use) (cause k : Nat) : Prop :=
  ∃ t, exec i s = .next { t with cur := { t.cur with st := .stopped } } ∧
    t = s.takeTrap s.cur.run .c
      { cause := BitVec.ofNat 8 cause, detail := BitVec.ofNat 32 k, slot := u.pos, resume := u.pos, xaddr := 0, freeze := false }
      s.cur.pc (s.cur.guards.getD 0) (s.savedBr .c) s.cur.marked
/-- The classes of a slot's n elements are taken in the order of R100, the lowest element of the first enabled class. -/
def FpTraps (i : Instr) (s : State) (n : Nat) (r : (seed k : Nat) → FRes) : Prop :=
  ∀ u, Executes i s u → s.me.quar = false →
    let z := r (s.seedRead u)
    (∀ k < n, s.me.fei = true → (z k).inv = true → (∀ j < k, (z j).inv = false) → FpTrapAt i s u 3 k) ∧
    (∀ k < n, (s.me.fei = true → ∀ j < n, (z j).inv = false) → s.me.fez = true → (z k).dz = true →
      (∀ j < k, (z j).dz = false) → FpTrapAt i s u 4 k) ∧
    (∀ k < n, (s.me.fei = true → ∀ j < n, (z j).inv = false) → (s.me.fez = true → ∀ j < n, (z j).dz = false) →
      s.me.feo = true → (z k).ovf = true → (∀ j < k, (z j).ovf = false) → FpTrapAt i s u 5 k)

/-! ### The rest of the machine -/

/-- Runner r is one of the module's runners. -/
def HasRunner (s : State) (r : Nat) : Prop := ∃ x ∈ s.runners, x.num = r
/-- From s to t only the runner whose bundle issues has changed, the counter of fresh values, and the note of the tiles that this cycle
has touched. -/
def OnlyRunner (s t : State) : Prop :=
  t.cycle = s.cycle ∧ t.mem = { s.mem with tileLog := t.mem.tileLog } ∧ t.tabs = s.tabs ∧ t.fw = s.fw ∧ t.bnd = s.bnd ∧
  t.inbox = s.inbox ∧ t.agenda = s.agenda ∧
  ∀ r, r ≠ s.cur.run → t.rn r = s.rn r
/-- The registers, queues and status words of the runner whose bundle issues are as they were, and every byte of memory. -/
def KeepsRegisters (s t : State) : Prop :=
  t.me.leg = s.me.leg ∧ t.me.cx = s.me.cx ∧ t.me.ax = s.me.ax ∧ t.mem.phys = s.mem.phys ∧ t.me.basin = s.me.basin
/-- The bundle being issued ends the leg (R366). -/
def EndsLeg (s t : State) : Prop := t.cur = { s.cur with endLeg := true }
/-- A query of a table (R226, R229, R233, R260): its answer has latency 4. -/
def Answers (i : Instr) (s : State) (d : RegIx) (v : Nat) : Prop :=
  ∃ t, exec i s = .next t ∧ Issues s t .a 0 4 (scalPend (s.me.scal .a d) (BitVec.ofNat 64 v) false)
/-- A Basin tile of the runner whose bundle issues. -/
def State.btileOf (s : State) (k : BitVec 8) : Option Tile := s.tile s.cur.run { lvl := .basin, idx := k.toNat }
/-- Its entry is e, both as it stands and as the issue checks of this cycle see it. -/
def State.HasBtile (s : State) (k : BitVec 8) (e : Tile) : Prop :=
  s.btileOf k = some e ∧ s.tileSeen s.cur.run { lvl := .basin, idx := k.toNat } = some e

/-! ### Address slots -/

/-- Operand n of an operation in an AG slot. -/
def State.agOp (s : State) (p : AgPos) (n : Nat) (i : RegIx) : Word := s.rd .a (agNat p) n i
/-- Operand n of an operation in the AT slot. -/
def State.atOp (s : State) (n : Nat) (i : RegIx) : Word := s.rd .a 3 n i
/-- Every element of an access passes the checks of R338. -/
def ElemsOk (x : Runner) (size : Size) (wr : Bool) (addrs : List Word) : Prop :=
  ∀ a ∈ addrs, x.elemFail (sizeBits size) wr a = none
/-- The load that joins the queues now (R331, R336). -/
def State.newLoad (s : State) (op : AgOp) (one : Bool) (size : Size) (p : AgPos) (base stride : Word) (ix : VWord) (stain : Bool)
    (addrs : List Word) : LaqE :=
  { id := s.seq, op := op, tgt1 := one, size := size, ag1 := p == .ag1, base := base, stride := stride, idx := ix, addrs := addrs,
    taken := 0, held := 0, arrived := 0, data := 0, stain := stain, ue := false, elig := s.cycle + 4, leg := s.me.legNo, stamp := s.srs s.me }
/-- From s to t the load q joined the load address queue and took the next place of its LDQ, RESERVED; some of its elements may
already be on their way, and the others may have to wait for an earlier write. The other registers and all memory are as before. -/
def LoadJoins (s t : State) (q : LaqE) : Prop :=
  t.cur = s.cur ∧ t.mem.phys = s.mem.phys ∧ t.me.cx = s.me.cx ∧ t.me.ax = s.me.ax ∧ t.me.basin = s.me.basin ∧
  t.me.leg = s.me.leg.modLdq q.tgt1 (fun l => l ++ [reserved q.id (some q) q.ag1]) ∧
  ∃ going late, t.me.laq = (s.me.laq ++ [q]).map fun z =>
    if z.id = q.id then { z with taken := z.taken ||| going, held := late } else z
/-- From s to t a load that cannot be performed took the next place of its LDQ with the entry e; it makes no access. -/
def LoadEntry (s t : State) (one : Bool) (e : LdqE) : Prop :=
  t = { s.modMe fun x => x.modLeg fun l => l.modLdq one fun q => q ++ [e] with seq := s.seq + 1 }
/-- A bundle is given up at a not-present extent: its leg is rewound (R342, R369). -/
def RewindsNp (i : Instr) (s : State) (ext : Nat) : Prop :=
  ∃ t, exec i s = .next { t with cur := { t.cur with st := .np } } ∧ t = s.rewind s.cur.run 1 [ext]
/-- A slot traps with a cause and DETAIL, XADDR 0 (R353, R354): it and the later slots do not commit. -/
def TrapsAt (i : Instr) (s : State) (u : Use) (cause detail : Nat) : Prop :=
  ∃ t, exec i s = .next { t with cur := { t.cur with st := (if cause = 2 then .illegal else .stopped) } } ∧
    t = s.takeTrap s.cur.run u.sl
      { cause := BitVec.ofNat 8 cause, detail := BitVec.ofNat 32 detail, slot := u.pos, resume := u.pos, xaddr := 0, freeze := false }
      s.cur.pc (s.cur.guards.getD 0) (s.savedBr u.sl) s.cur.marked
/-- A check of the whole bundle fails (R63): the trap is taken and no slot of it commits. -/
def TrapsWhole (i : Instr) (s : State) (u : Use) (cause detail : Nat) : Prop :=
  ∃ t, exec i s = .next { t with cur := { t.cur with st := .whole } } ∧
    t = s.takeTrap s.cur.run u.sl
      { cause := BitVec.ofNat 8 cause, detail := BitVec.ofNat 32 detail, slot := u.pos, resume := 0, xaddr := 0, freeze := false }
      s.cur.pc (s.cur.guards.getD 0) (s.savedBr u.sl) s.cur.marked
/-- A fatal cause ends the heat (R353, R358). -/
def EndsFatal (i : Instr) (s : State) (u : Use) (cause : Nat) (xaddr : Word) : Prop :=
  ∃ t, exec i s = .next { t with cur := { t.cur with st := .stopped } } ∧
    t = s.fatal s.cur.run u.sl cause s.cur.pc xaddr u.pos
/-- A poisoned register: the first of those that a slot reads (R115, R155). -/
def FirstPoisoned (s : State) (u : Use) (d : Dst) : Prop :=
  ∃ n, u.reads[n]? = some d ∧ s.readPoison u.sl u.pos n d = true ∧
    ∀ k < n, ∀ e, u.reads[k]? = some e → s.readPoison u.sl u.pos k e = false
/-- The operation raises POISON_USE at its slot when a register that it reads is poisoned; DETAIL names the first (R115, R155, R353). -/
def PoisonTraps (i : Instr) : Prop :=
  ∀ (s : State) (u : Use) (d : Dst), Executes i s u → FirstPoisoned s u d → TrapsAt i s u 0x07 (dstDetail d)
/-- The operation raises EARLY_READ at its slot when its guard is true and a register that it reads is read early (R56, R353). -/
def EarlyTraps (i : Instr) : Prop :=
  ∀ (s : State) (u : Use) (d : Dst), s.cur.st = .ok → instrUse s.me i = some u → u.bad = none → s.guardOf u = true →
    s.earlyOf u true = some d → TrapsAt i s u 0x06 (dstDetail d)
/-- The state in which the load of an LDQ's head is to be performed again when its pop is re-entered (R343). -/
def State.retriesHead (s : State) (one : Bool) : State :=
  s.modMe fun x => { x with leg := x.leg.modLdq one fun q => match q with | [] => [] | h :: t => { h with retry := true } :: t }
/-- A pop of an LDQ whose head is not FILLED without an error (R343, R344): a FAULT head ends the heat with BOUNDS, or traps with the
entry's cause and freezes the A slice; a head with an uncorrectable error rewinds the leg. -/
def PopStops (i : Instr) (one : Bool) : Prop :=
  ∀ (s : State) (u : Use) (e : LdqE) (q : List LdqE), Executes i s u → s.me.leg.ldq one = e :: q →
    (e.st = .fault → e.cause = 0x20 → EndsFatal i s u 0x20 e.addr) ∧
    (e.st = .fault → e.cause ≠ 0x20 → ∃ t, exec i s = .next { t with cur := { t.cur with st := .stopped } } ∧
      t = (s.retriesHead one).takeTrap s.cur.run .c
        { cause := e.cause, detail := BitVec.ofNat 32 (e.detail.toNat % 256 + if e.ag1 then 256 else 0), slot := u.pos, resume := u.pos,
          xaddr := e.addr, freeze := true } s.cur.pc (s.cur.guards.getD 0) (s.savedBr .c) s.cur.marked) ∧
    (e.st = .filled → e.ue = true → ∃ t, exec i s = .next { t with cur := { t.cur with st := .stopped } } ∧ t = s.rewind s.cur.run 2 [])
/-- What a load operation does with its elements' addresses (R336, R338, R342), once an index entry it uses is popped from `s` to
`s'`: it joins, or the first failing element fixes its entry. -/
def Loads (i : Instr) (s s' : State) (q : LaqE) : Prop :=
  match s.me.firstFail (sizeBits q.size) false q.addrs with
  | none => s.meetsGated q.addrs (sizeBits q.size / 8) = false → ∃ t, exec i s = .next t ∧ LoadJoins s' t q
  | some (.notPresent x) =>
    if q.op = .ldaS then ∃ t, exec i s = .next t ∧ LoadEntry s' t q.tgt1 { reserved q.id (some q) q.ag1 with st := .filled, poison := true }
    else RewindsNp i s x
  | some (.misaligned a) => ∃ t, exec i s = .next t ∧ LoadEntry s' t q.tgt1
      (if q.op = .ldaS then { reserved q.id (some q) q.ag1 with st := .filled, poison := true }
       else { reserved q.id (some q) q.ag1 with st := .fault, cause := 0x02, detail := 6, addr := a })
  | some (.bounds a) => ∃ t, exec i s = .next t ∧ LoadEntry s' t q.tgt1
      (if q.op = .ldaS then { reserved q.id (some q) q.ag1 with st := .filled, poison := true }
       else { reserved q.id (some q) q.ag1 with st := .fault, cause := 0x20, addr := a })
/-- What a store operation does with its elements' addresses (R340). -/
def Stores (i : Instr) (s s' : State) (u : Use) (e : SaqE) : Prop :=
  match s.me.firstFail (sizeBits e.size) true e.addrs with
  | none => exec i s = .next { s'.modMe (fun x => { x with saq := x.saq ++ [e] }) with seq := s.seq + 1 }
  | some (.notPresent x) => RewindsNp i s x
  | some (.misaligned _) => TrapsAt i s u 0x02 6
  | some (.bounds a) => EndsFatal i s u 0x20 a
/-- The store that joins the queue now. -/
def State.newStore (s : State) (op : AgOp) (size : Size) (base stride : Word) (ix : VWord) (addrs : List Word) : SaqE :=
  { id := s.seq, op := op, size := size, base := base, stride := stride, idx := ix, addrs := addrs, leg := s.me.legNo,
    stamp := s.srs s.me, issue := s.cycle }
/-- The head of IXQ taken. -/
def State.popsIxq (s : State) : State :=
  s.modMe fun x => { x with leg := { x.leg with ixq := x.leg.ixq.tail }, freed := x.freed ++ [(.ixq, s.cycle + 2)] }
/-- The addresses of a strided access (R338). -/
def strided (base stride : Word) (n : Nat) : List Word := (List.range n).map fun k => base + BitVec.ofNat 64 k * stride
/-- The addresses of an indexed access of e-bit elements (R338): the index entries are 32 bits, or 64 for wider elements, and count
elements. -/
def indexed (base : Word) (ix : VWord) (size : Size) : List Word :=
  let w := max (sizeBits size) 32
  (List.range (1024 / w)).map fun k => base + BitVec.ofNat 64 (ix.toNat / 2 ^ (w * k) % 2 ^ w * sizeBits size / 8)

/-! ### Tiles -/

/-- Operand n of an AT-slot operation, register i, names the defined tile w with entry e (R214, R216), which no other slot of this cycle
has touched: both as its issue checks see it and as it stands (R217). -/
def NamesTile (s : State) (n : Nat) (i : RegIx) (w : TileId) (e : Tile) : Prop :=
  s.me.tileId (s.atOp n i) = some w ∧ s.tileSeen s.cur.run w = some e ∧ s.tile s.cur.run w = some e ∧ e.resv = false
/-- A tile that may be a destination (R217). -/
def FreeTile (e : Tile) : Prop := e.state = .empty ∨ e.state = .ready ∧ e.rdr = 0
/-- A tile that may be stored out (R217). -/
def OutTile (e : Tile) : Prop := (e.state = .ready ∨ e.state = .draining) ∧ e.rdr < 15
/-- Every memory span of a tile command passes the check of R232. -/
def SpansOk (x : Runner) (l : List (Nat × Nat)) (wr : Bool) : Prop :=
  ∀ p ∈ l, ∃ i pa, checkExt x.extents p.1 p.2 (!wr) wr false = .ok i pa
/-- No span meets an entry that the Hamper holds for the current leg, or a store that has still to enter it (R275, R304). -/
def ClearOfHamper (s : State) (l : List (Nat × Nat)) : Prop :=
  (∀ h ∈ s.me.hamper, h.committed = false → ∀ z ∈ s.hamSpans s.cur.run h, ∀ p ∈ l, meets p.1 p.2 z.1 z.2 = false) ∧
  ∀ e ∈ s.me.saq, ∀ a ∈ e.addrs, ∀ p ∈ l, meets p.1 p.2 a.toNat (sizeBits e.size / 8) = false
/-- The Sprinter queue has an entry free (R271), beside those of the committed tile stores that go ahead of it (R274). -/
def SprRoom (s : State) : Prop :=
  s.me.spr.q.length + (s.me.hamper.filter fun h => h.committed && h.kind != .store).length < 16
/-- From s to t a command joined the Sprinter queue. -/
def SprJoins (s t : State) (c : SprCmd) : Prop :=
  t.cur = s.cur ∧ KeepsRegisters s t ∧ t.me.spr.q = s.me.spr.q ++ [c] ∧ t.me.hamper = s.me.hamper
/-- From s to t an entry joined the Hamper. -/
def HamJoins (s t : State) (h : HamE) : Prop :=
  KeepsRegisters s t ∧ t.me.hamper = s.me.hamper ++ [h] ∧ t.me.spr = s.me.spr
/-- What an AT-slot operation does when operand 0 names no defined tile (R64, R214). -/
def RefusesTile (i : Instr) (s : State) (u : Use) (r : RegIx) : Prop :=
  (s.me.tileId (s.atOp 0 r) = none → TrapsWhole i s u 0x02 2) ∧
  (∀ w, s.me.tileId (s.atOp 0 r) = some w → s.tileSeen s.cur.run w = none → TrapsWhole i s u 0x02 5)
/-- No store of an earlier bundle is unmatched: an AT-slot operation that ends the leg issues only then (R366). -/
def StoresMatched (s : State) : Prop := ∀ e ∈ s.me.saq, s.cycle ≤ e.issue
/-- The collective that joins the Relay queue now. -/
def State.newRelay (s : State) (i : Instr) (w : TileId) (m : Word) : RelCmd :=
  { id := s.seq, i := i, tile := w, mask := m, seqNo := agetD s.me.relay.seqs m.toNat 0, quar := s.me.quar, started := false,
    due := 0, rows := [] }
/-- A collective issues when its tile is a Basin tile of a format it takes, its mask names this runner among the squad's, and the
Relay queue has an entry free (R279): it joins the queue with the next number of its mask, of which a heat may use 64 (R386), and ends the
leg. -/
def CollectiveIssues (i : Instr) (s1 s2 : RegIx) : Prop :=
  ∀ (s : State) (u : Use) (w : TileId) (e : Tile), Executes i s u → HasRunner s s.cur.run → NamesTile s 0 s1 w e →
    w.lvl = .basin → ((colRed i).isSome → colFmt e.fmt = true) →
    let m := s.atOp 1 s2
    m ≠ 0 → m.toNat < 2 ^ s.squadSize s.me → m.getLsbD s.me.idx = true → FreeTile e → s.me.relay.q.length < 4 → StoresMatched s →
    aget s.me.relay.seqs m.toNat ≠ none ∨ s.me.relay.seqs.length < 64 →
    ∃ t, exec i s = .next t ∧ EndsLeg s t ∧ KeepsRegisters s t ∧ t.tile s.cur.run w = some { e with state := .filling } ∧
      t.me.relay.q = s.me.relay.q ++ [s.newRelay i w m] ∧
      agetD t.me.relay.seqs m.toNat 0 = (agetD s.me.relay.seqs m.toNat 0 + 1) % 2 ^ 32

/-! ### Strong accesses -/

/-- The state in which an entry has joined the strong path and the leg ends (R305, R366). -/
def State.strongJoins (s : State) (e : StrongE) : State :=
  { s.modMe (fun x => { x with strong := x.strong ++ [e] }) with seq := s.seq + 1, cur := { s.cur with endLeg := true } }
/-- The strong path has a place, and every store of an earlier bundle is matched. -/
def StrongRoom (s : State) : Prop := (s.me.strong.filter fun e => !isFence e.i).length < 16 ∧ StoresMatched s
/-- The next place of an LDQ reserved for a strong access. -/
def State.reserves (s : State) (one : Bool) : State :=
  s.modMe fun x => { x with leg := x.leg.modLdq one fun l => l ++ [reserved s.seq none false] }
/-- A strong access of n-byte elements at `addrs` issues: it joins as `t` says, or its first failing element traps, ends the heat or
rewinds the leg (R317). -/
def StrongIssues (i : Instr) (s : State) (u : Use) (rd wr : Bool) (n : Nat) (addrs : List Word) (t : State) : Prop :=
  match addrs.findSome? (s.me.strongFail rd wr n n) with
  | none => exec i s = .next t
  | some (.misaligned _) => TrapsAt i s u 0x02 6
  | some (.bounds a) => EndsFatal i s u 0x20 a
  | some (.notPresent x) => RewindsNp i s x

/-! ### Table operations -/

/-- The operation that holds the A slice from now on (R224, R246). -/
def State.newTable (s : State) (i : Instr) (s1 s2 : Word) (need : Nat) : TabOp :=
  { id := s.seq, i := i, s1 := s1, s2 := s2, pc := s.cur.pc, guards := s.cur.guards.getD 0, br := s.savedBr .a,
    marked := s.cur.marked, issue := s.cycle, img := [], need := need, applied := false, tries := 0, bad := false, done := none,
    stamp := s.srs s.me, saves := [] }
/-- An image of n bytes at a may be read (R246): it is in memory and passes the check of R232 as a read. -/
def ImageOk (x : Runner) (a : Word) (n : Nat) : Prop := isScratch a = false ∧ ∃ i pa, x.check a n true false false = .ok i pa
/-- A table operation with an image begins: it ends the leg, holds the A slice, and asks for its image. -/
def TableBegins (i : Instr) (s1 s2 : RegIx) (n : Nat) : Prop :=
  ∀ (s : State) (u : Use), Executes i s u → HasRunner s s.cur.run → StoresMatched s → ImageOk s.me (s.atOp 1 s2) n →
    ∃ t, exec i s = .next t ∧ EndsLeg s t ∧ KeepsRegisters s t ∧ t.me.tabop = some (s.newTable i (s.atOp 0 s1) (s.atOp 1 s2) n) ∧
      t.tabs.keys = s.tabs.keys ∧ t.tabs.quota = s.tabs.quota ∧ t.tabs.pleats = s.tabs.pleats

/-! ### Events -/

/-- A slice's result number n is still to land (R56), re-injected or not (R363). -/
def State.toLand (s : State) (r : Nat) (sl : Slice) (n : Nat) (re : Bool) : Option Pend :=
  ((s.rn r).sx sl).pend.find? fun p => p.seq == n && !p.landed && p.reinj == re
/-- The event `i` writes result n of a slice to its register once it is due; not before, and not during a rewind. -/
def LandsOnce (i : Instr) (r : Nat) (sl : Slice) (n : Nat) (re : Bool) : Prop :=
  ∀ (s : State) (p : Pend), HasRunner s r → s.toLand r sl n re = some p →
    (s.cycle < p.land → exec i s = .next s) ∧
    (p.land ≤ s.cycle → (s.rn r).rewind = none → ∃ t, exec i s = .next t ∧ t.cycle = s.cycle ∧ t.mem = s.mem ∧ t.tabs = s.tabs ∧
      t.fw = s.fw ∧ t.bnd = s.bnd ∧ (t.rn r).leg = ((s.rn r).land p).leg ∧ (∀ q ∈ ((t.rn r).sx sl).pend, q.seq = n → q.landed = true) ∧
      ∀ k, k ≠ r → t.rn k = s.rn k)
/-- A squad of the module. -/
def State.squadNo (s : State) (q : Nat) : Option Squad := s.fw.squads.find? fun z => z.id == q
/-- The cycle in which the last of some runners reached its exchange (R375). -/
def State.lastReached (s : State) (rs : List Nat) : Nat := (rs.filterMap fun r => (s.rn r).exchAt.map (·.2)).foldl max 0
/-- A store as it enters the Hamper with its data (R341). -/
def storeHam (x : Runner) (e : SaqE) (d : VqE) : HamE :=
  { id := e.id, kind := .store, size := e.size, base := e.base, stride := e.stride, idx := e.idx, addrs := e.addrs, data := d.data, i := .nop { sl := .a, pos := 0, g := { p := 0, neg := false } },
    tile := { lvl := .basin, idx := 0 }, addr := 0, row0 := 0, nonce := 0, committed := false, left := none, held := false, quar := x.quar,
    stamp := e.stamp, leg := e.leg, issue := e.issue, cno := 0, key := 0 }
/-- Entry n of a runner's strong path may be performed: it is not held, it has asked for its slots, and has had them all. -/
def StrongDue (s : State) (r : Nat) (e : StrongE) : Prop :=
  (s.rn r).strong.find? (fun z => z.id == e.id) = some e ∧ e.held = false ∧ e.elig ≠ none ∧ e.lane = 0 ∧
  ∀ q ∈ s.mem.reqs, q.use = .strong r e.id → q.start ≠ none
/-- The bytes of a strong access read without a failed line (R301). -/
def ReadsWell (s : State) (r : Nat) (a : Word) (n : Nat) : Prop := (s.physRead (strongPa (s.rn r) a n) n).2 = false
/-- The value that a strong access finds at its address. -/
def State.strongOld (s : State) (r : Nat) (a : Word) (n : Nat) : Nat := leNat (s.physRead (strongPa (s.rn r) a n) n).1
/-- From s to t entry e of runner r's strong path was performed, and wrote the low n bytes of v at its address, or nothing. -/
def StrongWrote (s t : State) (r : Nat) (e : StrongE) (n : Nat) (v : Option Nat) : Prop :=
  (∀ z ∈ (t.rn r).strong, z.id ≠ e.id) ∧
  t.mem.phys = match v with | some v => s.mem.phys.write (strongPa (s.rn r) e.s1 n) (natLe n v) | none => s.mem.phys
/-- From s to t the result v of entry e of runner r came to its place in the load data queues (R305). -/
def StrongGave (t : State) (r : Nat) (e : StrongE) (v : Nat) : Prop :=
  (∀ z ∈ (t.rn r).leg.ldq0, z.id = e.id → z.data = BitVec.ofNat 1024 v ∧ z.stain = e.stain) ∧
  ∀ z ∈ (t.rn r).leg.ldq1, z.id = e.id → z.data = BitVec.ofNat 1024 v ∧ z.stain = e.stain
/-- The race of a barrier arrival's access, if it has one (R312, R326). -/
def State.arrivalRace (s : State) (r : Nat) (c : SprCmd) : Option (Nat × Word) :=
  let x := s.rn r
  let h := (x.physOf c.s1 16).getD (16, 0)
  s.raceOf x c.s1 16 (x.granules h.1 (strongPa x c.s1 16) 16) true true
/-- A barrier object after an arrival (R326): ARRIVED counts it; the last one expected starts the count again and raises PHASE. -/
def arrivedBytes (b : List Byte) : List Byte :=
  let n := fieldLe b 8 4 + 1
  if n = fieldLe b 4 4 then b.take 8 ++ natLe 4 0 ++ natLe 4 (fieldLe b 12 4 % 2 ^ 16 + (fieldLe b 12 4 / 2 ^ 16 + 1) % 2 ^ 16 * 2 ^ 16)
  else b.take 8 ++ natLe 4 n ++ natLe 4 (fieldLe b 12 4)
/-- The race of a descriptor or image read of runner r, if it has one (R303, R312). -/
def State.tableReadRace (s : State) (r : Nat) (q : Req) : Option (Nat × Word) :=
  let x := s.rn r
  let h := (x.physOf q.va q.len).getD (16, 0)
  s.raceOf x q.va q.len (x.granules h.1 h.2 q.len) false false
/-- Slots of position p of a calendar begin in the four cycles of p in each lap of 256 (R290). -/
def State.position (s : State) : Nat := s.cycle % 256 / 4
/-- No word of any array has failed. -/
def NoErrors (s : State) : Prop := s.mem.failed = []
/-- The matrix command at the head of a compute queue, with its start. -/
def HeadMatrix (x : Runner) (c : PressCmd) (m : MatOp) (st : Nat) : Prop :=
  x.press.cq.head? = some c ∧ matOf c.i = some m ∧ c.start = some st
/-- Element (i, j) that K-block b of a matrix command makes (R197, R198). -/
def Press.blockElem (p : Press) (m : MatOp) (b i j : Nat) : FRes :=
  let a := p.slot m.a
  let w := p.slot m.w
  let t := accTag m.fmt
  let code := m.cseq / 2 ^ (2 * (b % 4)) % 4
  cellOp code t (p.acc t m.d i j) (blockOf code (slotBlock a (a.row i) (kBlock m.fmt) b) (slotBlock w (w.row j) (kBlock m.fmt) b))
/-- Row i that a member gave as its collective started: its bytes and its stain. -/
def Member.given (m : Member) (i : Nat) : List Byte × Bool := m.c.rows.getD i ([], false)
/-- Element j of row i reduced over some members in the order of their ranks, to nearest even at every step (R280). -/
def colElement (op : RedOp) (f : Fmt) (i j : Nat) (ms : List Member) : FRes :=
  let el (m : Member) : FRes := FRes.of (elemAt (leNat (m.given i).1) (fmtBits f) j)
  match ms with
  | [] => FRes.of 0
  | m :: l => l.foldl (fun a z => redStep op f .rne a (el z)) (el m)
/-- A row of the reduction of some members' rows i at member z: every element reduced, the bytes beyond them as they were; stained where a
member's row was, or, under the issuing runner's QUAR, where an element meets R106 (R280). -/
def ColReduces (op : RedOp) (ms : List Member) (z : Member) (i : Nat) (bs : List Byte) (st : Bool) : Prop :=
  let f := z.e.fmt
  let n := kOf f z.e.pitch
  let w := fmtBits f
  (∀ j < n, elemAt (leNat bs) w j = (colElement op f i j ms).v % 2 ^ w) ∧ leNat bs / 2 ^ (n * w) = leNat (z.given i).1 / 2 ^ (n * w) ∧
  (st = true ↔ (∃ m ∈ ms, (m.given i).2 = true) ∨
    z.c.quar = true ∧ ∃ j < n, let x := colElement op f i j ms; x.inv = true ∨ x.dz = true ∨ x.ovf = true ∨ isSpecial f x.v = true)
/-- What row i of the member of rank q becomes in a collective: bytes and stain (R280). -/
def ColGives (ms : List Member) (q i : Nat) (z : Member) (bs : List Byte) (st : Bool) : Prop :=
  let b := z.e.rows / ms.length
  bs.length = z.e.pitch ∧
  match z.c.i with
  | .calr o => ∀ op, colRed (.calr o) = some op → ColReduces op ms z i bs st
  | .crsc o => ∀ op, colRed (.crsc o) = some op → ColReduces op ms z i bs st
  | .caga _ => (ms[i / b]?).map (·.given i) = some (bs, st)
  | .ca2a _ => (ms[i / b]?).map (·.given (q * b + i % b)) = some (bs, st)
  | _ => ms.head?.map (·.given i) = some (bs, st)
/-- A row that a collective leaves unchanged: that of a single member, and outside its own part a row of CRSC. -/
def ColKeeps (ms : List Member) (q i : Nat) (z : Member) : Prop :=
  let b := z.e.rows / ms.length
  ms.length ≤ 1 ∨ (∃ o, z.c.i = .crsc o) ∧ ¬(q * b ≤ i ∧ i < (q + 1) * b)
/-- A queue's entries that are due seen by the popping slice (R332). -/
def shownLeg (l : Leg) (q : QName) (now : Nat) : Leg :=
  match q with
  | .sdq => { l with sdq := l.sdq.map fun e => if e.due ≤ now then { e with shown := true } else e }
  | .ixq => { l with ixq := l.ixq.map fun e => if e.due ≤ now then { e with shown := true } else e }
  | .caq => { l with caq := l.caq.map fun e => if e.due ≤ now then { e with shown := true } else e }
  | .acq => { l with acq := l.acq.map fun e => if e.due ≤ now then { e with shown := true } else e }
  | _ => l
/-- A patch copied into the half that was idle as its copy began (R239). -/
def intoIdle (m : IMem) (c : PatchCopy) (b : Memory) : IMem :=
  if c.half1 then { m with half1 := some c.patch, bytes1 := b, copy := none } else { m with half0 := some c.patch, bytes0 := b, copy := none }
/-- A slice's registers with a longer wait. -/
def waitMore (t : Strm) (n : Nat) : Strm := { t with wait := t.wait + n }

/-! ### Table operations and rounds of firmware -/

/-- The table operation t of runner r has its image and may take effect. -/
def TableReady (s : State) (r : Nat) (t : TabOp) : Prop :=
  HasRunner s r ∧ (s.rn r).tabop = some t ∧ (∀ q ∈ s.mem.reqs, q.use ≠ .table r) ∧ (s.rn r).stopReq = false ∧ t.need ≤ t.img.length ∧
  t.bad = false ∧ t.applied = false ∧ s.tableBlocked (s.rn r) t = false
/-- The rules of R252 for the fields of a valid pleat. -/
def Pleat.Fits (p : Pleat) : Prop :=
  let u := p.chans.length * 2 ^ (p.gran + 8)
  p.gran ≤ 8 ∧ 0 < p.len ∧ p.chans ≠ [] ∧ 2 ^ 21 ∣ p.pbase ∧ 2 ^ 21 ∣ p.len ∧ u ∣ p.pbase ∧ u ∣ p.len ∧ p.len ≤ p.chans.length * 0x78000000 ∧
  p.pbase + p.len ≤ hbmBytes
/-- No other valid pleat overlaps a pleat, or shares a channel with it where one of them is owned (R252). -/
def Pleat.Apart (t : Tables) (ix : Nat) (p : Pleat) : Prop :=
  ∀ z ∈ t.pleats, z.1 ≠ ix → meets p.pbase p.len z.2.pbase z.2.len = false ∧
    (p.owner ≠ 0x7FF ∨ z.2.owner ≠ 0x7FF → ∀ c ∈ p.chans, c ∉ z.2.chans)
/-- Every mapped page of the entry that stands at an index decodes the same under p (R252). -/
def Pleat.DecodesAs (t : Tables) (ix : Nat) (p : Pleat) : Prop :=
  ∀ q, aget t.pleats ix = some q → ∀ e ∈ t.leaves, meets e.pa e.size q.pbase q.len = true →
    p.pbase ≤ e.pa ∧ e.pa + e.size ≤ p.pbase + p.len ∧ ∀ i < e.size / 256, p.decode (e.pa + 256 * i) = q.decode (e.pa + 256 * i)
/-- From s to t the next lap gives an owner some positions of some channels; the positions held and the other due ones stay (R253, R266). -/
def Redue (s t : State) (own : Nat) (at_ : Nat → Nat → Prop) : Prop :=
  t.runners = s.runners ∧ t.mem.phys = s.mem.phys ∧ ∀ c k, (t.chan c).hold = (s.chan c).hold ∧ (t.chan c).own = (s.chan c).own ∧
    (at_ c k → aget (t.chan c).due k = some own) ∧ (¬at_ c k → aget (t.chan c).due k = aget (s.chan c).due k)
/-- A state with a changed table set. -/
def State.withTables (s : State) (t : Tables) : State := { s with tabs := t }

/-! ### Packets -/

/-- A command that takes time was started for packet p, and answers to `f`. -/
def Started (t : State) (p : Pkt) (f : Cmd → Prop) : Prop := ∃ c ∈ t.fw.cmds, c.pkt = p ∧ f c
/-- Every page of an owner's table has a size, and commands are numbered below the next fresh number. -/
def OrderlyModule (s : State) : Prop :=
  (∀ l ∈ s.tabs.leaves, 0 < l.size) ∧ (∀ c ∈ s.fw.cmds, c.id < s.seq) ∧
  ∀ q ∈ s.mem.reqs, (match q.use with | .fw k _ => decide (k < s.seq) | _ => true) = true
/-- The requests of firmware for a whole page, 256 bytes each, under a command's number: they wait for slots of its channels (R289, R291). -/
def PageAsked (t : State) (id o pa n : Nat) : Prop :=
  ∀ b, pa ≤ b → b < pa + n → 256 ∣ b → ∃ q ∈ t.mem.reqs, q.pa = b ∧ q.len = 256 ∧ q.write = true ∧ q.use = .fw id o ∧ q.chan = t.chanOf b
/-- The commands at work, and the one that is next to go on: command n. -/
def GoesOn (s : State) (n : Nat) (c : Cmd) : Prop := s.fw.cmds.find? (fun d => d.id == n) = some c

/-! ### Memories -/

/-- Every memory of the module is in canonical form: main memory, the Basins, the Tubs and the Vats, and the Basins of saved images. -/
def State.MemoriesWf (s : State) : Prop :=
  s.mem.phys.wf = true ∧ (∀ x ∈ s.runners, x.basin.wf = true) ∧ (∀ e ∈ s.mem.tub, e.2.wf = true) ∧ (∀ e ∈ s.mem.vat, e.2.wf = true) ∧
  ∀ i ∈ s.fw.images, i.run.basin.wf = true

/-! ### The boundary -/

/-- The last thing sent out of the module. -/
def LastOut (t : State) (m : OutMsg) : Prop := ∃ l, t.bnd.out = l ++ [m]
/-- A request comes through a mailbox that exists, of a requester with negotiated algorithms. -/
def Negotiated (s : State) (m : SpdmMsg) : Prop := s.boxOpen m = true ∧ s.bnd.negotiated.contains (boxKey m) = true
/-- Whether IDE keys are managed now: no image was refused, and the message comes over a secured session of the PF (R438, R439). -/
def KeysOpen (s : State) (k : IdeKm) : Bool :=
  s.bnd.refused.isNone && s.bnd.spdm.any fun z => z.id == k.session && z.fin && z.func == some 0
/-- A handshake message comes on the port of an attempt at step n, checks out, and names the peer. -/
def RigalStep (s : State) (m : RigalMsg) (z : Rigal) (n : Nat) : Prop :=
  s.rigalOn m.port = some z ∧ z.isOpen = false ∧ z.step = n ∧ m.ok = true ∧ m.modid = z.peer ∧ (s.bnd.rigal.map (·.peer)).Nodup
/-- The attempts and sessions with a peer. -/
def State.rigalWith (s : State) (peer : Nat) : Option Rigal := s.bnd.rigal.find? fun z => z.peer == peer

/-! ### Steps -/

/-- The guards of slots 1 to 3 recorded as they are read now (R43). -/
def State.withGuards (s : State) (us : List Use) : State := { s with cur := { s.cur with guards := some (s.guardsNow us) } }
/-- A decoded bundle without a header may issue: no re-entry, no illegal slot, no RFT outside a handler, its guards settled, its interlock and its queues ready,
and no slot holds it or stops it whole (R47, R57, R58, R332, R354). -/
def BundleGoes (s : State) (sl : Slice) (l : List Instr) : Prop :=
  let ds : List (Except Illegal Instr) := l.map .ok
  let us := usesFrom s.me ds 0
  let on := us.filter fun u => (s.withGuards us).guardOf u
  s.cur.st = .ok ∧ s.cur.reent = false ∧ (s.me.st sl).reentry = none ∧ (∀ i ∈ l, isHeaderOp i = false) ∧ s.strayRft sl ds = some false ∧
  bundleErr s.me sl ds false = none ∧ s.me.guardsSettled sl us = true ∧ s.me.unlocked sl on = true ∧ s.me.queuesReady sl on = true ∧
  firstHold exec (fun z => z == .wait || z == .bound) (s.withGuards us) ds = none ∧
  firstHold exec (fun z => z == .whole) (s.withGuards us) ds = none ∧ firstHold exec (fun z => z == .np) (s.withGuards us) ds = none

end Sys2Proof.Machine
end

