-- ==== Sys2Proof/Certificates/Slice0/Obligations.lean ====
section
/-! DEFINITION. The statements about the machine: what each instruction does, what taking a trap saves, what every step keeps. -/

open Sys2Proof
open Sys2Proof.Machine

/-! ### The scalar slots -/

/-- R128, R129, R130, R131, R132, R133, R134, R115: the integer operations of both slices complete in every bundle that executes them. Each puts its
result, with the poison of its operands, in flight to the register that D names now, to land within its latency; nothing else changes. Multiply
lands within 3 cycles, divide within 24, with the edge cases of division. EXTR and INS are stated for the fields that fit in 64 bits, LIH for the
pieces it can name: the others are no instructions. Select, compares and predicate logic likewise; a compare of a poisoned register raises
POISON_USE instead. -/
def Obligations.ScalarArithmetic : Prop :=
  Binary .add 1 (fun x y => BitVec.ofNat 64 (x.toNat + y.toNat)) ∧
  Binary .sub 1 (fun x y => BitVec.ofInt 64 ((x.toNat : Int) - y.toNat)) ∧
  Binary .and 1 (fun x y => x &&& y) ∧ Binary .or 1 (fun x y => x ||| y) ∧ Binary .xor 1 (fun x y => x ^^^ y) ∧
  Binary .shl 1 (fun x y => BitVec.ofNat 64 (x.toNat * 2 ^ (y.toNat % 64))) ∧
  Binary .shr 1 (fun x y => BitVec.ofNat 64 (x.toNat / 2 ^ (y.toNat % 64))) ∧
  Binary .sar 1 (fun x y => BitVec.ofInt 64 (x.toInt / 2 ^ (y.toNat % 64))) ∧
  Binary .rol 1 (fun x y => (x <<< (y.toNat % 64)) ||| (x >>> (64 - y.toNat % 64))) ∧
  Binary .min 1 (fun x y => if x.toInt < y.toInt then x else y) ∧
  Binary .max 1 (fun x y => if x.toInt < y.toInt then y else x) ∧
  Binary .minz 1 (fun x y => if x.toNat < y.toNat then x else y) ∧
  Binary .maxz 1 (fun x y => if x.toNat < y.toNat then y else x) ∧
  Binary .mul 3 (fun x y => BitVec.ofNat 64 (x.toNat * y.toNat)) ∧
  Binary .mulh 3 (fun x y => BitVec.ofInt 64 (x.toInt * y.toInt / 2 ^ 64)) ∧
  Binary .mulhz 3 (fun x y => BitVec.ofNat 64 (x.toNat * y.toNat / 2 ^ 64)) ∧
  Binary .div 24 (fun x y => if y = 0 then BitVec.ofInt 64 (-1) else BitVec.ofInt 64 (x.toInt.tdiv y.toInt)) ∧
  Binary .divz 24 (fun x y => if y = 0 then BitVec.ofInt 64 (-1) else BitVec.ofNat 64 (x.toNat / y.toNat)) ∧
  Binary .rem 24 (fun x y => if y = 0 then x else BitVec.ofInt 64 (x.toInt.tmod y.toInt)) ∧
  Binary .remz 24 (fun x y => if y = 0 then x else BitVec.ofNat 64 (x.toNat % y.toNat)) ∧
  Unary .mov (fun x => x) ∧
  Unary .not (fun x => BitVec.ofNat 64 (2 ^ 64 - 1 - x.toNat)) ∧
  Unary .clz (fun x => BitVec.ofNat 64 ((List.range 64).takeWhile fun k => !x.getLsbD (63 - k)).length) ∧
  Unary .ctz (fun x => BitVec.ofNat 64 ((List.range 64).takeWhile fun k => !x.getLsbD k).length) ∧
  Unary .popc (fun x => BitVec.ofNat 64 ((List.range 64).countP x.getLsbD)) ∧
  Unary .bswap (fun x => x.extractLsb' 0 8 ++ x.extractLsb' 8 8 ++ x.extractLsb' 16 8 ++ x.extractLsb' 24 8
    ++ x.extractLsb' 32 8 ++ x.extractLsb' 40 8 ++ x.extractLsb' 48 8 ++ x.extractLsb' 56 8) ∧
  WithImm .addi (fun x m => x + m) ∧ WithImm .andi (fun x m => x &&& m) ∧
  WithImm .ori (fun x m => x ||| m) ∧ WithImm .xori (fun x m => x ^^^ m) ∧
  WithCount .shli (fun x n => BitVec.ofNat 64 (x.toNat * 2 ^ n)) ∧
  WithCount .shri (fun x n => BitVec.ofNat 64 (x.toNat / 2 ^ n)) ∧
  WithCount .sari (fun x n => BitVec.ofInt 64 (x.toInt / 2 ^ n)) ∧
  (∀ (o : RField) (s : State) (u : Use), (Instr.extr o).wellFormed → Executes (.extr o) s u →
    ∃ t v, exec (.extr o) s = .next t ∧
      Issues s t o.sl 0 1 (scalPend (s.me.scal o.sl o.d) v (s.rdPoison o.sl 0 0 o.s1)) ∧
      ∀ k < 64, v.getLsbD k = (decide (k ≤ o.len1.toNat) && (s.rd o.sl 0 0 o.s1).getLsbD (o.pos.toNat + k))) ∧
  (∀ (o : RField) (s : State) (u : Use), (Instr.ins o).wellFormed → Executes (.ins o) s u →
    ∃ t v, exec (.ins o) s = .next t ∧
      Issues s t o.sl 0 1 (scalPend (s.me.scal o.sl o.d) v (s.rdPoison o.sl 0 0 o.s1 || s.rdPoison o.sl 0 1 o.d)) ∧
      ∀ k < 64, v.getLsbD k = if o.pos.toNat ≤ k ∧ k ≤ o.pos.toNat + o.len1.toNat
        then (s.rd o.sl 0 0 o.s1).getLsbD (k - o.pos.toNat) else (s.rd o.sl 0 1 o.d).getLsbD k) ∧
  (∀ (o : LiO) (s : State) (u : Use), Executes (.li o) s u → ∃ t, exec (.li o) s = .next t ∧
    Issues s t o.sl 0 1 (scalPend (s.me.scal o.sl o.d) (BitVec.ofInt 64 o.imm.toInt) false)) ∧
  (∀ (o : LihO) (s : State) (u : Use), (Instr.lih o).wellFormed → Executes (.lih o) s u →
    ∃ t v, exec (.lih o) s = .next t ∧
      Issues s t o.sl 0 1 (scalPend (s.me.scal o.sl o.d) v (s.rdPoison o.sl 0 0 o.d)) ∧
      ∀ k < 64, v.getLsbD k = if 12 * o.k.toNat ≤ k ∧ k < 12 * o.k.toNat + 12
        then o.imm.getLsbD (k - 12 * o.k.toNat) else (s.rd o.sl 0 0 o.d).getLsbD k) ∧
  (∀ (o : SelO) (s : State) (u : Use), Executes (.sel o) s u → ∃ t, exec (.sel o) s = .next t ∧
    Issues s t o.sl 0 1 (if (s.readV o.sl 0 2 (s.me.pred o.sl o.q)).getLsbD 0
      then scalPend (s.me.scal o.sl o.d) (s.rd o.sl 0 0 o.s1) (s.rdPoison o.sl 0 0 o.s1)
      else scalPend (s.me.scal o.sl o.d) (s.rd o.sl 0 1 o.s2) (s.rdPoison o.sl 0 1 o.s2))) ∧
  (∀ (o : CmpO) (s : State) (u : Use), Executes (.cmp o) s u → Unpoisoned s u → ∃ t, exec (.cmp o) s = .next t ∧
    Issues s t o.sl 0 1 (predPend (s.me.pred o.sl (o.d.setWidth 4))
      (let x := s.rd o.sl 0 0 o.s1
       let y := s.rd o.sl 0 1 o.s2
       if o.w32 then ccRelates o.cc (ccNumber o.cc (x.setWidth 32)) (ccNumber o.cc (y.setWidth 32))
       else ccRelates o.cc (ccNumber o.cc x) (ccNumber o.cc y)))) ∧
  (∀ (o : CmpiO) (s : State) (u : Use), Executes (.cmpi o) s u → Unpoisoned s u → ∃ t, exec (.cmpi o) s = .next t ∧
    Issues s t o.sl 0 1 (predPend (s.me.pred o.sl (o.d.setWidth 4))
      (ccRelates o.cc (ccNumber o.cc (s.rd o.sl 0 0 o.s1)) (ccNumber o.cc o.imm)))) ∧
  PredLogic .pand (fun a b => a && b) ∧ PredLogic .por (fun a b => a || b) ∧ PredLogic .pxor (fun a b => a ^^ b) ∧
  PredLogic1 .pnot (fun a => !a) ∧ PredLogic1 .pmov (fun a => a) ∧ (∀ o, PoisonTraps (.cmp o)) ∧ (∀ o, PoisonTraps (.cmpi o))

/-- R135, R136, R346, R347, R119, R120: the branches complete with three delay slots to come, and with the target they take, or none; CALL and CALLR
put their link in flight. A register branch to a misaligned target is ILLEGAL_OPERAND at its slot (R52), with DETAIL 2; that the trap is the
slot's own and its DETAIL are the model's choice: log entry 87. BRC, LOOPSET and the register branches raise POISON_USE on a poisoned register
(R115). What LOOPSET and LOOPB write lands together in the next cycle, as `loopRes` says; with lc = 0, LOOPB changes nothing and is not taken. -/
def Obligations.BranchesAndLoops : Prop :=
  (∀ (o : BrO) (s : State) (u : Use), Executes (.br o) s u →
    exec (.br o) s = .next (s.branches (some (s.offsetTo o.off)))) ∧
  (∀ (o : BrO) (s : State) (u : Use), Executes (.call o) s u → ∃ t, exec (.call o) s = .next (t.branches (some (s.offsetTo o.off))) ∧
    Issues s t o.sl 0 1 (scalPend (s.me.scal o.sl 15) (s.cur.pc + 64) false)) ∧
  (∀ (o : BrcO) (s : State) (u : Use), Executes (.brc o) s u → Unpoisoned s u →
    exec (.brc o) s = .next (s.branches
      (if bcHolds o.cond (s.rd o.sl 0 0 o.s1).toInt then some (s.offsetTo o.off) else none))) ∧
  (∀ (o : S1O) (s : State) (u : Use), Executes (.brr o) s u → Unpoisoned s u → (s.rd o.sl 0 0 o.s1).toNat % 16 = 0 →
    exec (.brr o) s = .next (s.branches (some (s.rd o.sl 0 0 o.s1)))) ∧
  (∀ (o : S1O) (s : State) (u : Use), Executes (.ret o) s u → Unpoisoned s u → (s.rd o.sl 0 0 o.s1).toNat % 16 = 0 →
    exec (.ret o) s = .next (s.branches (some (s.rd o.sl 0 0 o.s1)))) ∧
  (∀ (o : R2) (s : State) (u : Use), Executes (.callr o) s u → Unpoisoned s u → (s.rd o.sl 0 0 o.s1).toNat % 16 = 0 →
    ∃ t, exec (.callr o) s = .next (t.branches (some (s.rd o.sl 0 0 o.s1))) ∧
      Issues s t o.sl 0 1 (scalPend (s.me.scal o.sl o.d) (s.cur.pc + 64) false)) ∧
  (∀ (o : ChkO) (s : State) (u : Use), Executes (.chk o) s u →
    exec (.chk o) s = .next (s.branches
      (if s.readPoison .c 0 0 (match o.file with | .g => s.me.scal .c o.s1 | .va => s.me.vreg .va o.s1 | .vb => s.me.vreg .vb o.s1)
       then some (s.offsetTo o.off) else none))) ∧
  (∀ (o : BrqO) (s : State) (u : Use) (e : SqE) (q : List SqE), Executes (.brq o) s u → s.me.leg.caq = e :: q →
    ∃ t, exec (.brq o) s = .next (t.branches (if bcHolds o.cond e.val.toInt then some (s.offsetTo o.off) else none)) ∧
      t = s.modMe fun x => { x with
        leg := { x.leg with caq := x.leg.caq.tail }, freed := x.freed ++ [(.caq, s.cycle + 2)], lod := x.lod + 1 }) ∧
  (∀ (o : LoopsetO) (s : State) (u : Use), Executes (.loopset o) s u → Unpoisoned s u → ∃ t, exec (.loopset o) s = .next t ∧
    let n := (s.rd o.sl 0 0 o.s1).toNat % 2 ^ 32
    Issues s t o.sl 0 1 (loopRes o.sl (if n = 0 then 0 else min (n + o.ds.toNat) (2 ^ 32 - 1)) n 0 0
      (if n = 0 then 0 else 1) 0xFF)) ∧
  (∀ (o : BrO) (s : State) (u : Use), Executes (.loopb o) s u → (s.me.st o.sl).lc = 0 →
    exec (.loopb o) s = .next (s.branches none)) ∧
  (∀ (o : BrO) (s : State) (u : Use), Executes (.loopb o) s u → (s.me.st o.sl).lc ≠ 0 →
    let t := s.me.st o.sl
    let lfc := t.lfc.toNat - 1
    let p := (t.prot.toNat + 7) % 8
    ∃ t', exec (.loopb o) s = .next (t'.branches (if t.lc = 1 then none else some (s.offsetTo o.off))) ∧
      Issues s t' o.sl 0 1 (loopRes o.sl (t.lc.toNat - 1) lfc ((t.rot.toNat + 15) % 16) p (if lfc = 0 then 0 else 2 ^ p) (2 ^ p))) ∧
  (∀ (o : S1O) (s : State) (u : Use), Executes (.brr o) s u → (s.rd o.sl 0 0 o.s1).toNat % 16 ≠ 0 → TrapsAt (.brr o) s u 0x02 2) ∧
  (∀ (o : S1O) (s : State) (u : Use), Executes (.ret o) s u → (s.rd o.sl 0 0 o.s1).toNat % 16 ≠ 0 → TrapsAt (.ret o) s u 0x02 2) ∧
  (∀ (o : R2) (s : State) (u : Use), Executes (.callr o) s u → (s.rd o.sl 0 0 o.s1).toNat % 16 ≠ 0 → TrapsAt (.callr o) s u 0x02 2) ∧
  (∀ (o : S1O) (s : State) (u : Use) (d : Dst), Executes (.brr o) s u → (s.rd o.sl 0 0 o.s1).toNat % 16 = 0 → FirstPoisoned s u d →
    TrapsAt (.brr o) s u 0x07 (dstDetail d)) ∧
  (∀ (o : S1O) (s : State) (u : Use) (d : Dst), Executes (.ret o) s u → (s.rd o.sl 0 0 o.s1).toNat % 16 = 0 → FirstPoisoned s u d →
    TrapsAt (.ret o) s u 0x07 (dstDetail d)) ∧
  (∀ (o : R2) (s : State) (u : Use) (d : Dst), Executes (.callr o) s u → (s.rd o.sl 0 0 o.s1).toNat % 16 = 0 → FirstPoisoned s u d →
    TrapsAt (.callr o) s u 0x07 (dstDetail d)) ∧
  (∀ o, PoisonTraps (.brc o)) ∧ (∀ o, PoisonTraps (.loopset o))

/-- R138, R139, R127: the copies between register files, latency 2. XTOV writes one 64-bit element and joins the poison, the whole-register copies
take stain and poison with them, and the copies into the other slice land in cycle c + 2 exactly. A system register read has latency 2 and gives
the register's value; of XCNT, which an exchange of this cycle may just have moved, it gives the count with which the cycle began (R375; a reading
of the model, log entry 13). A write lands in the next cycle. XTOA and CSRW of a poisoned register raise POISON_USE (R115, R345). -/
def Obligations.CopiesAndSystemRegisters : Prop :=
  (∀ (o : CopyO) (s : State) (u : Use), Executes (.xtovVa o) s u → ∃ t, exec (.xtovVa o) s = .next t ∧
    Issues s t .c 0 2 (elementPend (s.me.vreg .va o.d) o.e.toNat (s.rd .c 0 0 o.s1) (s.rdPoison .c 0 0 o.s1))) ∧
  (∀ (o : CopyO) (s : State) (u : Use), Executes (.xtovVb o) s u → ∃ t, exec (.xtovVb o) s = .next t ∧
    Issues s t .c 0 2 (elementPend (s.me.vreg .vb o.d) o.e.toNat (s.rd .c 0 0 o.s1) (s.rdPoison .c 0 0 o.s1))) ∧
  (∀ (o : CopyO) (s : State) (u : Use), Executes (.vtoxVa o) s u → ∃ t, exec (.vtoxVa o) s = .next t ∧
    let d := s.me.vreg .va o.s1
    Issues s t .c 0 2 (scalPend (s.me.scal .c o.d) (BitVec.ofNat 64 ((s.readV .c 0 0 d).toNat / 2 ^ (64 * o.e.toNat)))
      (s.readPoison .c 0 0 d))) ∧
  (∀ (o : CopyO) (s : State) (u : Use), Executes (.vtoxVb o) s u → ∃ t, exec (.vtoxVb o) s = .next t ∧
    let d := s.me.vreg .vb o.s1
    Issues s t .c 0 2 (scalPend (s.me.scal .c o.d) (BitVec.ofNat 64 ((s.readV .c 0 0 d).toNat / 2 ^ (64 * o.e.toNat)))
      (s.readPoison .c 0 0 d))) ∧
  (∀ (o : GDS) (s : State) (u : Use), Executes (.vatovb o) s u → ∃ t, exec (.vatovb o) s = .next t ∧
    let d := s.me.vreg .va o.s1
    Issues s t .c 0 2 (vecPend (s.me.vreg .vb o.d) 1024 8 (s.readV .c 0 0 d) (s.readStain .c 0 0 d) (s.readPoison .c 0 0 d))) ∧
  (∀ (o : GDS) (s : State) (u : Use), Executes (.vbtova o) s u → ∃ t, exec (.vbtova o) s = .next t ∧
    let d := s.me.vreg .vb o.s1
    Issues s t .c 0 2 (vecPend (s.me.vreg .va o.d) 1024 8 (s.readV .c 0 0 d) (s.readStain .c 0 0 d) (s.readPoison .c 0 0 d))) ∧
  (∀ (o : GDS) (s : State) (u : Use), Executes (.xtoa o) s u → Unpoisoned s u →
    exec (.xtoa o) s = .next (s.issued .c 0 2 (s.cycle + 2)
      { Pend.of (.a (s.me.leg.s.phys o.d)) ((s.rd .c 0 0 o.s1).setWidth 1024) with cross := true })) ∧
  (∀ (o : GDS) (s : State) (u : Use), Executes (.atox o) s u →
    exec (.atox o) s = .next (s.issued .a 0 2 (s.cycle + 2)
      { scalPend (.g (s.me.leg.c.phys o.d)) (s.rd .a 0 0 o.s1) false with cross := true })) ∧
  (∀ (o : CsrrO) (s : State) (u : Use), Executes (.csrr o) s u → o.n ≠ 0x011 → ∃ t, exec (.csrr o) s = .next t ∧
    Issues s t .c 0 2 (scalPend (s.me.scal .c o.d) (s.me.csr o.n) false)) ∧
  (∀ (o : CsrrO) (s : State) (u : Use), Executes (.acsrr o) s u → o.n ≠ 0x011 → ∃ t, exec (.acsrr o) s = .next t ∧
    Issues s t .a 0 2 (scalPend (s.me.scal .a o.d) (s.me.csr o.n) false)) ∧
  (∀ (o : CsrrO) (s : State) (u : Use), Executes (.csrr o) s u → o.n = 0x011 → ∃ t, exec (.csrr o) s = .next t ∧
    Issues s t .c 0 2 (scalPend (s.me.scal .c o.d) ((s.preFold s.cur.run).2.leg.xcnt.setWidth 64) false)) ∧
  (∀ (o : CsrrO) (s : State) (u : Use), Executes (.acsrr o) s u → o.n = 0x011 → ∃ t, exec (.acsrr o) s = .next t ∧
    Issues s t .a 0 2 (scalPend (s.me.scal .a o.d) ((s.preFold s.cur.run).2.leg.xcnt.setWidth 64) false)) ∧
  (∀ (o : CsrwO) (s : State) (u : Use), Executes (.csrw o) s u → Unpoisoned s u →
    exec (.csrw o) s = .next (s.issued .c 0 1 (s.cycle + 1) (scalPend (.sys o.n) (s.rd .c 0 0 o.s1) false))) ∧
  (∀ (o : CsrwO) (s : State) (u : Use), Executes (.acsrw o) s u → Unpoisoned s u →
    exec (.acsrw o) s = .next (s.issued .a 0 1 (s.cycle + 1) (scalPend (.sys o.n) (s.rd .a 0 0 o.s1) false))) ∧
  (∀ o, PoisonTraps (.xtoa o)) ∧ (∀ o, PoisonTraps (.csrw o))

/-- R163, R333, R334: the queue pops and pushes. A pop takes a FILLED head without an error, whose place the other slice sees free two cycles later;
an entry pushed is seen by the other slice from then on. R343, R344: the pop of a FAULT head traps with the entry's cause and freezes the A slice,
or ends the heat with BOUNDS; that of a head with UE rewinds the leg. R345, R155: a push of a poisoned register raises POISON_USE. R349, R350:
QDRAIN discards every entry that an LDQ holds when all of them are FILLED or FAULT, and otherwise holds the A slice for it; what its own bundle
reserves after it stays; QSTAT samples a queue with its capacity, occupancy and readiness in their places. Points that the rules leave open are
the model's choice: log entries 20 and 21. -/
def Obligations.QueueOperations : Prop :=
  (∀ (o : GD) (s : State) (u : Use) (e : LdqE) (q : List LdqE), Executes (.movFromLdq0 o) s u → s.me.leg.ldq0 = e :: q →
    e.st = .filled → e.ue = false → ∃ t, exec (.movFromLdq0 o) s = .next t ∧
      Issues (s.popsLdq false) t .c 0 1 (scalPend (s.me.scal .c o.d) (e.data.setWidth 64) e.poison)) ∧
  (∀ (o : GD) (s : State) (u : Use) (e : LdqE) (q : List LdqE), Executes (.movFromLdq1 o) s u → s.me.leg.ldq1 = e :: q →
    e.st = .filled → e.ue = false → ∃ t, exec (.movFromLdq1 o) s = .next t ∧
      Issues (s.popsLdq true) t .c 0 1 (scalPend (s.me.scal .c o.d) (e.data.setWidth 64) e.poison)) ∧
  (∀ (o : VPop) (s : State) (u : Use) (e : LdqE) (q : List LdqE), Executes (.vmovFromLdq0 o) s u → s.me.leg.ldq0 = e :: q →
    e.st = .filled → e.ue = false → ∃ t, exec (.vmovFromLdq0 o) s = .next t ∧
      Issues (s.popsLdq false) t .c (vposNat o.v) 1 (vecPend (s.me.vreg o.v o.d) (wBits o.w) 8 e.data e.stain e.poison)) ∧
  (∀ (o : VPop) (s : State) (u : Use) (e : LdqE) (q : List LdqE), Executes (.vmovFromLdq1 o) s u → s.me.leg.ldq1 = e :: q →
    e.st = .filled → e.ue = false → ∃ t, exec (.vmovFromLdq1 o) s = .next t ∧
      Issues (s.popsLdq true) t .c (vposNat o.v) 1 (vecPend (s.me.vreg o.v o.d) (wBits o.w) 8 e.data e.stain e.poison)) ∧
  (∀ (o : GD) (s : State) (u : Use) (e : SqE) (q : List SqE), Executes (.popa o) s u → s.me.leg.acq = e :: q →
    ∃ t, exec (.popa o) s = .next t ∧
      Issues (s.modMe fun x => { x with leg := { x.leg with acq := x.leg.acq.tail }, freed := x.freed ++ [(.acq, s.cycle + 2)] })
        t .c 0 1 (scalPend (s.me.scal .c o.d) e.val false)) ∧
  (∀ (o : GS) (s : State) (u : Use), Executes (.pushc o) s u → Unpoisoned s u →
    exec (.pushc o) s = .next (s.modMe fun x => { x with leg := { x.leg with
      caq := x.leg.caq ++ [{ val := s.rd .c 0 0 o.s1, due := s.cycle + 2, shown := false }] } })) ∧
  (∀ (o : GS) (s : State) (u : Use), Executes (.qpush o) s u →
    exec (.qpush o) s = .next (s.modMe fun x => { x with leg := { x.leg with
      acq := x.leg.acq ++ [{ val := s.rd .a 0 0 o.s1, due := s.cycle + 2, shown := false }] } })) ∧
  (∀ (o : VS) (s : State) (u : Use), Executes (.vpushSdq o) s u → Unpoisoned s u →
    exec (.vpushSdq o) s = .next (s.modMe fun x => { x with leg := { x.leg with
      sdq := x.leg.sdq ++ [s.pushedVector o.v o.s1] } })) ∧
  (∀ (o : VS) (s : State) (u : Use), Executes (.vpushIxq o) s u → Unpoisoned s u →
    exec (.vpushIxq o) s = .next (s.modMe fun x => { x with leg := { x.leg with
      ixq := x.leg.ixq ++ [s.pushedVector o.v o.s1] } })) ∧
  (∀ (o : QDrainO) (s : State) (u : Use), Executes (.qdrain o) s u →
    exec (.qdrain o) s = .next { s.modMe (fun x =>
      if (∀ e ∈ x.leg.ldq o.ldq1, e.id < s.seq → e.st ≠ .reserved) then
        { x with
          leg := (if o.ldq1 then { x.leg with ldq1 := x.leg.ldq1.filter fun e => decide (s.seq ≤ e.id) }
            else { x.leg with ldq0 := x.leg.ldq0.filter fun e => decide (s.seq ≤ e.id) })
          qdrain := none }
      else { x with qdrain := some (o.ldq1, s.seq) }) with seq := s.seq + 1 }) ∧
  (∀ (o : QStatO) (s : State) (u : Use), Executes (.qstat o) s u → ∃ t v, exec (.qstat o) s = .next t ∧
    Issues s t .a 0 2 (scalPend (s.me.scal .a o.d) (BitVec.ofNat 64 v) false) ∧
    (s.me.occPush o.q < 2 ^ 8 → v / 2 ^ 16 % 2 ^ 8 = qCap o.q ∧
      (o.q = .acq ∨ o.q = .laq ∨ o.q = .saq → v % 2 ^ 8 = s.me.occPush o.q ∧ v / 2 ^ 8 % 2 ^ 8 = s.me.occPush o.q) ∧
      (o.q = .ldq0 ∨ o.q = .ldq1 → v % 2 ^ 8 = s.me.occPush o.q ∧ v / 2 ^ 8 % 2 ^ 8 = s.me.freedOf o.q + ldqReady (s.me.leg.ldq (o.q == .ldq1))) ∧
      (o.q = .sdq ∨ o.q = .ixq ∨ o.q = .caq → v % 2 ^ 8 = s.me.poppable o.q ∧ v / 2 ^ 8 % 2 ^ 8 = s.me.poppable o.q) ∧
      (o.q = .laq → v / 2 ^ 32 = s.me.slip + s.me.leg.lim.toNat * 2 ^ 8) ∧ (o.q = .caq → v / 2 ^ 32 = s.me.lod.toNat))) ∧
  (∀ o, PoisonTraps (.pushc o)) ∧ (∀ o, PoisonTraps (.vpushSdq o)) ∧ (∀ o, PoisonTraps (.vpushIxq o)) ∧
  (∀ o, PopStops (.movFromLdq0 o) false) ∧ (∀ o, PopStops (.movFromLdq1 o) true) ∧ (∀ o, PopStops (.vmovFromLdq0 o) false) ∧
  (∀ o, PopStops (.vmovFromLdq1 o) true)

/-- R42, R49, R51, R137, R142, R144, R145, R379: NOP and a header without a mark do nothing; WAIT holds the slice for n cycles; DONE ends it and drops
a pending branch; PREEMPT.ACK holds the C slice until a request. R55, R59: a mode mark that names the mode in force changes nothing; one that
names the other mode sets the slice's EXP bit once every result and engine command is over, and until then its bundle waits. R51, R239, R359,
R366, R375: the marks that are done at issue. `%leg` makes a leg boundary once no store is unmatched; `%exchange` passes at once when the runner
is alone and everything it issued has been performed; `%patch` starts the copy of the next patch into the half that is idle, which holds no patch
until the copy is complete (R18; log entry 67), unless it is resident or a copy is going on; a mark that has taken effect takes none when its
bundle is re-entered. Points that the rules leave open are the model's choice: log entries 16, 17, 44, 67 and 99. -/
def Obligations.ControlAndMarks : Prop :=
  (∀ (o : NopO) (s : State) (u : Use), Executes (.nop o) s u → exec (.nop o) s = .next s) ∧
  (∀ (o : HdrO) (s : State) (u : Use), Executes (.header o) s u → exec (.header o) s = .next s) ∧
  (∀ (o : HdrO) (s : State) (u : Use), Executes (.hint o) s u → exec (.hint o) s = .next s) ∧
  (∀ (o : WaitO) (s : State) (u : Use), Executes (.wait o) s u →
    exec (.wait o) s = .next (s.modMe fun x => x.modSt o.sl fun t => { t with wait := max t.wait (s.cycle + 1 + o.n.toNat) })) ∧
  (∀ (o : SysO) (s : State) (u : Use), Executes (.done o) s u → (o.sl = .c → NoPressException s) →
    exec (.done o) s = .next (s.modMe fun x => x.modSt o.sl fun t => { t with done := true, br := none })) ∧
  (∀ (o : GO) (s : State) (u : Use), Executes (.preemptAck o) s u →
    exec (.preemptAck o) s = .next (s.modMe fun x => x.modSt .c fun t => { t with acked := true })) ∧
  (∀ (o : HdrO) (s : State) (u : Use), Executes (.exposed o) s u →
    exec (.exposed o) s = .next (if (s.me.st o.sl).exposed = true then s
      else if s.me.engineIdle o.sl then s.modMe fun x => x.modSt o.sl fun t => { t with sw := t.sw ||| 4 }
      else { s with cur := { s.cur with st := .wait } })) ∧
  (∀ (o : HdrO) (s : State) (u : Use), Executes (.interlocked o) s u →
    exec (.interlocked o) s = .next (if (s.me.st o.sl).exposed = false then s
      else if s.me.engineIdle o.sl then s.modMe fun x => x.modSt o.sl fun t => { t with sw := t.sw &&& ~~~4 }
      else { s with cur := { s.cur with st := .wait } })) ∧
  (∀ (o : HdrO) (s : State) (u : Use), Executes (.leg o) s u → (s.me.st o.sl).marked = false →
    s.me.saq = [] → exec (.leg o) s = .next (s.boundary s.cur.run false (some o.sl))) ∧
  (∀ (o : HdrO) (s : State) (u : Use), Executes (.leg o) s u → (s.me.st o.sl).marked = false →
    s.me.saq ≠ [] → exec (.leg o) s = .next { s with cur := { s.cur with st := .wait } }) ∧
  (∀ (o : HdrO) (s : State) (u : Use), Executes (.exchange o) s u → (s.me.st o.sl).marked = false →
    s.me.exchAt = none → s.me.settled = true → s.me.hamper = [] → s.squadSize s.me ≤ 1 → ∃ t, exec (.exchange o) s = .next t ∧
      t = (s.modMe fun x => { x with leg := { x.leg with xcnt := x.leg.xcnt + 1 }, exchAt := none }).boundary
        s.cur.run true (some o.sl)) ∧
  (∀ (o : HdrO) (s : State) (u : Use), Executes (.exchange o) s u → (s.me.st o.sl).marked = false →
    s.me.exchAt = none → s.me.settled = true → s.me.hamper = [] → 1 < s.squadSize s.me → ∃ t, exec (.exchange o) s = .next t ∧
      t.cur.st = .wait ∧ t.runners = s.runners.map fun x => if x.num = s.cur.run then { x with exchAt := some (o.sl, s.cycle) } else x) ∧
  (∀ (o : HdrO) (s : State) (u : Use) (p : Patch) (q : Nat), Executes (.patch o) s u → (s.me.st o.sl).marked = false →
    aget (s.me.sx o.sl).im.tab (bits s.cur.pc.toNat 16 6) = some p → p.next = some q →
    let m := (s.me.sx o.sl).im
    if m.half0 = some q ∨ m.half1 = some q ∨ m.copy ≠ none then exec (.patch o) s = .next s
    else ∃ t fin n, exec (.patch o) s = .next t ∧ s.cycle < fin ∧ fin ≤ s.cycle + 640 + n ∧
      n = (match aget m.tab q with | some p => p.len | none => 0) ∧
      (let idle : IMem := if m.active1 then { m with half0 := none } else { m with half1 := none }
       t = { s.modMe fun x => x.modX o.sl fun y => { y with im := { idle with copy := some { patch := q, fin := fin, half1 := !m.active1 } } } with
        seq := s.seq + 1 })) ∧
  (∀ (o : HdrO) (s : State) (u : Use), (s.me.st o.sl).marked = true →
    (Executes (.leg o) s u → exec (.leg o) s = .next s) ∧ (Executes (.exchange o) s u → exec (.exchange o) s = .next s) ∧
    (Executes (.patch o) s u → exec (.patch o) s = .next s))

/-- R142, R145, R369, R373: TRAP takes its trap at slot 0 with RESUME 1; HALT, with no store unmatched, commits the Hamper and ends the heat with
status HALT; RWND rewinds the leg with cause 4. R143: RFT at a handler is a branch with three delay slots that ends in the return; a trap held in
the other slice is taken now (R357), and in the C slice what waits for it is let go (R200, R343). With HND = 0 it is ILLEGAL_BUNDLE, reason 10. -/
def Obligations.TrapHaltRewindReturn : Prop :=
  (∀ (o : TrapO) (s : State) (u : Use), Executes (.trap o) s u →
    ∃ t, exec (.trap o) s = .next { t with cur := { t.cur with st := .stopped } } ∧
      t = s.takeTrap s.cur.run o.sl { cause := 0x09, detail := o.code.setWidth 32, slot := 0, resume := 1, xaddr := 0, freeze := false }
        s.cur.pc (s.cur.guards.getD 0) (s.savedBr o.sl) s.cur.marked) ∧
  (∀ (o : SysO) (s : State) (u : Use), Executes (.halt o) s u → s.me.saq = [] →
    let b := s.boundary s.cur.run false none
    ∃ t, exec (.halt o) s = .next { t with cur := { t.cur with st := .stopped } } ∧
      t = b.endHeat (some b.cur.run) b.me.heatid (statusWord 0x0D 0 (o.sl == .a) b.cur.run b.cur.pc 0) 0) ∧
  (∀ (o : GO) (s : State) (u : Use), Executes (.rwnd o) s u →
    ∃ t, exec (.rwnd o) s = .next { t with cur := { t.cur with st := .stopped } } ∧ t = s.rewind s.cur.run 4 []) ∧
  (∀ (o : SysO) (s : State) (u : Use), Executes (.rft o) s u → (s.me.st o.sl).hnd = true →
    (s.me.sx (otherSlice o.sl)).st ≠ .trapHeld → ∃ t, exec (.rft o) s = .next t ∧
    t.cur = { s.cur with br := some { target := none, left := 3, rft := true } } ∧
    t.runners = s.runners.map (fun x => if x.num = s.cur.run ∧ o.sl = .c then x.releaseC s.cycle else x) ∧
    t.mem = s.mem ∧ t.tabs = s.tabs ∧ t.fw = s.fw ∧ t.bnd = s.bnd) ∧
  (∀ (o : SysO) (s : State) (u : Use) (p : PTrap) (v : Word), Executes (.rft o) s u → (s.me.st o.sl).hnd = true →
    let y := s.me.sx (otherSlice o.sl)
    y.st = .trapHeld → y.trap = some p → y.vector = some v → (s.me.st (otherSlice o.sl)).done = false →
    ∃ t, exec (.rft o) s = .next t ∧ t.cur = { s.cur with br := some { target := none, left := 3, rft := true } } ∧
    t.runners = s.runners.map (fun x => if x.num = s.cur.run then
      (let z := x.enterTrap (otherSlice o.sl) p (s.me.st (otherSlice o.sl)) v s.cycle
       if o.sl = .c then z.releaseC s.cycle else z) else x) ∧
    t.mem = s.mem ∧ t.tabs = s.tabs ∧ t.fw = s.fw ∧ t.bnd = s.bnd) ∧
  (∀ (o : SysO) (s : State) (u : Use), Executes (.rft o) s u → (s.me.st o.sl).hnd = false → ∃ t,
    exec (.rft o) s = .next { t with cur := { t.cur with st := .whole } } ∧
    ∃ m, m = s.takeTrap s.cur.run o.sl { cause := 0x01, detail := 10, slot := 0, resume := 0, xaddr := 0, freeze := false }
      s.cur.pc (s.cur.guards.getD 0) (s.savedBr o.sl) s.cur.marked ∧ t = { m with cur := { m.cur with st := .stopped } })

/-! ### The vector slots -/

/-- R84, R157: the integer arithmetic of the vector slots wraps, and its saturating forms go to the nearest value of the type. R157, R158: bitwise
logic, shifts and copies of a sign; a shift count of e or more leaves zeros, or copies of the sign. R160, R161, R162, R177: moves, sign and bit
operations, stains, seeds and constants; a seed from a poisoned register raises POISON_USE (R155). A floating-point constant is filled as R77
says, against R177's example: the model's choice, log entry 91. -/
def Obligations.VectorInteger : Prop :=
  Vector2 .vadd Fmt.isI 1 true (fun ty _ _ x y => lowBits ty (asInt ty x + asInt ty y)) ∧
  Vector2 .vaddsat Fmt.isI 1 true (fun ty _ _ x y => lowBits ty (nearest ty (asInt ty x + asInt ty y))) ∧
  Vector2 .vsub Fmt.isI 1 true (fun ty _ _ x y => lowBits ty (asInt ty x - asInt ty y)) ∧
  Vector2 .vsubsat Fmt.isI 1 true (fun ty _ _ x y => lowBits ty (nearest ty (asInt ty x - asInt ty y))) ∧
  Vector2 .vmullo Fmt.isI 3 true (fun ty _ _ x y => lowBits ty (asInt ty x * asInt ty y)) ∧
  Vector2 .vmulhi Fmt.isI 3 false (fun ty _ _ x y => lowBits ty (asInt ty x * asInt ty y / 2 ^ fmtBits ty)) ∧
  Vector2 .vmulhiz Fmt.isI 3 false (fun ty _ _ x y => lowBits ty (asInt ty x * asInt ty y / 2 ^ fmtBits ty)) ∧
  Vector2 .vmin Fmt.isI 1 true (fun ty _ _ x y => if asInt ty x ≤ asInt ty y then FRes.of x else FRes.of y) ∧
  Vector2 .vmax Fmt.isI 1 true (fun ty _ _ x y => if asInt ty x ≤ asInt ty y then FRes.of y else FRes.of x) ∧
  Vector2 .vavg Fmt.isI 1 false (fun ty _ _ x y => lowBits ty ((asInt ty x + asInt ty y + 1) / 2)) ∧
  Vector2 .vand Fmt.isI 1 false (fun _ _ _ x y => FRes.of (x &&& y)) ∧
  Vector2 .vor Fmt.isI 1 false (fun _ _ _ x y => FRes.of (x ||| y)) ∧
  Vector2 .vxor Fmt.isI 1 false (fun _ _ _ x y => FRes.of (x ^^^ y)) ∧
  Vector2 .vshl Fmt.isI 1 false (fun ty _ _ x c => FRes.of (if fmtBits ty ≤ c then 0 else x * 2 ^ c % 2 ^ fmtBits ty)) ∧
  Vector2 .vshr Fmt.isI 1 false (fun ty _ _ x c => FRes.of (if fmtBits ty ≤ c then 0 else x / 2 ^ c)) ∧
  Vector2 .vsar Fmt.isI 1 false (fun ty _ _ x c => lowBits ty (if fmtBits ty ≤ c then (if asInt ty x < 0 then -1 else 0)
    else asInt ty x / 2 ^ c)) ∧
  Vector2 .vcopysign Fmt.isF 1 false (fun ty _ _ x y => FRes.of (x % 2 ^ (fmtBits ty - 1) + y / 2 ^ (fmtBits ty - 1) * 2 ^ (fmtBits ty - 1))) ∧
  Vector3 .vsel 1 false (fun ty _ _ x y z => FRes.of (if 2 ^ (fmtBits ty - 1) ≤ z then x else y)) ∧
  Vector1 .vabs Fmt.isI 1 false (fun ty _ _ x => lowBits ty |asInt ty x|) ∧
  Vector1 .vabs Fmt.isF 1 false (fun ty _ _ x => FRes.of (x % 2 ^ (fmtBits ty - 1))) ∧
  Vector1 .vneg Fmt.isI 1 false (fun ty _ _ x => lowBits ty (-asInt ty x)) ∧
  Vector1 .vneg Fmt.isF 1 false (fun ty _ _ x => FRes.of (x ^^^ 2 ^ (fmtBits ty - 1))) ∧
  Vector1 .vnot Fmt.isI 1 false (fun ty _ _ x => FRes.of (x ^^^ (2 ^ fmtBits ty - 1))) ∧
  Vector1 .vpopc Fmt.isI 1 false (fun ty _ _ x => FRes.of ((List.range (fmtBits ty)).countP x.testBit)) ∧
  Vector1 .vclz Fmt.isI 1 false (fun ty _ _ x =>
    FRes.of ((List.range (fmtBits ty)).takeWhile fun k => !x.testBit (fmtBits ty - 1 - k)).length) ∧
  (∀ (o : V2) (s : State) (u : Use), Executes (.vmov o) s u → o.rm = .rne → ∃ t val, exec (.vmov o) s = .next t ∧
    Issues s t .c (vposNat o.v) 1 (vecPend (s.me.vreg o.v o.d) (wBits o.w) (fmtBits o.ty) val (s.stainOr u) (s.poisonOr u)) ∧
    ∀ j < wBits o.w, val.getLsbD j = (s.readV .c (vposNat o.v) 0 (s.me.vreg o.v o.s1)).getLsbD j) ∧
  (∀ (o : VDS) (s : State) (u : Use), Executes (.vstain o) s u → ∃ t, exec (.vstain o) s = .next t ∧
    Issues s t .c (vposNat o.v) 1 (vecPend (s.me.vreg o.v o.d) 1024 8 (s.readV .c (vposNat o.v) 0 (s.me.vreg o.v o.s1)) true (s.poisonOr u))) ∧
  (∀ (o : VDS) (s : State) (u : Use), Executes (.vclean o) s u → ∃ t, exec (.vclean o) s = .next t ∧
    Issues s t .c (vposNat o.v) 1 (vecPend (s.me.vreg o.v o.d) 1024 8 (s.readV .c (vposNat o.v) 0 (s.me.vreg o.v o.s1)) false (s.poisonOr u))) ∧
  (∀ (o : VDS) (s : State) (u : Use), Executes (.vstst o) s u → ∃ t, exec (.vstst o) s = .next t ∧
    Issues s t .c (vposNat o.v) 1 (Pend.of (s.me.pred .c (o.d.setWidth 4))
      (if s.readStain .c (vposNat o.v) 0 (s.me.vreg o.v o.s1) then 1 else 0))) ∧
  (∀ (o : VD) (s : State) (u : Use), Executes (.vseedr o) s u → ∃ t, exec (.vseedr o) s = .next t ∧
    Issues s t .c (vposNat o.v) 2 (vecPend (s.me.vreg o.v o.d) 1024 32 (s.readV .c (vposNat o.v) 0 (seedOf o.v)) false false)) ∧
  (∀ (o : VS) (s : State) (u : Use), Executes (.vseedw o) s u → Unpoisoned s u → ∃ t, exec (.vseedw o) s = .next t ∧
    Issues s t .c (vposNat o.v) 2 { Pend.of (seedOf o.v) (s.readV .c (vposNat o.v) 0 (s.me.vreg o.v o.s1)) with ew := 32 }) ∧
  (∀ (o : VLiO) (s : State) (u : Use), (Instr.vli o).wellFormed → Executes (.vli o) s u → ∃ t val, exec (.vli o) s = .next t ∧
    Issues s t .c (vposNat o.v) 1 (vecPend (s.me.vreg o.v o.d) (wBits o.w) (fmtBits o.ty) val false false) ∧
    Elements val (fmtBits o.ty) (elemCount o.w (fmtBits o.ty)) fun _ =>
      if o.ty.isF then o.c.toNat * 2 ^ (fmtBits o.ty - 10)
      else (lowBits o.ty (if o.ty.isIS then o.c.toInt else o.c.toNat)).v) ∧
  (∀ o, PoisonTraps (.vseedw o))

/-- R157, R159, R160, R164: the floating-point operations complete with their latencies; each element is the exact result rounded once, as `fAdd` and
its like give it (ExactResultsRoundedOnce says what they are in exact arithmetic), and the seed steps under SR. The special functions as `fun1`
computes them, and the sign of a sum of two zeros of one sign under RDN, are the model's choice: log entry 30. -/
def Obligations.VectorFloatArithmetic : Prop :=
  Vector2 .vadd Fmt.isF 4 true fAdd ∧ Vector2 .vsub Fmt.isF 4 true fSub ∧ Vector2 .vmul Fmt.isF 4 true fMul ∧
  Vector2 .vdiv Fmt.isF 12 true fDiv ∧
  Vector2 .vmin Fmt.isF 1 true (fun ty _ _ x y => fMinMax ty false x y) ∧
  Vector2 .vmax Fmt.isF 1 true (fun ty _ _ x y => fMinMax ty true x y) ∧
  Vector3 .vfma 4 true (fun ty rm => fFma ty rm false false) ∧
  Vector3 .vfms 4 true (fun ty rm => fFma ty rm false true) ∧
  Vector3 .vfnma 4 true (fun ty rm => fFma ty rm true false) ∧
  Vector1 .vsqrt Fmt.isF 12 true fSqrt ∧
  Vector1 .vexp2 Fmt.isF 12 true (fun ty _ _ => fun1 .exp2 ty) ∧ Vector1 .vlog2 Fmt.isF 12 true (fun ty _ _ => fun1 .log2 ty) ∧
  Vector1 .vrcp Fmt.isF 12 true (fun ty _ _ => fun1 .rcp ty) ∧ Vector1 .vrsq Fmt.isF 12 true (fun ty _ _ => fun1 .rsq ty) ∧
  Vector1 .vsin Fmt.isF 12 true (fun ty _ _ => fun1 .sin ty) ∧ Vector1 .vcos Fmt.isF 12 true (fun ty _ _ => fun1 .cos ty) ∧
  Vector1 .vtanh Fmt.isF 12 true (fun ty _ _ => fun1 .tanh ty)

/-- R96, R97: rounding to nearest gives a value of the format as near to the exact one as any value of the format is, unless it overflows; in each of
the six modes it is the rounding that the text of R96 computes, SR with the k random bits that it takes. R88, R157, R160, R164: sum, difference,
product, quotient, root and fused product of finite elements, reciprocal and reciprocal root, are the exact real result rounded once; 2^x of a
whole number and log2 of a power of two likewise. R84, R98: conversions. R110, R159, R174: the steps of reductions. R108, R198: the exact block of
a cell operation and its combination with the accumulator. The sign of a sum of two zeros of one sign under RDN is the model's choice: log entry
30. -/
def Obligations.ExactResultsRoundedOnce : Prop :=
  (∀ (f : Fmt) (r m : Nat) (neg : Bool) (e : Int) (y : Nat), isFloat f = true → 0 < m →
    (roundTo f .rne false r neg m e).ovf = false → y < 2 ^ fmtBits f → (decodeF f y).finite = true →
    let x := FV.num neg m e
    let z := decodeF f (roundTo f .rne false r neg m e).v
    z.finite = true ∧ |z.toRat - x.toRat| ≤ |(decodeF f y).toRat - x.toRat|) ∧
  (∀ (f : Fmt) (rm : Rm) (sat : Bool) (r m : Nat) (neg : Bool) (e : Int), isFloat f = true → 0 < m →
    RoundsTo f rm sat r neg ((m : ℝ) * 2 ^ e) (roundTo f rm sat r neg m e)) ∧
  (∀ (f : Fmt) (rm : Rm) (r x y : Nat) (vx vy : ℝ), isFloat f = true → (decodeF f x).IsReal vx → (decodeF f y).IsReal vy →
    let a := (decodeF f x).sign
    let b := (decodeF f y).sign
    Computes f rm r (vx + vy) (zeroSign rm a b) (fAdd f rm r x y) ∧ Computes f rm r (vx - vy) (zeroSign rm a (!b)) (fSub f rm r x y) ∧
    Computes f rm r (vx * vy) (a != b) (fMul f rm r x y) ∧ (vy ≠ 0 → Computes f rm r (vx / vy) (a != b) (fDiv f rm r x y)) ∧
    Computes f rm 0 (vx + vy) (zeroSign rm a b) (redEl .add f rm x y) ∧
    (∀ mx, let z := fMinMax f mx x y
      redEl (if mx then .max else .min) f rm x y = z ∧ (z = FRes.of x ∨ z = FRes.of y) ∧
      (decodeF f z.v).IsReal (if mx then max vx vy else min vx vy) ∧
      (vx = vy → (decodeF f z.v).sign = if mx then a && b else a || b))) ∧
  (∀ (f : Fmt) (rm : Rm) (np nz : Bool) (r x y z : Nat) (vx vy vz : ℝ), isFloat f = true → (decodeF f x).IsReal vx →
    (decodeF f y).IsReal vy → (decodeF f z).IsReal vz →
    Computes f rm r ((if np then -(vx * vy) else vx * vy) + if nz then -vz else vz)
      (zeroSign rm (((decodeF f x).sign != (decodeF f y).sign) != np) ((decodeF f z).sign != nz)) (fFma f rm np nz r x y z)) ∧
  (∀ (f : Fmt) (rm : Rm) (r x : Nat) (v : ℝ), isFloat f = true → (decodeF f x).IsReal v →
    (0 < v → Computes f rm r (Real.sqrt v) false (fSqrt f rm r x) ∧ Computes f .rne 0 (1 / Real.sqrt v) false (fun1 .rsq f x)) ∧
    (v = 0 → fSqrt f rm r x = FRes.of (signed f (decodeF f x).sign 0) ∧ fun1 .sin f x = FRes.of (signed f (decodeF f x).sign 0) ∧
      fun1 .tanh f x = FRes.of (signed f (decodeF f x).sign 0) ∧ Computes f .rne 0 1 false (fun1 .cos f x)) ∧
    (v < 0 → fSqrt f rm r x = { FRes.of (nanBits f) with inv := true }) ∧
    (v ≠ 0 → Computes f .rne 0 (1 / v) (decodeF f x).sign (fun1 .rcp f x)) ∧
    (∀ n : Int, v = n → f = .f32 ∨ f = .f16 → Computes f .rne 0 (2 ^ n) false (fun1 .exp2 f x)) ∧
    (∀ n : Int, v = 2 ^ n → Computes f .rne 0 n false (fun1 .log2 f x))) ∧
  (∀ (src d : Fmt) (rm : Rm) (sat : Bool) (r x : Nat) (v : ℝ), (valueOf src x).IsReal v →
    (isFloat d = true → (v = 0 → convert src d rm sat r x = FRes.of (signed d (valueOf src x).sign 0)) ∧
      ∀ neg, v ≠ 0 → (neg = true ↔ v < 0) → (convert src d rm sat r x).inv = false ∧ (convert src d rm sat r x).dz = false ∧
        RoundsTo d rm sat r neg |v| (convert src d rm sat r x)) ∧
    (isFloat src = true → d.isI = true → ∀ neg, (neg = true ↔ v < 0) → ∃ (t up : Nat) (q : ℝ), |v| = t + q ∧ 0 ≤ q ∧ q < 1 ∧
      (GoesUp rm neg t q r ∧ up = 1 ∨ ¬GoesUp rm neg t q r ∧ up = 0) ∧
      (let i : Int := if neg then -((t + up : Nat) : Int) else (t + up : Nat)
       convert src d rm sat r x = { lowBits d (nearest d i) with inv := !sat && decide (nearest d i ≠ i) })) ∧
    (src.isI = true → d.isI = true → x < 2 ^ fmtBits src →
      convert src d rm sat r x = lowBits d (if sat then nearest d (asInt src x) else asInt src x))) ∧
  (∀ (f : Fmt) (rm : Rm) (x y : Nat), f.isI = true → x < 2 ^ fmtBits f → y < 2 ^ fmtBits f →
    redEl .add f rm x y = lowBits f (asInt f x + asInt f y) ∧ redEl .min f rm x y = lowBits f (min (asInt f x) (asInt f y)) ∧
    redEl .max f rm x y = lowBits f (max (asInt f x) (asInt f y))) ∧
  (∀ (a w : List FV), a.length = w.length → (∀ v ∈ a ++ w, v.finite = true) →
    (∀ c, (blockOf c a w).2 = false ∧ (blockOf c a w).1.finite = (decide (c ≤ 1) || !a.isEmpty)) ∧
    (blockOf 0 a w).1.toRat = ((a.zip w).map fun z => z.1.toRat * z.2.toRat).sum ∧
    (blockOf 1 a w).1.toRat = ((a.zip w).map fun z => |z.1.toRat - z.2.toRat|).sum ∧
    (∀ z ∈ a.zip w, (blockOf 3 a w).1.toRat ≤ z.1.toRat + z.2.toRat ∧ z.1.toRat + z.2.toRat ≤ (blockOf 2 a w).1.toRat) ∧
    (a ≠ [] → ∃ z ∈ a.zip w, (blockOf 2 a w).1.toRat = z.1.toRat + z.2.toRat) ∧
    (a ≠ [] → ∃ z ∈ a.zip w, (blockOf 3 a w).1.toRat = z.1.toRat + z.2.toRat)) ∧
  (∀ (t : AcTag) (acc : Nat) (v : FV) (va vb : ℝ), isFloat (tagFmt t) = true → (decodeF (tagFmt t) acc).IsReal va → v.IsReal vb →
    let f := tagFmt t
    let u := decodeF f acc
    (∀ c ≤ 1, Computes f .rne 0 (va + vb) (zeroSign .rne u.sign v.sign) (cellOp c t acc (v, false))) ∧
    (∃ z, (z = u ∨ z = v) ∧ z.IsReal (max va vb) ∧ Computes f .rne 0 (max va vb) z.sign (cellOp 2 t acc (v, false))) ∧
    (∃ z, (z = u ∨ z = v) ∧ z.IsReal (min va vb) ∧ Computes f .rne 0 (min va vb) z.sign (cellOp 3 t acc (v, false)))) ∧
  (∀ (acc m : Nat) (neg : Bool), acc < 2 ^ 32 →
    let v : Int := if neg then -(m : Int) else m
    (∀ c ≤ 1, cellOp c .s32 acc (.num neg m 0, false) = lowBits .s32 (asInt .s32 acc + v)) ∧
    cellOp 2 .s32 acc (.num neg m 0, false) = lowBits .s32 (max (asInt .s32 acc) v) ∧
    cellOp 3 .s32 acc (.num neg m 0, false) = lowBits .s32 (min (asInt .s32 acc) v))

/-- R166, R168: VCMP gives true when its condition holds for some pair of elements; a NaN is unordered with everything. R167: element i of VCMPM is
all ones when the condition holds for element i, and zero otherwise; quarantine does not look at it. A VCMP of a poisoned register raises
POISON_USE (R155). -/
def Obligations.VectorCompares : Prop :=
  (∀ (o : VCmpO) (s : State) (u : Use), (Instr.vcmp o).wellFormed → Executes (.vcmp o) s u → Unpoisoned s u → ∃ t b,
    exec (.vcmp o) s = .next t ∧ Issues s t .c (vposNat o.v) 1 (Pend.of (s.me.pred .c (o.d.setWidth 4)) (if b then 1 else 0)) ∧
    let e := fmtBits o.ty
    (b = true ↔ ∃ k < elemCount o.w e, VcHolds o.cc o.ty (elemAt (s.vsrc o.v 0 o.s1) e k) (elemAt (s.vsrc o.v 1 o.t) e k))) ∧
  (∀ (o : VCmpO) (s : State) (u : Use), (Instr.vcmpm o).wellFormed → Executes (.vcmpm o) s u → ∃ t val,
    exec (.vcmpm o) s = .next t ∧
    let e := fmtBits o.ty
    Issues s t .c (vposNat o.v) 1 (vecPend (s.me.vreg o.v o.d) (wBits o.w) e val (s.stainOr u) (s.poisonOr u)) ∧
    (∀ k < elemCount o.w e, elemAt val.toNat e k = 2 ^ e - 1 ∧
        VcHolds o.cc o.ty (elemAt (s.vsrc o.v 0 o.s1) e k) (elemAt (s.vsrc o.v 1 o.t) e k) ∨
      elemAt val.toNat e k = 0 ∧ ¬VcHolds o.cc o.ty (elemAt (s.vsrc o.v 0 o.s1) e k) (elemAt (s.vsrc o.v 1 o.t) e k))) ∧
  (∀ o, PoisonTraps (.vcmp o))

/-- R176: the permutations, on whole elements as bits. -/
def Obligations.Permutations : Prop :=
  Permutes .vperm (fun _ n x t _ i => x (t i % n)) ∧
  Permutes .vshuf (fun _ n x t d i => if d i % (2 * n) < n then x (d i % (2 * n)) else t (d i % (2 * n) - n)) ∧
  Permutes .vbcast (fun _ n x t _ _ => x (t 0 % n)) ∧
  Permutes .vext (fun _ n x t _ i => if i = 0 then x (t 0 % n) else 0) ∧
  Permutes .vins (fun _ n x t d i => if i = t 0 % n then x 0 else d i) ∧
  Permutes .vrot (fun _ n x t _ i => x ((i + t 0) % n)) ∧
  Permutes .vzip (fun _ _ x t _ i => if i % 2 = 0 then x (i / 2) else t (i / 2)) ∧
  Permutes .vunzip (fun _ n x t _ i => if i < n / 2 then x (2 * i) else t (2 * (i - n / 2))) ∧
  Permutes .vcompress (fun e n x t _ i => match ((List.range n).filter fun j => (t j).testBit (e - 1))[i]? with
    | some j => x j
    | none => 0) ∧
  Permutes .vexpand (fun e _ x t _ i => if (t i).testBit (e - 1) then x ((List.range i).countP fun j => (t j).testBit (e - 1)) else 0)

/-- R100: with quarantine off, an element that meets an enabled class makes the slot trap: FP_INVALID before FP_DIVZERO before FP_OVERFLOW, and DETAIL
names the lowest element that meets the class. Stated of the additions, products and quotients. -/
def Obligations.FloatTraps : Prop :=
  (∀ (o : V3) (s : State), o.ty.isF = true → FpTraps (.vadd o) s (elemCount o.w (fmtBits o.ty)) fun seed k =>
    fAdd o.ty o.rm (randOf seed k) (elemAt (s.vsrc o.v 0 o.s1) (fmtBits o.ty) k) (elemAt (s.vsrc o.v 1 o.s2) (fmtBits o.ty) k)) ∧
  (∀ (o : V3) (s : State), o.ty.isF = true → FpTraps (.vmul o) s (elemCount o.w (fmtBits o.ty)) fun seed k =>
    fMul o.ty o.rm (randOf seed k) (elemAt (s.vsrc o.v 0 o.s1) (fmtBits o.ty) k) (elemAt (s.vsrc o.v 1 o.s2) (fmtBits o.ty) k)) ∧
  (∀ (o : V3) (s : State), o.ty.isF = true → FpTraps (.vdiv o) s (elemCount o.w (fmtBits o.ty)) fun seed k =>
    fDiv o.ty o.rm (randOf seed k) (elemAt (s.vsrc o.v 0 o.s1) (fmtBits o.ty) k) (elemAt (s.vsrc o.v 1 o.s2) (fmtBits o.ty) k))

/-- R103, R169, R170: conversions. VCVT converts each element, and no integer result sets a stain through quarantine (R84); that R84 goes before R106
and R154 here is the model's reading: log entry 79. ExactResultsRoundedOnce says what `convert` is in exact arithmetic. VCVTEF gives the result
and its residual, with one stain and poison; stated, as the quantisation, where no floating-point trap is enabled. R171, R172: quantisation gives
the element fields of each block of 32 and its scale byte, and steps the seed under SR; dequantisation gives the value of each field under its
scale, rounded. -/
def Obligations.ConversionsAndQuantisation : Prop :=
  (∀ (o : VCvtO) (s : State), (Instr.vcvt o).wellFormed →
    GivesElements (.vcvt o) s o.v o.d o.w (fmtBits o.fmt) (wBits o.w / max (max (fmtBits o.ty) (fmtBits o.fmt)) 8) 4 o.rm (isFloat o.fmt) o.fmt
      fun seed k => convert o.ty o.fmt o.rm o.sat (randOf seed k) (elemAt (s.vsrc o.v 0 o.s1) (fmtBits o.ty) k)) ∧
  (∀ (o : VCv4) (s : State) (u : Use), (Instr.vcvtef o).wellFormed → Executes (.vcvtef o) s u → NoFpTraps s.me → ∃ t m val res st,
    exec (.vcvtef o) s = .next t ∧ StainFrom s u st ∧
    let n := wBits o.w / max (max (fmtBits o.ty) (fmtBits o.fmt)) 8
    let x := fun k => elemAt (s.vsrc o.v 0 o.s1) (fmtBits o.ty) k
    let y := fun k => convert o.ty o.fmt o.rm false 0 (x k)
    Issues s m .c (vposNat o.v) 4 (vecPend (s.me.vreg o.v o.d) (wBits o.w) (fmtBits o.fmt) val st (s.poisonOr u)) ∧
    Issues m t .c (vposNat o.v) 4 (vecPend (s.me.vreg o.v o.t) (wBits o.w) (fmtBits o.ty) res st (s.poisonOr u)) ∧
    Elements val (fmtBits o.fmt) n (fun k => (y k).v) ∧ Elements res (fmtBits o.ty) n fun k => residual o.ty o.fmt (x k) (y k)) ∧
  (∀ (o : VCv4) (s : State) (u : Use), (Instr.vqnt o).wellFormed → Executes (.vqnt o) s u → NoFpTraps s.me → ∃ t m p val sc st,
    exec (.vqnt o) s = .next t ∧ StainFrom s u st ∧
    let e := fmtBits o.ty
    let blk := fun j => quantBlock o.fmt o.rm ((List.range 32).map fun i => randOf (s.seedRead u) (32 * j + i))
      ((List.range 32).map fun i => decodeF o.ty (elemAt (s.vsrc o.v 0 o.s1) e (32 * j + i)))
    Issues s m .c (vposNat o.v) 6 (vecPend (s.me.vreg o.v o.d) (wBits o.w) (fmtBits o.fmt) val st (s.poisonOr u)) ∧
    Issues m p .c (vposNat o.v) 6 (vecPend (s.me.vreg o.v o.t) (wBits o.w) 8 sc st (s.poisonOr u)) ∧
    SeedSteps p t o.v o.rm (s.seedRead u) ∧
    Elements val (fmtBits o.fmt) (wBits o.w / e) (fun k => ((blk (k / 32)).2.getD (k % 32) (FRes.of 0)).v) ∧
    Elements sc 8 (wBits o.w / e / 32) fun j => (blk j).1) ∧
  (∀ (o : VCv4) (s : State), (Instr.vdqnt o).wellFormed →
    GivesElements (.vdqnt o) s o.v o.d o.w (fmtBits o.ty) (wBits o.w / fmtBits o.ty) 6 o.rm true o.ty fun _ k =>
      finish o.ty o.rm false 0 (blockValue o.fmt (elemAt (s.vsrc o.v 0 o.s1) (fmtBits o.fmt) k)
        (elemAt (s.vsrc o.v 1 o.t) 8 (k / 32))) false)

/-- R173: sparse packing keeps N elements of each group of 48, none smaller than one it drops and ties to the lower position; the mask names them and
they are packed in order. -/
def Obligations.SparsePacking : Prop :=
  ∀ (o : VPackO) (s : State) (u : Use), (Instr.vpacksp o).wellFormed → Executes (.vpacksp o) s u → ∃ t m val mask,
    exec (.vpacksp o) s = .next t ∧
    let e := fmtBits o.ty
    let groups := wBits o.w / (48 * e)
    let x := fun g j => elemAt (s.vsrc o.v 0 o.s1) e (48 * g + j)
    let kept := fun (g j : Nat) => mask.getLsbD (48 * g + j)
    Issues s m .c (vposNat o.v) 6 (vecPend (s.me.vreg o.v o.d) (wBits o.w) e val (s.stainOr u) (s.poisonOr u)) ∧
    Issues m t .c (vposNat o.v) 6 (vecPend (s.me.vreg o.v o.t) (wBits o.w) 8 mask (s.stainOr u) (s.poisonOr u)) ∧
    ∀ g < groups, (List.range 48).countP (kept g) = nOf o.n ∧
      ∀ j < 48, kept g j = true →
        elemAt val.toNat e (nOf o.n * g + (List.range j).countP (kept g)) = x g j ∧
        ∀ i < 48, kept g i = false → packRank o.ty (x g i) < packRank o.ty (x g j) ∨
          packRank o.ty (x g i) = packRank o.ty (x g j) ∧ j < i

/-- Stated where no floating-point trap is enabled; ExactResultsRoundedOnce says what `redEl` is in exact arithmetic; the sum of two zeros of one sign
under RDN is the model's choice: log entry 30. R110: VRED reduces the n elements of one register along the pairwise tree by lane index, each step
rounded; the result is element 0, the rest of the range zero. R112, R111, R175: VSCAN is an inclusive scan; VREDR folds the registers of its group
whose stain is clear, in order, and reports the others; with every register stained it gives zero and a stain. -/
def Obligations.Reductions : Prop :=
  (∀ (o : VRedO) (s : State) (u : Use), (Instr.vred o).wellFormed → Executes (.vred o) s u → NoFpTraps s.me → ∃ t val st,
    exec (.vred o) s = .next t ∧ StainFrom s u st ∧
    let e := fmtBits o.ty
    let n := elemCount o.w e
    Issues s t .c (vposNat o.v) 6 (vecPend (s.me.vreg o.v o.d) (wBits o.w) e val st (s.poisonOr u)) ∧
    Elements val e 1 fun _ => treeElement (fun a b => (redEl o.op o.ty o.rm a b).v) (elemAt (s.vsrc o.v 0 o.s1) e) (Nat.log2 n) 0) ∧
  (∀ (o : VRedO) (s : State) (u : Use), (Instr.vscan o).wellFormed → Executes (.vscan o) s u → NoFpTraps s.me → ∃ t val st,
    exec (.vscan o) s = .next t ∧ StainFrom s u st ∧
    let e := fmtBits o.ty
    let n := elemCount o.w e
    Issues s t .c (vposNat o.v) 6 (vecPend (s.me.vreg o.v o.d) (wBits o.w) e val st (s.poisonOr u)) ∧
    Elements val e n (scanElement (fun a b => (redEl o.op o.ty o.rm a b).v) (elemAt (s.vsrc o.v 0 o.s1) e) (Nat.log2 n))) ∧
  (∀ (o : VRedO) (s : State) (u : Use), (Instr.vredr o).wellFormed → Executes (.vredr o) s u → NoFpTraps s.me →
    ∃ t m val rep st, exec (.vredr o) s = .next t ∧
    let e := fmtBits o.ty
    let n := elemCount o.w e
    let group := List.range (o.t.toNat + 1 - o.s1.toNat)
    let reg := fun k => s.me.vreg o.v (BitVec.ofNat 5 (o.s1.toNat + k))
    let clean := group.filter fun k => !s.readStain .c (vposNat o.v) k (reg k)
    let L := 4 + 2 * group.length
    Issues s m .c (vposNat o.v) L (vecPend (s.me.vreg o.v o.d) (wBits o.w) e val st
      (clean.any fun k => s.readPoison .c (vposNat o.v) k (reg k))) ∧
    Issues m t .c (vposNat o.v) L (vecPend (s.me.vreg o.v (o.d + 1)) 1024 8 rep false false) ∧
    (clean = [] → val = 0 ∧ st = true) ∧ (clean ≠ [] → s.me.quar = false → st = false) ∧
    Elements val e n (fun i => foldElement (fun a b => (redEl o.op o.ty .rne a b).v)
      (clean.map fun k => elemAt (s.readV .c (vposNat o.v) k (reg k)).toNat e i)) ∧
    (rep.extractLsb' 0 64).toNat = group.length - clean.length ∧
    ∀ k < 32, rep.getLsbD (64 + k) = decide (k ∈ group ∧ k ∉ clean))

/-! ### The tables, the Press and the address slots -/

/-- R226, R229, R233, R260: what the table queries answer, each after four cycles. A tile answers as the cycle began. Points that the rules leave open
are the model's choice: log entry 55. -/
def Obligations.TableQueries : Prop :=
  (∀ (o : QueryO) (s : State) (u : Use) (w : TileId), Executes (.tstate o) s u → o.sel.toNat < 8 →
    s.me.tileId (s.rd .a 0 0 o.s1) = some w → Answers (.tstate o) s o.d (match s.tileSeen s.cur.run w with
      | none => 0
      | some e => match o.sel.toNat with
        | 0 => (match e.state with | .empty => 0 | .filling => 1 | .ready => 2 | .draining => 3) + 2 ^ 2 + e.rdr % 16 * 2 ^ 3
            + (if e.rmap then 2 ^ 7 else 0) + Fmt.code e.fmt * 2 ^ 8
        | 1 => e.base
        | 2 => e.rows
        | 3 => e.pitch
        | k => (e.stain.extractLsb' (64 * (k - 4)) 64).toNat)) ∧
  (∀ (o : QueryO) (s : State) (u : Use), Executes (.tstate o) s u → o.sel.toNat = 8 ∨ o.sel.toNat = 9 →
    let w := if o.sel.toNat = 8 then s.me.tubWin else s.me.vatWin
    Answers (.tstate o) s o.d (w.count + w.size * 2 ^ 32)) ∧
  (∀ (o : QueryO) (s : State) (u : Use), Executes (.shpr o) s u → o.sel.toNat < 11 →
    Answers (.shpr o) s o.d (match s.me.shape ((s.rd .a 0 0 o.s1).toNat % 2 ^ 16) with
      | none => 0
      | some z => match o.sel.toNat with
        | 0 => z.base
        | 1 => z.rank % 8 + z.fmt % 32 * 2 ^ 3 + z.rights % 4 * 2 ^ 8 + 2 ^ 10
        | k => if k < 7 then z.exts.getD (k - 2) 0 else z.strides.getD (k - 7) 0)) ∧
  (∀ (o : QueryO) (s : State) (u : Use), Executes (.extrQ o) s u → 1 ≤ o.sel.toNat → o.sel.toNat < 4 →
    (s.rd .a 0 0 o.s1).toNat ≤ 15 → Answers (.extrQ o) s o.d (match aget s.me.extents (s.rd .a 0 0 o.s1).toNat with
      | none => 0
      | some e => match o.sel.toNat with
        | 1 => e.vbase
        | 2 => e.len
        | _ => (if e.r then 1 else 0) + (if e.w then 2 else 0) + (if e.so then 4 else 0) + (if e.p then 8 else 0) + 16)) ∧
  (∀ (o : QueryO) (s : State) (u : Use) (i : Nat) (e : Extent), Executes (.extrQ o) s u → o.sel.toNat = 0 → i < 16 →
    let v := (s.rd .a 0 0 o.s1).toNat
    aget s.me.extents i = some e → e.vbase ≤ v → v < e.vbase + e.len →
    (∀ j < i, ∀ f, aget s.me.extents j = some f → ¬(f.vbase ≤ v ∧ v < f.vbase + f.len)) →
    Answers (.extrQ o) s o.d (i + 2 ^ 4 + (if e.r then 2 ^ 5 else 0) + (if e.w then 2 ^ 6 else 0) + (if e.so then 2 ^ 7 else 0)
      + (if e.p then 2 ^ 8 else 0))) ∧
  (∀ (o : QueryO) (s : State) (u : Use), Executes (.keyq o) s u → s.me.atH = false → s.me.owner ≤ 1024 →
    let k := s.tabs.tkey s.me.owner
    (o.sel = 0 → Answers (.keyq o) s o.d ((if k.curgen then 1 else 0) + (if k.sweep then 2 else 0)
      + (if k.sealIx.isSome then 4 else 0) + (if k.mem0.isSome ∨ k.mem1.isSome then 8 else 0) + k.rotcnt.toNat * 2 ^ 32)) ∧
    (o.sel = 1 → Answers (.keyq o) s o.d (s.remain s.me.owner)) ∧
    (o.sel = 2 → Answers (.keyq o) s o.d k.sealctr) ∧
    (4 ≤ o.sel.toNat → o.sel.toNat < 8 →
      Answers (.keyq o) s o.d (s.bnd.m.extractLsb' (64 * (o.sel.toNat - 4)) 64).toNat))

/-- R185, R193, R194, R195, R366: claiming, releasing and filling Mangle slots; each ends the leg. MGREL zeroes the slot; a fill takes its tiles as
readers and gives the slot its descriptor; a tile that MGSPFILL names twice is counted once, which is the model's choice: log entry 83. Points
that the rules leave open are the model's choice: log entries 14 and 28. -/
def Obligations.MangleSlots : Prop :=
  (∀ (o : GD) (s : State) (u : Use), Executes (.mgclaim o) s u → NoPressException s → s.me.saq = [] →
    (s.me.press.slot o.d.toNat).st = .free → HasRunner s s.cur.run → ∃ t, exec (.mgclaim o) s = .next t ∧ EndsLeg s t ∧
      OnlyRunner s t ∧ KeepsRegisters s t ∧
      t.me.press = { s.me.press.modSlot o.d.toNat (fun m => { m with st := .empty }) with
        mgUndo := s.me.press.mgUndo ++ [(s.seq, o.d.toNat, s.me.press.slot o.d.toNat)] }) ∧
  (∀ (o : GD) (s : State) (u : Use), Executes (.mgrel o) s u → NoPressException s → s.me.saq = [] →
    (let m := s.me.press.slot o.d.toNat; m.st = .empty ∨ m.st = .ready ∧ m.rd = 0) → HasRunner s s.cur.run →
    ∃ t, exec (.mgrel o) s = .next t ∧ EndsLeg s t ∧ KeepsRegisters s t ∧
      t.me.press = { s.me.press.modSlot o.d.toNat (fun _ => MgSlot.reset) with
        mgUndo := s.me.press.mgUndo ++ [(s.seq, o.d.toNat, s.me.press.slot o.d.toNat)] }) ∧
  (∀ (o : MgFillO) (s : State) (u : Use) (e : Tile), Executes (.mgfill o) s u → NoPressException s → s.me.saq = [] →
    (let m := s.me.press.slot o.d.toNat; m.st = .empty ∨ m.st = .ready ∧ m.rd = 0) → HasRunner s s.cur.run →
    s.HasBtile o.tile e → e.fmt.isMma = true → e.rows ≤ 32 → e.pitch ≤ 1024 → kOf e.fmt e.pitch ≠ 0 → e.state = .ready → e.rdr < 15 →
    s.me.press.fq.length < 4 → ∃ t, exec (.mgfill o) s = .next t ∧ EndsLeg s t ∧ OnlyRunner s t ∧ KeepsRegisters s t ∧
      t.me.press.fq = s.me.press.fq ++ [s.pressCmd (.mgfill o) .zero] ∧
      t.btileOf o.tile = some { e with rdr := e.rdr + 1 } ∧
      (∀ k < 16, t.me.press.slot k = if k = o.d.toNat then
        { s.me.press.slot k with st := .filling, fmt := e.fmt, k := kOf e.fmt e.pitch, spn := none, rows := e.rows, rmap := e.rmap }
        else s.me.press.slot k)) ∧
  (∀ (o : MgSpO) (s : State) (u : Use) (e m : Tile), Executes (.mgspfill o) s u → NoPressException s → s.me.saq = [] →
    (let z := s.me.press.slot o.d.toNat; z.st = .empty ∨ z.st = .ready ∧ z.rd = 0) → HasRunner s s.cur.run →
    s.HasBtile o.tile e → s.HasBtile o.mask m → spBad e m o.n = false → e.state = .ready →
    e.rdr < 15 → m.state = .ready → m.rdr < 15 → s.me.press.fq.length < 4 →
    ∃ t, exec (.mgspfill o) s = .next t ∧ EndsLeg s t ∧ OnlyRunner s t ∧ KeepsRegisters s t ∧
      t.me.press.fq = s.me.press.fq ++ [s.pressCmd (.mgspfill o) .zero] ∧
      t.btileOf o.tile = some { e with rdr := e.rdr + 1 } ∧ t.btileOf o.mask = some { m with rdr := m.rdr + 1 } ∧
      (∀ k < 16, t.me.press.slot k = if k = o.d.toNat then
        { s.me.press.slot k with st := .filling, fmt := e.fmt, k := 48 * spGroups e o.n, spn := some o.n, rows := e.rows, rmap := e.rmap && m.rmap }
        else s.me.press.slot k))

/-- R183, R185, R196: MMA, MMASP and MMAC. With their slots READY and their operands matching they join the compute queue; each slot they name has one
reader more, and the banks take the tag of the format. R181, R201 to R205: the accumulator operations join the compute queue, with their tile
taken and their banks tagged at issue. Points that the rules leave open are the model's choice: log entry 28. -/
def Obligations.PressIssue : Prop :=
  (∀ (i : Instr) (m : MatOp) (s : State) (u : Use), matOf i = some m → Executes i s u → NoPressException s → HasRunner s s.cur.run →
    (let a := s.me.press.slot m.a
     let w := s.me.press.slot m.w
     a.st = .ready ∧ w.st = .ready ∧ a.fmt = m.fmt ∧ w.fmt = m.fmt ∧ a.spn = none ∧ w.spn = m.n ∧ a.k = w.k) →
    (∀ b ∈ banksOf (accTag m.fmt) m.d, (s.me.press.bank b).tag = .zero ∨ (s.me.press.bank b).tag = accTag m.fmt) →
    s.me.press.cq.length < 8 → ∃ t, exec i s = .next t ∧ t.cur = s.cur ∧ OnlyRunner s t ∧ KeepsRegisters s t ∧
      t.me.press.cq = s.me.press.cq ++ [s.pressCmd i (accTag m.fmt)] ∧
      (∀ k < 16, t.me.press.slot k =
        { s.me.press.slot k with rd := (s.me.press.slot k).rd + if k = m.a ∨ k = m.w then 1 else 0 }) ∧
      ∀ b < 8, t.me.press.bank b =
        { s.me.press.bank b with tag := if b ∈ banksOf (accTag m.fmt) m.d then accTag m.fmt else (s.me.press.bank b).tag }) ∧
  (∀ (o : GD) (s : State) (u : Use), Executes (.acz o) s u → NoPressException s → HasRunner s s.cur.run → s.me.press.cq.length < 8 →
    ∃ t, exec (.acz o) s = .next t ∧ t.cur = s.cur ∧ OnlyRunner s t ∧ KeepsRegisters s t ∧
      t.me.press.cq = s.me.press.cq ++ [s.pressCmd (.acz o) (s.me.press.bank o.d.toNat).tag] ∧
      ∀ b < 8, (t.me.press.bank b).tag = if b = o.d.toNat ∨ (s.me.press.bank o.d.toNat).tag = .f64 ∧ b / 2 = o.d.toNat / 2
        then .zero else (s.me.press.bank b).tag) ∧
  (∀ (o : AcTileO) (s : State) (u : Use) (e : Tile) (g : AcTag), Executes (.acload o) s u → NoPressException s → HasRunner s s.cur.run →
    s.me.press.cq.length < 8 → s.HasBtile o.tile e → loadTag e.fmt = some g → (g = .f64 → o.ac.toNat ≤ 3) → e.rows ≤ 32 →
    rowBytes e.fmt 32 ≤ e.pitch → s.me.press.tagOk g o.ac.toNat = true → e.state = .ready → e.rdr < 15 →
    ∃ t, exec (.acload o) s = .next t ∧ t.cur = s.cur ∧ OnlyRunner s t ∧ KeepsRegisters s t ∧
      t.me.press.cq = s.me.press.cq ++ [s.pressCmd (.acload o) g] ∧ t.btileOf o.tile = some { e with rdr := e.rdr + 1 } ∧
      ∀ b < 8, (t.me.press.bank b).tag = if b ∈ banksOf g o.ac.toNat then g else (s.me.press.bank b).tag) ∧
  (∀ (o : AcTileO) (s : State) (u : Use) (e : Tile) (g : AcTag), Executes (.acdrain o) s u → NoPressException s → HasRunner s s.cur.run →
    s.me.press.cq.length < 8 → s.HasBtile o.tile e → s.me.press.drainTag e.fmt o.ac.toNat = some g → e.rows ≤ 32 →
    rowBytes e.fmt 32 ≤ e.pitch → (e.state = .empty ∨ e.state = .ready ∧ e.rdr = 0) →
    ∃ t, exec (.acdrain o) s = .next t ∧ t.cur = s.cur ∧ OnlyRunner s t ∧ KeepsRegisters s t ∧
      t.me.press.cq = s.me.press.cq ++ [s.pressCmd (.acdrain o) g] ∧ t.btileOf o.tile = some { e with state := .filling } ∧
      t.me.press.ac = s.me.press.ac) ∧
  (∀ (o : AcTileO) (s : State) (u : Use) (e : Tile) (g : AcTag), Executes (.acscale o) s u → NoPressException s → HasRunner s s.cur.run →
    s.me.press.cq.length < 8 → s.HasBtile o.tile e → s.me.press.scaleTag e.fmt o.ac.toNat = some g → e.rows ≤ 2 →
    rowBytes e.fmt 32 ≤ e.pitch → e.state = .ready → e.rdr < 15 →
    ∃ t, exec (.acscale o) s = .next t ∧ t.cur = s.cur ∧ OnlyRunner s t ∧ KeepsRegisters s t ∧
      t.me.press.cq = s.me.press.cq ++ [s.pressCmd (.acscale o) g] ∧ t.btileOf o.tile = some { e with rdr := e.rdr + 1 } ∧
      ∀ b < 8, (t.me.press.bank b).tag = if b ∈ banksOf g o.ac.toNat then (if g = .f64 then .f64 else .f32)
        else (s.me.press.bank b).tag) ∧
  (∀ (o : AcRowO) (s : State) (u : Use), Executes (.acstain o) s u → NoPressException s → HasRunner s s.cur.run →
    s.me.press.cq.length < 8 → ∃ t, exec (.acstain o) s = .next t ∧ t.cur = s.cur ∧ OnlyRunner s t ∧ KeepsRegisters s t ∧
      t.me.press = { s.me.press with
        cq := s.me.press.cq ++ [s.pressCmd (.acstain o) (s.me.press.bank o.d.toNat).tag] }) ∧
  (∀ (o : AcRowO) (s : State) (u : Use), Executes (.acclean o) s u → NoPressException s → HasRunner s s.cur.run →
    s.me.press.cq.length < 8 → ∃ t, exec (.acclean o) s = .next t ∧ t.cur = s.cur ∧ OnlyRunner s t ∧ KeepsRegisters s t ∧
      t.me.press = { s.me.press with
        cq := s.me.press.cq ++ [s.pressCmd (.acclean o) (s.me.press.bank o.d.toNat).tag] })

/-- R207, R208, R283: ESYNC commits when both Press queues are over (a held compute queue does not count), and waits until then; ESTAT puts the
engine's status word in flight to ESNAP, and clears the sticky fields of the Sprinter and the Relay. Points that the rules leave open are the
model's choice: log entry 28. -/
def Obligations.EngineSyncAndStatus : Prop :=
  (∀ (o : GO) (s : State) (u : Use), Executes (.esync o) s u → NoPressException s →
    exec (.esync o) s = .next (if s.queueOver .fill = true ∧ (s.queueOver .compute = true ∨ s.me.press.held ≠ none) then s
      else { s with cur := { s.cur with st := .wait } })) ∧
  (∀ (o : GO) (s : State) (u : Use), Executes (.estatPress o) s u → NoPressException s → ∃ t v, exec (.estatPress o) s = .next t ∧
    Issues s t .c 3 2 { Pend.of .esnapP (BitVec.ofNat 1024 v) with ew := 32 } ∧
    (s.me.press.fq.length < 8 → s.me.press.cq.length < 16 → v.testBit 31 = s.me.press.pend ∧ v.testBit 30 = s.me.press.held.isSome ∧
      v / 2 ^ 24 % 2 ^ 4 = s.me.press.fq.length ∧ v / 2 ^ 20 % 2 ^ 4 = s.me.press.cq.length ∧
      ∀ k < 16, v.testBit k = decide ((s.me.press.slot k).st = .ready))) ∧
  (∀ (o : GO) (s : State) (u : Use), Executes (.estatSprinter o) s u → NoPressException s → HasRunner s s.cur.run → ∃ t m n v,
    exec (.estatSprinter o) s = .next t ∧ v = BitVec.ofNat 1024 s.me.spr.word ∧
    Issues s m .c 3 2 { Pend.of .esnapP v with ew := 32 } ∧
    n = m.issued .c 3 2 (s.cycle + 2) { Pend.of .esnapS v with ew := 32, cross := true } ∧
    t = n.modMe fun x => { x with spr := { x.spr with usr := 0, stale := false } }) ∧
  (∀ (o : GO) (s : State) (u : Use), Executes (.estatRelay o) s u → NoPressException s → HasRunner s s.cur.run → ∃ t m n v,
    exec (.estatRelay o) s = .next t ∧ v = BitVec.ofNat 1024 s.me.relay.word ∧
    Issues s m .c 3 2 { Pend.of .esnapP v with ew := 32 } ∧
    n = m.issued .c 3 2 (s.cycle + 2) { Pend.of .esnapL v with ew := 32, cross := true } ∧
    t = n.modMe fun x => { x with relay := { x.relay with err := 0, stale := false } })

/-- R336, R338, R342: a load takes the next place of its LDQ as it issues, and its accesses follow; the first element that fails fixes the entry,
FAULT or, for LDA.S, poison, or rewinds the leg. LDST checks its count first, and LDX pops an index entry. R340: a store joins the store address
queue, and its data follow; a misaligned element traps at its slot, one out of bounds ends the heat, a page not present rewinds the leg. Points
that the rules leave open are the model's choice: log entry 14. -/
def Obligations.LoadAndStoreIssue : Prop :=
  (∀ (o : AgLdO) (s : State) (u : Use), Executes (.lda o) s u → HasRunner s s.cur.run →
    let a := s.agOp o.ag 0 o.s1
    let b := s.agOp o.ag 1 o.s2
    Loads (.lda o) s s (s.newLoad .lda o.ldq1 o.size o.ag a b 0 false [a + b])) ∧
  (∀ (o : AgLdO) (s : State) (u : Use), Executes (.ldaS o) s u → HasRunner s s.cur.run →
    let a := s.agOp o.ag 0 o.s1
    let b := s.agOp o.ag 1 o.s2
    Loads (.ldaS o) s s (s.newLoad .ldaS o.ldq1 o.size o.ag a b 0 false [a + b])) ∧
  (∀ (o : AgLdStO) (s : State) (u : Use), Executes (.ldst o) s u → HasRunner s s.cur.run →
    let a := s.agOp o.ag 0 o.s1
    let b := s.agOp o.ag 1 o.s2
    let n := (s.agOp o.ag 2 o.d).toNat
    if 1 ≤ n ∧ n ≤ 1024 / sizeBits o.size then Loads (.ldst o) s s (s.newLoad .ldst o.ldq1 o.size o.ag a b 0 false (strided a b n))
    else TrapsWhole (.ldst o) s u 0x02 7) ∧
  (∀ (o : AgLdXO) (s : State) (u : Use) (h : VqE) (l : List VqE), Executes (.ldx o) s u → HasRunner s s.cur.run →
    s.me.leg.ixq = h :: l →
    let a := s.agOp o.ag 0 o.s1
    Loads (.ldx o) s s.popsIxq (s.newLoad .ldx o.ldq1 o.size o.ag a 0 h.data h.stain (indexed a h.data o.size))) ∧
  (∀ (o : AgStO) (s : State) (u : Use), Executes (.sta o) s u →
    let a := s.agOp o.ag 0 o.s1
    let b := s.agOp o.ag 1 o.s2
    Stores (.sta o) s s u (s.newStore .sta o.size a b 0 [a + b])) ∧
  (∀ (o : AgStStO) (s : State) (u : Use), Executes (.stst o) s u →
    let a := s.agOp o.ag 0 o.s1
    let b := s.agOp o.ag 1 o.s2
    let n := (s.agOp o.ag 2 o.d).toNat
    if 1 ≤ n ∧ n ≤ 1024 / sizeBits o.size then Stores (.stst o) s s u (s.newStore .stst o.size a b 0 (strided a b n))
    else TrapsWhole (.stst o) s u 0x02 7) ∧
  (∀ (o : AgStXO) (s : State) (u : Use) (h : VqE) (l : List VqE), Executes (.stx o) s u → s.me.leg.ixq = h :: l →
    let a := s.agOp o.ag 0 o.s1
    Stores (.stx o) s s.popsIxq u (s.newStore .stx o.size a 0 h.data (indexed a h.data o.size)))

/-- R217, R273 to R277: the tile commands. One with its tiles in the right states and its memory checked joins the Sprinter queue, a tile store the
Hamper, and takes its tiles; TWAIT goes on at an EMPTY or READY tile. Points that the rules leave open are the model's choice: log entries 14 and
55. -/
def Obligations.TileCommands : Prop :=
  (∀ (o : GDSS) (s : State) (u : Use) (w : TileId) (e : Tile), Executes (.tld o) s u → HasRunner s s.cur.run → NamesTile s 0 o.s1 w e →
    let a := s.atOp 1 o.s2
    let d := s.atOp 2 o.d
    let l := tileSpans s.me e (.tld o) a (d.toNat % 2 ^ 16)
    (o.d = 0 ∨ s.me.shapeBad e d a false = none) → FreeTile e → SprRoom s → SpansOk s.me l false → ClearOfHamper s l →
    ∃ t, exec (.tld o) s = .next t ∧ SprJoins s t (s.sprCmd (.tld o) (s.atOp 0 o.s1) a d (some w) none) ∧
      t.tile s.cur.run w = some { e with state := .filling }) ∧
  (∀ (o : GDSS) (s : State) (u : Use) (w : TileId) (e : Tile), Executes (.tst o) s u → HasRunner s s.cur.run → NamesTile s 0 o.s1 w e →
    let a := s.atOp 1 o.s2
    let d := s.atOp 2 o.d
    (o.d = 0 ∨ s.me.shapeBad e d a true = none) → OutTile e → SpansOk s.me (tileSpans s.me e (.tst o) a (d.toNat % 2 ^ 16)) true →
    s.me.hamper.length < 64 →
    ∃ t, exec (.tst o) s = .next t ∧ t.cur = s.cur ∧ HamJoins s t (s.tileHam (.tst o) .tst w a d 0) ∧
      t.tile s.cur.run w = some { e with state := .draining, rdr := e.rdr + 1 }) ∧
  (∀ (o : GSS) (s : State) (u : Use) (w z : TileId) (e f : Tile), Executes (.tmov o) s u → HasRunner s s.cur.run → NamesTile s 0 o.s1 w e →
    NamesTile s 1 o.s2 z f → w ≠ z → e.fmt.isQ = false → f.fmt.isQ = false → FreeTile e → f.state = .ready → f.rdr < 15 → SprRoom s →
    ∃ t, exec (.tmov o) s = .next t ∧ SprJoins s t (s.sprCmd (.tmov o) (s.atOp 0 o.s1) (s.atOp 1 o.s2) 0 (some w) (some z)) ∧
      t.tile s.cur.run w = some { e with state := .filling } ∧ t.tile s.cur.run z = some { f with rdr := f.rdr + 1 }) ∧
  (∀ (o : GSS) (s : State) (u : Use) (w z : TileId) (e f : Tile), Executes (.tcopy o) s u → HasRunner s s.cur.run →
    NamesTile s 0 o.s1 w e → NamesTile s 1 o.s2 z f → w ≠ z → FreeTile e → f.state = .ready → f.rdr < 15 → SprRoom s →
    ∃ t, exec (.tcopy o) s = .next t ∧ SprJoins s t (s.sprCmd (.tcopy o) (s.atOp 0 o.s1) (s.atOp 1 o.s2) 0 (some w) (some z)) ∧
      t.tile s.cur.run w = some { e with state := .filling } ∧ t.tile s.cur.run z = some { f with rdr := f.rdr + 1 }) ∧
  (∀ (o : GSS) (s : State) (u : Use) (w : TileId) (e : Tile), Executes (.tfill o) s u → HasRunner s s.cur.run → NamesTile s 0 o.s1 w e →
    FreeTile e → SprRoom s → ∃ t, exec (.tfill o) s = .next t ∧
      SprJoins s t (s.sprCmd (.tfill o) (s.atOp 0 o.s1) (s.atOp 1 o.s2) 0 (some w) none) ∧
      t.tile s.cur.run w = some { e with state := .filling }) ∧
  (∀ (o : GS) (s : State) (u : Use) (w : TileId) (e : Tile), Executes (.tzero o) s u → HasRunner s s.cur.run → NamesTile s 0 o.s1 w e →
    FreeTile e → SprRoom s → ∃ t, exec (.tzero o) s = .next t ∧ SprJoins s t (s.sprCmd (.tzero o) (s.atOp 0 o.s1) 0 0 (some w) none) ∧
      t.tile s.cur.run w = some { e with state := .filling }) ∧
  (∀ (o : GS) (s : State) (u : Use) (w : TileId) (e : Tile), Executes (.twait o) s u → NamesTile s 0 o.s1 w e →
    exec (.twait o) s = .next (if e.state = .empty ∨ e.state = .ready then s
      else if e.state = .draining ∧ s.gated w = true ∧ s.me.saq = [] then
        { s.boundary s.cur.run false (some .a) with cur := { (s.boundary s.cur.run false (some .a)).cur with st := .bound } }
      else { s with cur := { s.cur with st := .wait } })) ∧
  (∀ (o : GDSS) (s : State) (u : Use), Executes (.tld o) s u → RefusesTile (.tld o) s u o.s1) ∧
  (∀ (o : GDSS) (s : State) (u : Use), Executes (.tst o) s u → RefusesTile (.tst o) s u o.s1) ∧
  (∀ (o : GSS) (s : State) (u : Use), Executes (.tfill o) s u → RefusesTile (.tfill o) s u o.s1) ∧
  (∀ (o : GS) (s : State) (u : Use), Executes (.tzero o) s u → RefusesTile (.tzero o) s u o.s1) ∧
  (∀ (o : GS) (s : State) (u : Use), Executes (.twait o) s u → RefusesTile (.twait o) s u o.s1)

/-- R262, R263, R418: SEAL takes the owner's seal counter for its nonce and raises it, and joins the Hamper; with no seal key, or the counter at its
end, it is refused. UNSEAL joins the Sprinter queue. Either wants its blob aligned to 64 bytes. Points that the rules leave open are the model's
choice: log entries 42 and 53. -/
def Obligations.SealAndUnseal : Prop :=
  (∀ (o : GSS) (s : State) (u : Use) (w : TileId) (e : Tile), Executes (.seal o) s u → HasRunner s s.cur.run → NamesTile s 0 o.s1 w e →
    let a := s.atOp 1 o.s2
    let k := s.tabs.tkey s.me.owner
    if a.toNat % 64 ≠ 0 then TrapsWhole (.seal o) s u 0x02 6
    else OutTile e →
      if k.sealIx = none ∨ 2 ^ 64 - 1 ≤ k.sealctr then TrapsAt (.seal o) s u 0x0B 0x60A
      else StoresMatched s → SpansOk s.me [(a.toNat, 128 + e.rows * e.pitch)] true → s.me.hamper.length < 64 →
        ∃ t, exec (.seal o) s = .next t ∧ EndsLeg s t ∧ HamJoins s t
            { s.tileHam (.seal o) .seal w a 0 (BitVec.ofNat 64 k.sealctr) with key := (s.sealEntry s.me.owner).getD 0 } ∧
          t.tile s.cur.run w = some { e with state := .draining, rdr := e.rdr + 1 } ∧
          t.tabs = { s.tabs with tkeys := aput s.tabs.tkeys s.me.owner { k with sealctr := k.sealctr + 1 } }) ∧
  (∀ (o : GSS) (s : State) (u : Use) (w : TileId) (e : Tile), Executes (.unseal o) s u → HasRunner s s.cur.run → NamesTile s 0 o.s1 w e →
    let a := s.atOp 1 o.s2
    let l := [(a.toNat, 128 + e.rows * e.pitch)]
    if a.toNat % 64 ≠ 0 then TrapsWhole (.unseal o) s u 0x02 6
    else FreeTile e → SprRoom s → SpansOk s.me l false → ClearOfHamper s l →
      ∃ t, exec (.unseal o) s = .next t ∧ SprJoins s t (s.sprCmd (.unseal o) (s.atOp 0 o.s1) a 0 (some w) none) ∧
        t.tile s.cur.run w = some { e with state := .filling })

/-- R279: the five collectives. Points that the rules leave open are the model's choice: log entry 14. -/
def Obligations.CollectiveIssue : Prop :=
  (∀ o : ColO, CollectiveIssues (.calr o) o.s1 o.s2) ∧ (∀ o : GSS, CollectiveIssues (.caga o) o.s1 o.s2) ∧
  (∀ o : ColO, CollectiveIssues (.crsc o) o.s1 o.s2) ∧ (∀ o : GSS, CollectiveIssues (.ca2a o) o.s1 o.s2) ∧
  (∀ o : GSS, CollectiveIssues (.cbcs o) o.s1 o.s2)

/-- R305, R317 to R326: the strong operations join the strong path in program order and end the leg, each with its operands; a result takes the next
place of its LDQ. R466: a BARARR whose read meets a failed line captures when the strong path has read it again. That a FENCE takes none of the
sixteen places is the model's choice: log entry 23. Points that the rules leave open are the model's choice: log entries 14 and 24. -/
def Obligations.StrongIssue : Prop :=
  (∀ (o : LdsO) (s : State) (u : Use), Executes (.lds o) s u → StrongRoom s →
    let a := s.atOp 0 o.s1
    StrongIssues (.lds o) s u true false (if o.w32 then 4 else 8) [a]
      ((s.reserves o.res1).strongJoins (s.strongE (.lds o) a 0 0 0 0 false))) ∧
  (∀ (o : StsO) (s : State) (u : Use), Executes (.sts o) s u → StrongRoom s →
    let a := s.atOp 0 o.s1
    StrongIssues (.sts o) s u false true (if o.w32 then 4 else 8) [a] (s.strongJoins (s.strongE (.sts o) a (s.atOp 1 o.s2) 0 0 0 false))) ∧
  (∀ (o : AmoO) (s : State) (u : Use), Executes (.amo o) s u → StrongRoom s →
    let a := s.atOp 0 o.s1
    StrongIssues (.amo o) s u true true (if o.w32 then 4 else 8) [a] ((s.reserves o.res1).strongJoins
      (s.strongE (.amo o) a (s.atOp 1 o.s2) (if o.op = .cas then s.atOp 2 (o.s2 + 1) else 0) 0 0 false))) ∧
  (∀ (o : AmoVO) (s : State) (u : Use) (h d : VqE) (l : List VqE), Executes (.amoVector o) s u → StrongRoom s → s.me.leg.ixq = h :: l →
    s.me.leg.sdq[s.me.saq.length]? = some d →
    let a := s.atOp 0 o.s1
    let w := if o.w32 then 32 else 64
    StrongIssues (.amoVector o) s u true true (w / 8)
      ((List.range (1024 / w)).map fun k => a + BitVec.ofNat 64 (h.data.toNat / 2 ^ (w * k) % 2 ^ w * (w / 8)))
      (let m := s.popsIxq.modMe fun x => { x with
         leg := { x.leg with sdq := x.leg.sdq.eraseIdx s.me.saq.length }, freed := x.freed ++ [(.sdq, s.cycle + 2)] }
       (if o.res then m.reserves false else m).strongJoins (s.strongE (.amoVector o) a 0 0 h.data d.data (h.stain || d.stain)))) ∧
  (∀ (o : SigO) (s : State) (u : Use), Executes (.sig o) s u → StrongRoom s →
    let a := s.atOp 0 o.s1
    StrongIssues (.sig o) s u o.add true 8 [a] (s.strongJoins (s.strongE (.sig o) a (s.atOp 1 o.s2) 0 0 0 false))) ∧
  (∀ (o : FenceO) (s : State) (u : Use), Executes (.fence o) s u → StoresMatched s →
    exec (.fence o) s = .next (s.strongJoins (s.strongE (.fence o) 0 0 0 0 0 false))) ∧
  (∀ (o : GO) (s : State) (u : Use), Executes (.bars o) s u → StrongRoom s →
    exec (.bars o) s = .next ((s.modMe fun x => { x with bars := x.bars + 1 }).strongJoins
      { s.strongE (.bars o) 0 0 0 0 0 false with barsNo := s.me.bars + 1 })) ∧
  (∀ (o : GSS) (s : State) (u : Use), Executes (.barinit o) s u → StrongRoom s →
    let a := s.atOp 0 o.s1
    let n := s.atOp 1 o.s2
    if 1 ≤ n.toNat ∧ n.toNat ≤ 65535 then
      StrongIssues (.barinit o) s u true true 16 [a] (s.strongJoins (s.strongE (.barinit o) a n 0 0 0 false))
    else TrapsAt (.barinit o) s u 0x02 3) ∧
  (∀ (o : GS) (s : State) (u : Use), Executes (.barinv o) s u → StrongRoom s →
    let a := s.atOp 0 o.s1
    StrongIssues (.barinv o) s u true true 16 [a] (s.strongJoins (s.strongE (.barinv o) a 0 0 0 0 false))) ∧
  (∀ (o : GS) (s : State) (u : Use), Executes (.bararr o) s u → StrongRoom s → SprRoom s →
    let a := s.atOp 0 o.s1
    StrongIssues (.bararr o) s u true true 16 [a]
      (let b := s.barSeen a
       let pa := strongPa s.me a 16
       let bad := (s.physRead pa 16).2
       let c := { s.sprCmd (.bararr o) a 0 0 none none with
         ok := false, relays := s.me.relay.q.map (·.id)
         gen := if bad then none else if fieldLe b 12 4 % 2 = 1 then some (BitVec.ofNat 32 (fieldLe b 0 4)) else none }
       ((if bad then s.logRead s.cur.run pa 16 else s).modMe fun x => { x with spr := { x.spr with q := x.spr.q ++ [c] } }).strongJoins
         { s.strongE (.bararr o) a 0 0 0 0 false with tries := if bad then 1 else 0 }))

/-- R224, R225, R245, R246, R258, R259, R264: TDEF, KEYLD, the partition writes, KEYROT and SCRUB end the leg and hold the A slice until they are
done; what they write is written then. TDEF reserves its index; TFREE clears its entry at once. Points that the rules leave open are the model's
choice: log entries 14 and 55. -/
def Obligations.TableOperationIssue : Prop :=
  (∀ (o : GSS) (s : State) (u : Use) (w : TileId), Executes (.tdef o) s u → HasRunner s s.cur.run → s.me.tileId (s.atOp 0 o.s1) = some w →
    if s.tile s.cur.run w = none ∧ s.tileSeen s.cur.run w = none then StoresMatched s → ImageOk s.me (s.atOp 1 o.s2) 32 →
      ∃ t, exec (.tdef o) s = .next t ∧ EndsLeg s t ∧ KeepsRegisters s t ∧
        t.me.tabop = some (s.newTable (.tdef o) (s.atOp 0 o.s1) (s.atOp 1 o.s2) 32) ∧
        ∃ e, t.tile s.cur.run w = some e ∧ e.resv = true
    else TrapsWhole (.tdef o) s u 0x02 5) ∧
  (∀ (o : GS) (s : State) (u : Use) (w : TileId) (e : Tile), Executes (.tfree o) s u → HasRunner s s.cur.run → NamesTile s 0 o.s1 w e →
    FreeTile e → StoresMatched s → ∃ t, exec (.tfree o) s = .next t ∧ EndsLeg s t ∧ KeepsRegisters s t ∧
      t.tile s.cur.run w = none ∧ ∀ z, z ≠ w → z.lvl = .basin → t.tile s.cur.run z = s.tile s.cur.run z) ∧
  (∀ (o : GO) (s : State) (u : Use), Executes (.keyrot o) s u → HasRunner s s.cur.run → StoresMatched s → ∃ t,
    exec (.keyrot o) s = .next t ∧ EndsLeg s t ∧ KeepsRegisters s t ∧ t.me.tabop = some (s.newTable (.keyrot o) 0 0 0) ∧ t.tabs = s.tabs) ∧
  (∀ (o : GO) (s : State) (u : Use), Executes (.scrub o) s u → HasRunner s s.cur.run → StoresMatched s → ∃ t,
    exec (.scrub o) s = .next t ∧ EndsLeg s t ∧ KeepsRegisters s t ∧ t.me.tabop = some (s.newTable (.scrub o) 0 0 0) ∧ t.tabs = s.tabs) ∧
  (∀ o : GSS, TableBegins (.keyld o) o.s1 o.s2 64) ∧ (∀ o : GSS, TableBegins (.pwquota o) o.s1 o.s2 64) ∧
  (∀ o : GSS, TableBegins (.pwpleat o) o.s1 o.s2 32) ∧ (∀ o : GSS, TableBegins (.pwlap o) o.s1 o.s2 16) ∧
  (∀ o : GSS, TableBegins (.pwlease o) o.s1 o.s2 48) ∧ (∀ o : GSS, TableBegins (.pwgran o) o.s1 o.s2 16) ∧
  (∀ o : GSS, TableBegins (.pwweight o) o.s1 o.s2 16)

/-! ### The events of a runner -/

/-- R56, R61, R363: a result is written to its register by its event, in the cycle in which it lands and not before. R41, R115, R152, R360: what a
landed result changes: its own register, its chunks of a vector register, with the stain and the poison it carries; nothing of a register that
reads as a constant, and no other register. R8, R9, R117, R121 to R123, R127, R335: a write of a system register changes its writable fields, the
others and the reserved ones keep their values; SLIPLIM is clamped to 1 to 96; a register that is read-only keeps its value. R119, R120: LOOPSET
and LOOPB change the counts, the bases and the predicates they name. R102, R208: a seed and an engine's early snapshot. What a write in the same
cycle does otherwise is the model's choice: log entry 81. -/
def Obligations.ResultsLand : Prop :=
  (∀ r sl n, LandsOnce (.resultLands r sl n) r sl n false) ∧ (∀ r sl n, LandsOnce (.ifqReinjection r sl n) r sl n true) ∧
  (∀ (x : Runner) (p : Pend),
    (∀ i, p.dst = .g i → i ≠ 0 → ∃ y, x.land p = { x with leg := { x.leg with g := y, gp := mset x.leg.gp i p.poison } } ∧
      ∀ j, vget y j = if j = i then p.val.setWidth 64 else vget x.leg.g j) ∧
    (∀ i, p.dst = .a i → i ≠ 0 → ∃ y, x.land p = { x with leg := { x.leg with a := y } } ∧
      ∀ j, vget y j = if j = i then p.val.setWidth 64 else vget x.leg.a j) ∧
    (p.dst = .g 0 ∨ p.dst = .a 0 ∨ p.dst = .p 0 ∨ p.dst = .ap 0 → x.land p = x) ∧
    (∀ i, p.dst = .va i → ∃ y, x.land p = { x with leg := { x.leg with va := y } } ∧ (∀ j, j ≠ i → vget y.d j = vget x.leg.va.d j) ∧
      (∀ k < 1024, (vget y.d i).getLsbD k = if p.mask.getLsbD (k / 64) then p.val.getLsbD k else (vget x.leg.va.d i).getLsbD k) ∧
      (∀ j, mget y.stain j = if j = i ∧ p.stainW = true then p.stain else mget x.leg.va.stain j) ∧
      (∀ j, mget y.poison j = if j = i ∧ p.poisonW = true then p.poison else mget x.leg.va.poison j)) ∧
    (∀ i, p.dst = .vb i → ∃ y, x.land p = { x with leg := { x.leg with vb := y } } ∧ (∀ j, j ≠ i → vget y.d j = vget x.leg.vb.d j) ∧
      (∀ k < 1024, (vget y.d i).getLsbD k = if p.mask.getLsbD (k / 64) then p.val.getLsbD k else (vget x.leg.vb.d i).getLsbD k) ∧
      (∀ j, mget y.stain j = if j = i ∧ p.stainW = true then p.stain else mget x.leg.vb.stain j) ∧
      (∀ j, mget y.poison j = if j = i ∧ p.poisonW = true then p.poison else mget x.leg.vb.poison j)) ∧
    (∀ i, p.dst = .p i → i ≠ 0 → ∃ y, x.land p = { x with leg := { x.leg with c := { x.leg.c with preds := y } } } ∧
      ∀ k < 16, y.getLsbD k = if k = i.toNat then p.val.getLsbD 0 else x.leg.c.preds.getLsbD k) ∧
    (∀ i, p.dst = .ap i → i ≠ 0 → ∃ y, x.land p = { x with leg := { x.leg with s := { x.leg.s with preds := y } } } ∧
      ∀ k < 16, y.getLsbD k = if k = i.toNat then p.val.getLsbD 0 else x.leg.s.preds.getLsbD k)) ∧
  (∀ (x : Runner) (p : Pend),
    let v : Word := p.val.setWidth 64
    (p.dst = .sys 0x000 → ∃ w, x.land p = { x with leg := { x.leg with c := { x.leg.c with sw := w } } } ∧
      ∀ k < 64, w.getLsbD k = if k ∈ [0, 1, 6, 7, 8, 9, 10] then v.getLsbD k else x.leg.c.sw.getLsbD k) ∧
    (p.dst = .sys 0x001 → ∃ w, x.land p = { x with leg := { x.leg with s := { x.leg.s with sw := w } } } ∧
      ∀ k < 64, w.getLsbD k = if k ∈ [0, 1] then v.getLsbD k else x.leg.s.sw.getLsbD k) ∧
    (p.dst = .sys 0x002 → ∃ w, x.land p = { x with leg := { x.leg with c := { x.leg.c with xpc := w } } } ∧
      ∀ k < 64, w.getLsbD k = (decide (4 ≤ k) && v.getLsbD k)) ∧
    (p.dst = .sys 0x003 → ∃ w, x.land p = { x with leg := { x.leg with s := { x.leg.s with xpc := w } } } ∧
      ∀ k < 64, w.getLsbD k = (decide (4 ≤ k) && v.getLsbD k)) ∧
    (p.dst = .sys 0x006 → ∃ y, x.land p = { x with leg := { x.leg with c := { x.leg.c with preds := y } } } ∧ ∀ j, 1 ≤ j → j < 16 →
      y.getLsbD (x.leg.c.pphys (BitVec.ofNat 4 j)).toNat = v.getLsbD j) ∧
    (p.dst = .sys 0x007 → ∃ y, x.land p = { x with leg := { x.leg with s := { x.leg.s with preds := y } } } ∧ ∀ j, 1 ≤ j → j < 16 →
      y.getLsbD (x.leg.s.pphys (BitVec.ofNat 4 j)).toNat = v.getLsbD j) ∧
    (p.dst = .sys 0x008 → x.land p = { x with leg := { x.leg with c := { x.leg.c with lc := v.setWidth 32 } } }) ∧
    (p.dst = .sys 0x009 → x.land p = { x with leg := { x.leg with c := { x.leg.c with lfc := v.setWidth 32 } } }) ∧
    (p.dst = .sys 0x00A → x.land p = { x with leg := { x.leg with s := { x.leg.s with lc := v.setWidth 32 } } }) ∧
    (p.dst = .sys 0x00B → x.land p = { x with leg := { x.leg with s := { x.leg.s with lfc := v.setWidth 32 } } }) ∧
    (p.dst = .sys 0x00C → x.land p = { x with leg := { x.leg with c := { x.leg.c with rot := v.setWidth 4 } } }) ∧
    (p.dst = .sys 0x00D → x.land p = { x with leg := { x.leg with c := { x.leg.c with prot := v.setWidth 3 } } }) ∧
    (p.dst = .sys 0x00E → x.land p = { x with leg := { x.leg with s := { x.leg.s with rot := v.setWidth 4, prot := v.extractLsb' 4 3 } } }) ∧
    (p.dst = .sys 0x010 → ∃ y : BitVec 7, x.land p = { x with leg := { x.leg with lim := y } } ∧ y.toNat = min 96 (max 1 (v.toNat % 128))) ∧
    (p.dst = .sys 0x012 → ∃ w, x.land p = { x with leg := { x.leg with cellcfg := w } } ∧
      ∀ k < 64, w.getLsbD k = (decide (k < 8) && v.getLsbD k)) ∧
    (∀ n, p.dst = .sys n → n ∉ [0x000, 0x001, 0x002, 0x003, 0x006, 0x007, 0x008, 0x009, 0x00A, 0x00B, 0x00C, 0x00D, 0x00E, 0x010, 0x012] →
      x.land p = x) ∧
    (∀ lc lfc rot prot pv pm, lc < 2 ^ 32 → lfc < 2 ^ 32 → rot < 16 → prot < 8 → pv < 256 → pm < 256 →
      p.val = loopVal lc lfc rot prot pv pm →
      (p.dst = .loop .c → ∃ y, x.land p = { x with leg := { x.leg with c := { x.leg.c with
          lc := BitVec.ofNat 32 lc, lfc := BitVec.ofNat 32 lfc, rot := BitVec.ofNat 4 rot, prot := BitVec.ofNat 3 prot, preds := y } } } ∧
        ∀ k < 16, y.getLsbD k = if 8 ≤ k ∧ pm.testBit (k - 8) then pv.testBit (k - 8) else x.leg.c.preds.getLsbD k) ∧
      (p.dst = .loop .a → ∃ y, x.land p = { x with leg := { x.leg with s := { x.leg.s with
          lc := BitVec.ofNat 32 lc, lfc := BitVec.ofNat 32 lfc, rot := BitVec.ofNat 4 rot, prot := BitVec.ofNat 3 prot, preds := y } } } ∧
        ∀ k < 16, y.getLsbD k = if 8 ≤ k ∧ pm.testBit (k - 8) then pv.testBit (k - 8) else x.leg.s.preds.getLsbD k)) ∧
    (p.dst = .sda → x.land p = { x with leg := { x.leg with sda := p.val } }) ∧
    (p.dst = .sdb → x.land p = { x with leg := { x.leg with sdb := p.val } }) ∧
    (p.dst = .esnapP → x.land p = { x with press := { x.press with esnap := p.val.setWidth 32 } }) ∧
    (p.dst = .esnapS → x.land p = { x with spr := { x.spr with esnap := p.val.setWidth 32 } }) ∧
    (p.dst = .esnapL → x.land p = { x with relay := { x.relay with esnap := p.val.setWidth 32 } }))

/-- R137, R236, R239, R332, R349, R363, R370, R422: what ends a wait, shows a queue entry, makes a QDRAIN's effect, completes a patch copy, lets a
rewound runner issue again, ends a not-present hold, and counts a replay. Points that the rules leave open are the model's choice: log entries 18,
20 and 21. -/
def Obligations.RunnerEvents : Prop :=
  (∀ (r : Nat) (sl : Slice) (s : State), 0 < ((s.rn r).st sl).wait → ((s.rn r).st sl).wait ≤ s.cycle → (s.rn r).preempt = false →
    (s.rn r).rewind = none → exec (.waitElapsed r sl) s = .next (s.modR r fun x => x.modSt sl fun t => { t with wait := 0 })) ∧
  (∀ (r : Nat) (q : QName) (s : State), exec (.queueEntryVisible r q) s = .next (s.modR r fun x =>
    { x with freed := x.freed.filter (fun e => !(e.1 == q && decide (e.2 ≤ s.cycle))), leg := shownLeg x.leg q s.cycle })) ∧
  (∀ (r n : Nat) (one : Bool) (s : State), (s.rn r).qdrain = some (one, n) →
    exec (.qdrainTakesEffect r) s = .next (if (∀ e ∈ (s.rn r).leg.ldq one, e.st = .reserved → n ≤ e.id) then
      s.modR r fun x =>
        let stay (q : List LdqE) : List LdqE := q.filter fun e => decide (n ≤ e.id)
        let l := if one then { x.leg with ldq1 := stay x.leg.ldq1 } else { x.leg with ldq0 := stay x.leg.ldq0 }
        { x with leg := { l with s := { l.s with wait := max l.s.wait (s.cycle + 1) } }, qdrain := none } else s)) ∧
  (∀ (r : Nat) (sl : Slice) (c : PatchCopy) (s : State), ((s.rn r).sx sl).im.copy = some c →
    if c.fin ≤ s.cycle then ∃ t, exec (.patchCopyComplete r sl) s = .next t ∧ t.tabs = s.tabs ∧ t.fw = s.fw ∧ t.mem.phys = s.mem.phys ∧
      t.runners = (s.modR r fun x => x.modX sl fun y =>
        { y with im := intoIdle y.im c (match aget y.im.code c.patch with | some b => b | none => []) }).runners
    else exec (.patchCopyComplete r sl) s = .next s) ∧
  (∀ (r : Nat) (z : Rewind) (s : State), HasRunner s r → (s.rn r).rewind = some z → z.at_ ≤ s.cycle → (s.rn r).holdNp = [] →
    (s.rn r).ackm = 0 → (s.rn r).stopReq = false → (∀ q ∈ (s.rn r).laq, q.id ∉ z.redo) → (∀ q, s.squadOf (s.rn r) = some q → q.hold = false) →
    ∃ t, exec (.rewindReentry r) s = .next t ∧ (t.rn r).rewind = none ∧ t.mem = s.mem ∧ t.tabs = s.tabs ∧ t.fw = s.fw ∧
      (let l := (s.rn r).leg
       let n := s.cycle - z.at_
       (t.rn r).leg = { l with c := waitMore l.c n, s := waitMore l.s n })) ∧
  (∀ (r : Nat) (s : State), HasRunner s r → ∃ t, exec (.notPresentHoldRelease r) s = .next t ∧ t.mem = s.mem ∧
    t.rn r = { s.rn r with
      holdNp := if (∀ n ∈ (s.rn r).holdNp, (aget (s.rn r).extents n).any (·.p) = true) then [] else (s.rn r).holdNp }) ∧
  (∀ (r : Nat) (s : State), (s.rn r).active = true → (s.rn r).stopReq = false →
    exec (.softError r true) s = .next (s.modR r fun x => { x with softrep := x.softrep + 1 })) ∧
  (∀ (r : Nat) (s : State), (s.rn r).active = true → (s.rn r).stopReq = false → (s.rn r).rewind = none →
    exec (.softError r false) s = .next (s.rewind r 3 []))

/-- R144, R235, R236, R322, R341, R375: what happens to stores, extents, exchanges, BARS and runners that are through. Points that the rules leave
open are the model's choice: log entries 16 and 17. -/
def Obligations.SquadEvents : Prop :=
  (∀ (r : Nat) (s : State) (e : SaqE) (l : List SaqE) (d : VqE) (m : List VqE), HasRunner s r → (s.rn r).saq = e :: l →
    (s.rn r).leg.sdq = d :: m → d.shown = true → (s.rn r).rewind = none → (s.rn r).hamper.length < 64 → (s.rn r).hamFull = false →
    s.queuesSound r = true → ∃ t,
    exec (.storeMatch r) s = .next t ∧ t.mem = s.mem ∧ (t.rn r).saq = l ∧ (t.rn r).leg = { (s.rn r).leg with sdq := m } ∧
    (t.rn r).hamper = (s.rn r).hamper ++ [storeHam (s.rn r) e d]) ∧
  (∀ (r k : Nat) (e : Extent) (s : State), (∃ c ∈ s.fw.cmds, 16 * r + k ∈ c.acks) → aget (s.rn r).extents k = some e →
    s.extentBusy (s.rn r) e = false → s.hamIn (s.rn r) e = false →
    (let f (c : Cmd) : Cmd := { c with acks := c.acks.filter fun a => a != 16 * r + k }
     exec (.extentAcknowledge r k) s = .next { s with fw := { s.fw with cmds := s.fw.cmds.map f } })) ∧
  (∀ (r k : Nat) (e : Extent) (s : State), (∃ c ∈ s.fw.cmds, 16 * r + k ∈ c.acks) → aget (s.rn r).extents k = some e →
    (s.rn r).squad ≠ none → s.hamIn (s.rn r) e = true → (s.rn r).rewind = none → (s.rn r).stopReq = false →
    exec (.extentAcknowledge r k) s = .next (s.rewind r 1 ((s.hamExts r ++ [k]).eraseDups))) ∧
  (∀ (r k : Nat) (e : Extent) (s : State), (∃ c ∈ s.fw.cmds, 16 * r + k ∈ c.acks) → aget (s.rn r).extents k = some e →
    (s.rn r).squad ≠ none → s.hamIn (s.rn r) e = false → s.extentBusy (s.rn r) e = true →
    exec (.extentAcknowledge r k) s = .next s) ∧
  (∀ (q : Nat) (z : Squad) (s : State), s.squadNo q = some z → z.state = .running → 2 ≤ z.runners.length → z.exch = none →
    (∀ r ∈ z.runners, (s.rn r).exchAt ≠ none) →
    exec (.exchangePass q) s = .next (s.modSquad q fun z => { z with exch := some (s.lastReached z.runners + 8) })) ∧
  (∀ (q : Nat) (z : Squad) (s : State), s.squadNo q = some z → z.state = .running → 2 ≤ z.runners.length → z.exch = some s.cycle →
    (∀ r ∈ z.runners, (s.rn r).exchAt ≠ none) → exec (.exchangePass q) s = .next (s.joinSquad z.runners)) ∧
  (∀ (q k : Nat) (z : Squad) (s : State), s.squadNo q = some z → z.state = .running → z.runners ≠ [] → z.runners.Nodup →
    (∀ r ∈ z.runners, HasRunner s r ∧ s.barsReady r = some k) → ∃ t, exec (.barsComplete q) s = .next t ∧ t.mem.phys = s.mem.phys ∧
      ∀ r ∈ z.runners, (t.rn r).strong = (s.rn r).strong.tail ∧ (t.rn r).leg = (s.rn r).leg) ∧
  (∀ (r : Nat) (s : State), (s.rn r).squad ≠ none → (s.rn r).stopReq = false → (s.rn r).complete = true → (s.rn r).hamper = [] →
    exec (.runnerFinish r) s = .next (State.settle (s.modR r fun x =>
      { x.halt with hamper := [], spr := { x.spr with q := [] }, strong := [], laq := [], saq := [], preempt := false }))) ∧
  (∀ (r : Nat) (s : State), (s.rn r).squad ≠ none → (s.rn r).stopReq = false → (s.rn r).complete = false →
    exec (.runnerFinish r) s = .next s)

/-! ### Memory and the strong path -/

/-- R305, R318, R319, R323, R326: a strong access whose turn it is, without a race and with good bytes, is performed: STS and SIG write, LDS reads, an
AMO does both and answers the old value. R434: an AMO of the host window that no AtomicOp carries whole is sent as a CAS from the value that its
bytes have, until it finds that value. A barrier arrival asks for its slot; then it counts in ARRIVED, or starts the next phase, if its barrier
still has the GEN that its BARARR captured, and is discarded as stale if not. Points that the rules leave open are the model's choice: log entries
23 and 24. -/
def Obligations.StrongAccessesPerform : Prop :=
  (∀ (r n : Nat) (s : State) (e : StrongE) (o : StsO), HasRunner s r → StrongDue s r e → n = e.id → e.i = .sts o →
    s.strongRace r e true = none → ∃ t, exec (.strongAccessPerform r n) s = .next t ∧
      StrongWrote s t r e (if o.w32 then 4 else 8) (some e.s2.toNat)) ∧
  (∀ (r n : Nat) (s : State) (e : StrongE) (o : SigO), HasRunner s r → StrongDue s r e → n = e.id → e.i = .sig o →
    s.strongRace r e true = none → ReadsWell s r e.s1 8 → ∃ t, exec (.strongAccessPerform r n) s = .next t ∧
      StrongWrote s t r e 8 (some ((if o.add then s.strongOld r e.s1 8 else 0) + e.s2.toNat))) ∧
  (∀ (r n : Nat) (s : State) (e : StrongE) (o : LdsO), HasRunner s r → StrongDue s r e → n = e.id → e.i = .lds o →
    s.strongRace r e false = none → ReadsWell s r e.s1 (if o.w32 then 4 else 8) → ∃ t, exec (.strongAccessPerform r n) s = .next t ∧
      StrongWrote s t r e (if o.w32 then 4 else 8) none ∧ StrongGave t r e (s.strongOld r e.s1 (if o.w32 then 4 else 8))) ∧
  (∀ (r n : Nat) (s : State) (e : StrongE) (o : AmoO), HasRunner s r → StrongDue s r e → n = e.id → e.i = .amo o →
    s.strongRace r e true = none → s.strongRace r e false = none → ReadsWell s r e.s1 (if o.w32 then 4 else 8) → s.casNext r e = none →
    let k := if o.w32 then 4 else 8
    ∃ t, exec (.strongAccessPerform r n) s = .next t ∧ StrongGave t r e (s.strongOld r e.s1 k) ∧
      StrongWrote s t r e k (amoVal o.op (8 * k) (s.strongOld r e.s1 k) e.s2.toNat e.s3.toNat)) ∧
  (∀ (r n m : Nat) (s : State) (e : StrongE) (o : AmoO), HasRunner s r → StrongDue s r e → n = e.id → e.i = .amo o →
    s.strongRace r e true = none → s.strongRace r e false = none → s.casNext r e = some m →
    exec (.strongAccessPerform r n) s = .next
      ((s.modStrong r e.id fun _ => { e with cas := some m }).askStrong r { e with cas := some m } (s.cycle + 4))) ∧
  (∀ (r : Nat) (s : State) (c : SprCmd) (q : List SprCmd) (o : GS), HasRunner s r → (s.rn r).spr.q = c :: q → c.i = .bararr o →
    s.arrivalReady r c = true → c.start = none → (s.rn r).preempt = false → ∃ t, exec (.barrierArrival r) s = .next t ∧
      t.mem.phys = s.mem.phys ∧ (t.rn r).spr.q.head? = some { c with start := some s.cycle }) ∧
  (∀ (r : Nat) (s : State) (c : SprCmd) (q : List SprCmd) (o : GS), HasRunner s r → (s.rn r).spr.q = c :: q → c.i = .bararr o →
    s.arrivalReady r c = true → c.start ≠ none → (∀ z ∈ s.mem.reqs, z.use = .strong r c.id → z.start ≠ none) → s.arrivalRace r c = none →
    ReadsWell s r c.s1 16 →
    let b := (s.physRead (strongPa (s.rn r) c.s1 16) 16).1
    ∃ t, exec (.barrierArrival r) s = .next t ∧ (t.rn r).spr.q = q ∧ (t.rn r).spr.donec = (s.rn r).spr.donec + 1 ∧
      (∀ g, c.stop = false → c.gen = some g → fieldLe b 12 4 % 2 = 1 → fieldLe b 0 4 = g.toNat →
        t.mem.phys = s.mem.phys.write (strongPa (s.rn r) c.s1 16) (arrivedBytes b)) ∧
      (c.stop = true ∨ c.gen = none ∨ fieldLe b 12 4 % 2 = 0 ∨ c.gen ≠ some (BitVec.ofNat 32 (fieldLe b 0 4)) →
        t.mem.phys = s.mem.phys ∧ (t.rn r).spr.stale = true))

/-- R290 to R294, R338, R419 to R421, R259: what a data slot, an arrival, a lap boundary, a mending slot, a row's precharge, the end of a sweep and a
change of data rate do. A row that must enter a full MITQ waits, and enters as an entry frees. Points that the rules leave open are the model's
choice: log entries 22, 26, 44, 59 and 103. -/
def Obligations.MemoryEvents : Prop :=
  (∀ (ch r : Nat) (s : State) (q : Req), (s.chan ch).dataOpen s.cycle = true → s.slotChoice ch = some q → q.use = .table r →
    (∃ t, (s.rn r).tabop = some t) →
    s.tableReadRace r q = none →
    ∃ t, exec (.dataSlot ch) s = .next t ∧ t.mem.phys = s.mem.phys ∧
      let rd := s.physRead q.pa q.len
      let at_ := s.cycle + chanLatency ch q.run
      t.mem.reqs = s.mem.reqs.map fun z =>
        if z.id = q.id then { z with start := some s.cycle, arrive := some at_, data := rd.1, fail := rd.2 } else z) ∧
  (∀ (ch k o : Nat) (s : State) (q : Req), (s.chan ch).dataOpen s.cycle = true → s.slotChoice ch = some q → q.use = .fw k o → q.write = true →
    q.data ≠ [] → ∃ t, exec (.dataSlot ch) s = .next t ∧ t.mem.phys = s.mem.phys.write q.pa q.data ∧ ∀ z ∈ t.mem.reqs, z.id ≠ q.id) ∧
  (∀ (ch : Nat) (s : State), (s.chan ch).dataOpen s.cycle = false ∨ s.slotChoice ch = none → exec (.dataSlot ch) s = .next s) ∧
  (∀ (n r id c : Nat) (s : State) (q : Req) (e : LaqE) (a : Word), HasRunner s r → s.mem.reqs.find? (fun z => z.id == n) = some q →
    q.arrive = some c → c ≤ s.cycle → q.use = .load r id [0] → (s.rn r).laqE id = some e → e.addrs = [a] → e.data = 0 →
    q.fail = false → isScratch q.va = false → q.data.length = sizeBits e.size / 8 → s.queuesSound r = true →
      ∃ t, exec (.dataArrival n) s = .next t ∧ t.mem.phys = s.mem.phys ∧
      (∀ z ∈ (t.rn r).leg.ldq0, z.id = id → z.st = .filled ∧ z.data = BitVec.ofNat 1024 (leNat q.data) ∧ z.poison = false) ∧
      (∀ z ∈ (t.rn r).leg.ldq1, z.id = id → z.st = .filled ∧ z.data = BitVec.ofNat 1024 (leNat q.data) ∧ z.poison = false) ∧
      ∀ z ∈ (t.rn r).laq, z.id ≠ id) ∧
  (∀ (ch : Nat) (s : State), s.cycle % 256 = 0 → ∃ t, exec (.lapBoundary ch) s = .next t ∧ t.mem.phys = s.mem.phys ∧
    (t.chan ch).hold = (s.chan ch).hold ∧ (t.chan ch).due = ((s.chan ch).due.filter fun d => (aget (s.chan ch).hold d.1).isSome) ∧
    (t.chan ch).mend = (if 6 < (s.chan ch).mitq.length then some s.cycle else none)) ∧
  (∀ (ch : Nat) (s : State) (row : Nat × Nat) (l : List (Nat × Nat)), s.cycle % 4 = 0 → s.position % 8 = 7 → s.position ≠ 7 →
    s.position ≠ 39 → (s.chan ch).stop = false → (s.chan ch).mitq = row :: l → ∃ t, exec (.mendingSlot ch) s = .next t ∧
      t.mem.phys = s.mem.phys ∧
      t.chan ch = { s.chan ch with
        mitq := l ++ (s.chan ch).stalled.take 1, stalled := (s.chan ch).stalled.drop 1, act := adel (s.chan ch).act row
        badpar := (s.chan ch).badpar.filter fun p => p != row }) ∧
  (∀ (ch : Nat) (s : State) (k : Nat × Nat), s.cycle % 4 = 0 → s.position % 8 = 7 → s.position ≠ 7 → s.position ≠ 39 →
    (s.chan ch).stop = false → (s.chan ch).mitq = [] → s.mem.reenc.find? (fun k => leafChan k == ch) = some k →
    exec (.mendingSlot ch) s = .next (s.reencStep k)) ∧
  (∀ (ch bank row : Nat) (s : State), (bank, row) ∉ (s.chan ch).stalled → (bank, row) ∉ (s.chan ch).badpar → (bank, row) ∉ (s.chan ch).mitq →
    ∃ t, exec (.rowPrecharge ch bank row) s = .next t ∧ t.mem.phys = s.mem.phys ∧ (Config.parityFails ch bank row s.cycle = false →
      let c := s.chan ch
      let n := min 0x7FFF (agetD c.act (bank, row) 0 + 1)
      let enters := s.bnd.actth ≤ n ∨ n = 0x7FFF
      t.chan ch = { c with
        act := aput c.act (bank, row) n
        mitq := if enters ∧ c.mitq.length < 4096 then c.mitq ++ [(bank, row)] else c.mitq
        stalled := if enters ∧ 4096 ≤ c.mitq.length then c.stalled ++ [(bank, row)] else c.stalled })) ∧
  (∀ (ch bank row : Nat) (s : State), (bank, row) ∉ (s.chan ch).stalled → (bank, row) ∉ (s.chan ch).badpar → (bank, row) ∉ (s.chan ch).mitq →
    (s.chan ch).mitq.length < 4096 →
    ∃ t, exec (.rowPrecharge ch bank row) s = .next t ∧ t.mem.phys = s.mem.phys ∧ (Config.parityFails ch bank row s.cycle = true →
      let c := s.chan ch
      t.chan ch = { c with
        act := aput c.act (bank, row) (min 0x7FFF (agetD c.act (bank, row) 0 + 1)), mitq := c.mitq ++ [(bank, row)]
        badpar := c.badpar ++ [(bank, row)] })) ∧
  (∀ (ch bank row : Nat) (s : State), (bank, row) ∈ (s.chan ch).stalled → exec (.rowPrecharge ch bank row) s = .next s) ∧
  (∀ (o : Nat) (s : State), (s.tabs.tkey o).sweep = true → s.remain o = 0 → ∃ t, exec (.sweepComplete o) s = .next t ∧ t.mem = s.mem ∧
    (t.tabs.tkey o).sweep = false ∧ (t.tabs.tkey o).rotcnt = (s.tabs.tkey o).rotcnt + 1 ∧ (t.tabs.tkey o).curgen = (s.tabs.tkey o).curgen ∧
    (if (s.tabs.tkey o).curgen then (t.tabs.tkey o).mem0 = none else (t.tabs.tkey o).mem1 = none)) ∧
  (∀ (k : Nat) (s : State), k < 12 → s.mem.trip.getLsbD k = true → s.mem.low.getLsbD k = false → (∀ p ∈ s.mem.retrain, p.1 ≠ k) →
    ∃ t at_, exec (.dataRateChange k) s = .next t ∧ t.mem.phys = s.mem.phys ∧
      t.mem.low.getLsbD k = true ∧ t.mem.retrain = s.mem.retrain ++ [(k, at_)] ∧ s.cycle < at_ ∧ at_ ≤ s.cycle + 40 * 1400 ∧
      ∀ c < 32, (t.chan (32 * k + c)).stop = true) ∧
  (∀ (k at_ : Nat) (s : State), s.mem.retrain.find? (fun p => p.1 == k) = some (k, at_) → at_ ≤ s.cycle →
    exec (.retrainingDone k) s = .next { s with mem := { s.mem with retrain := s.mem.retrain.filter fun p => p.1 != k } })

/-! ### The engines -/

/-- R187, R188, R197, R198: a Press command starts at the head of its queue; a K-block commits every element of its result at once, and stains the
accumulator's rows that a stained row of A, a stain of W or a quarantine hit reaches; a command that is over leaves its queue, and DONEC counts
it. Which bank holds the stains, and that only results of a float format count as hits, are the model's choice: log entries 79 and 82. Points that
the rules leave open are the model's choice: log entry 28. -/
def Obligations.PressCommandsRun : Prop :=
  (∀ (r : Nat) (s : State) (c : PressCmd) (l : List PressCmd), HasRunner s r → (s.rn r).press.fq = c :: l → c.start = none →
    (s.rn r).preempt = false → (s.rn r).press.fqFree ≤ s.cycle → (s.rn r).legEnd = none ∨ c.id < (s.rn r).legSeq →
    ∃ t, exec (.pressCommandStart r .fill) s = .next t ∧ t.mem = s.mem ∧
      t.rn r = { s.rn r with press := { (s.rn r).press with fq := { c with start := some s.cycle } :: l } }) ∧
  (∀ (r : Nat) (s : State) (c : PressCmd) (l : List PressCmd), HasRunner s r → (s.rn r).press.cq = c :: l → c.start = none →
    (s.rn r).preempt = false → (s.rn r).press.cqFree ≤ s.cycle → (s.rn r).press.held = none →
    ∃ t, exec (.pressCommandStart r .compute) s = .next t ∧ t.mem = s.mem ∧
      t.rn r = { s.rn r with press := { (s.rn r).press with cq := { c with start := some s.cycle, from0 := (s.rn r).press.step } :: l } }) ∧
  (∀ (r st : Nat) (s : State) (c : PressCmd) (m : MatOp), HasRunner s r → HeadMatrix (s.rn r) c m st →
    let p := (s.rn r).press
    let a := p.slot m.a
    let w := p.slot m.w
    let b := p.step
    let blk := kBlock m.fmt
    let g := accTag m.fmt
    b * blk < a.k → st + 5 + m.cycles (min a.k ((b + 1) * blk) - c.from0 * blk) ≤ s.cycle → NoErrors s →
    (∀ k ∈ banksOf g m.d, k < 8) →
    (c.quar = true ∨ ∀ i < a.rows, ∀ j < w.rows, let z := p.blockElem m b i j
      (c.fei = true → z.inv = false) ∧ (c.fez = true → z.dz = false) ∧ (c.feo = true → z.ovf = false)) →
    ∃ t, exec (.kBlockCommit r) s = .next t ∧ t.mem.phys = s.mem.phys ∧ (t.rn r).leg = (s.rn r).leg ∧ (t.rn r).press.step = b + 1 ∧
      (∀ i < 32, ∀ j < 32, (t.rn r).press.acc g m.d i j =
        if i < a.rows ∧ j < w.rows then (p.blockElem m b i j).v % 2 ^ (if g = .f64 then 64 else 32) else p.acc g m.d i j) ∧
      ∀ k ∈ banksOf g m.d, ∀ i < 32, ((t.rn r).press.bank k).stain.getLsbD i = true ↔
        (p.accStain g m.d).getLsbD i = true ∨ i < a.rows ∧ (a.stain.getLsbD i = true ∨ (∃ j < w.rows, w.stain.getLsbD j = true) ∨
          c.quar = true ∧ isFloat (tagFmt g) = true ∧ ∃ j < w.rows, let z := p.blockElem m b i j
            z.inv = true ∨ z.dz = true ∨ z.ovf = true ∨ isSpecial (tagFmt g) z.v = true)) ∧
  (∀ (r st : Nat) (s : State) (c : PressCmd) (m : MatOp), HasRunner s r → HeadMatrix (s.rn r) c m st → (s.rn r).press.allBlocks c = true →
    st + s.pressTime r c ≤ s.cycle → ∃ t, exec (.pressCommandComplete r .compute) s = .next t ∧
      t.mem = s.mem ∧ (t.rn r).leg = (s.rn r).leg ∧ (t.rn r).press.cq = (s.rn r).press.cq.tail ∧
      (t.rn r).press.donec = (s.rn r).press.donec + 1 ∧ (t.rn r).press.step = 0 ∧ (t.rn r).press.ac = (s.rn r).press.ac) ∧
  (∀ (r st : Nat) (s : State) (c : PressCmd) (l : List PressCmd) (o : MgFillO) (e : Tile), HasRunner s r → (s.rn r).press.fq = c :: l →
    c.i = .mgfill o → c.start = some st → st + s.pressTime r c ≤ s.cycle → NoErrors s →
    s.tile r (btile o.tile) = some e → o.d.toNat < 16 → ∃ t, exec (.pressCommandComplete r .fill) s = .next t ∧
      (t.rn r).press.fq = l ∧ ((t.rn r).press.slot o.d.toNat).st = .ready ∧ t.tile r (btile o.tile) =
        some { e with rdr := e.rdr - 1, state := if e.state = .draining ∧ e.rdr ≤ 1 then .ready else e.state })

/-- R217, R271, R272, R275, R276: a Sprinter command starts at the head of the queue, once nothing that it follows is under way; TZERO's chunk, with
no race, writes zeros over its rows; a command whose chunks have all committed leaves the queue, its tile ready. Points that the rules leave open
are the model's choice: log entry 53. -/
def Obligations.SprinterCommandsRun : Prop :=
  (∀ (r : Nat) (s : State) (c : SprCmd) (l : List SprCmd) (w : TileId) (e : Tile), HasRunner s r → (s.rn r).spr.q = c :: l →
    c.start = none → isArrival c = false → c.tile = some w → s.tile r w = some e → (s.rn r).preempt = false → c.held = false →
    c.after ≤ s.cycle → s.sprBlocked r c w e = false → (sprAccess c = true → acqGate (s.rn r) c.id = false) →
      ∃ t, exec (.sprinterCommandStart r) s = .next t ∧
      t.mem = s.mem ∧ (t.rn r).spr.q.head? = some { c with start := some s.cycle, from0 := c.chunk, issued := c.chunk, written := [] }) ∧
  (∀ (r st : Nat) (s : State) (c : SprCmd) (l : List SprCmd) (o : GS) (w : TileId) (e : Tile), HasRunner s r → (s.rn r).spr.q = c :: l →
    c.i = .tzero o → c.start = some st → c.tile = some w → c.src = none → w.lvl = .basin → s.tile r w = some e →
    c.chunk = 0 → c.from0 = 0 → e.rows * e.pitch ≤ 4096 → 0 < e.pitch → c.held = false → (s.rn r).preempt = false ∨ 0 < c.issued →
    st + s.sprTime r c ≤ s.cycle + 1 → (s.rn r).basin.wf = true → s.tileRace r w e (List.range e.rows) true = none →
    ∃ t, exec (.sprinterChunkCommit r) s = .next t ∧ t.mem.phys = s.mem.phys ∧ (t.rn r).leg = (s.rn r).leg ∧
      (t.rn r).spr.q.head?.map (·.chunk) = some 1 ∧
      ∀ i < e.rows, t.spRead r .basin (e.base + i * e.pitch) e.pitch = List.replicate e.pitch 0) ∧
  (∀ (r st : Nat) (s : State) (c : SprCmd) (l : List SprCmd) (w : TileId) (e : Tile), HasRunner s r → (s.rn r).spr.q = c :: l →
    c.start = some st → c.tile = some w → c.src = none → s.tile r w = some e → s.sprChunks r c ≤ c.chunk → sprWrites c.i = false →
    ∃ t, exec (.sprinterCommandComplete r) s = .next t ∧ t.mem.phys = s.mem.phys ∧ (t.rn r).leg = (s.rn r).leg ∧
      (t.rn r).spr.q = l ∧ (t.rn r).spr.donec = (s.rn r).spr.donec + 1 ∧ t.tile r w = some { e with state := .ready })

/-- R280, R282, R283: a collective starts when every member has its command at the head, and reads what its members give; each step ends within its
bound, and gives the next 4 KiB of every member's tile the reduced elements or the moved rows with their stains; the last takes the command from
every member's queue, counted in DONEC. Points that the rules leave open are the model's choice: log entries 44 and 54. -/
def Obligations.CollectivesRun : Prop :=
  (∀ (q : Nat) (mask : Word) (s : State) (ms : List Member), s.members q mask = some ms → (ms.map (·.r)).Nodup →
    (∀ m ∈ ms, HasRunner s m.r ∧ m.c.started = false ∧ (s.rn m.r).preempt = false ∧ m.c.due ≤ s.cycle) → NoErrors s →
      ∃ t due, exec (.collectiveStart q mask) s = .next t ∧
      s.cycle < due ∧ due ≤ s.cycle + (64 + 32 * ms.length) ∧ t.mem = s.mem ∧
      ∀ m ∈ ms, (t.rn m.r).relay.q.head? = some { m.c with
        started := true, due := due
        rows := if colErr ms = 0 ∧ ∃ z ∈ ms, (s.rn z.r).relay.step = 0 then
            (List.range m.e.rows).map fun i => (s.tileRow m.r m.c.tile m.e i, m.e.stain.getLsbD i)
          else m.c.rows }) ∧
  (∀ (q : Nat) (mask : Word) (s : State) (ms : List Member), s.members q mask = some ms → (∃ m ∈ ms, m.c.started = true) →
    exec (.collectiveStart q mask) s = .next s) ∧
  (∀ (q : Nat) (mask : Word) (s : State) (m : Member) (l : List Member), s.members q mask = some (m :: l) → ((m :: l).map (·.r)).Nodup →
    (∀ z ∈ m :: l, HasRunner s z.r ∧ z.c.started = true ∧ z.c.due < s.cycle) →
    (if colErr (m :: l) = 0 then colSteps m.e else 1) ≤ (s.rn m.r).relay.step + 1 → ∃ t, exec (.collectiveStep q mask) s = .next t ∧
      t.mem.phys = s.mem.phys ∧ ∀ z ∈ m :: l, (t.rn z.r).relay.q = (s.rn z.r).relay.q.tail ∧ (t.rn z.r).relay.step = 0 ∧
        (t.rn z.r).relay.donec = (s.rn z.r).relay.donec + 1 ∧ (t.rn z.r).leg = (s.rn z.r).leg ∧
        (colErr (m :: l) ≠ 0 → (t.rn z.r).relay.err = BitVec.ofNat 3 (colErr (m :: l)))) ∧
  (∀ (q : Nat) (mask : Word) (s : State) (m : Member) (l : List Member), s.members q mask = some (m :: l) → ((m :: l).map (·.r)).Nodup →
    colErr (m :: l) = 0 → (∀ z ∈ m :: l, HasRunner s z.r ∧ z.c.started = true ∧ z.c.due < s.cycle ∧ z.c.tile.lvl = .basin ∧
      (s.rn z.r).basin.wf = true ∧ z.e.rows ≤ 256 ∧ z.c.rows.length = z.e.rows ∧ ∀ p ∈ z.c.rows, p.1.length = z.e.pitch) →
    let k := (s.rn m.r).relay.step
    ∃ t, exec (.collectiveStep q mask) s = .next t ∧ (k + 1 < colSteps m.e → ∀ z ∈ m :: l, (t.rn z.r).relay.step = k + 1) ∧
      ∀ j z, (m :: l)[j]? = some z → ∀ i < z.e.rows, ∀ x < z.e.pitch,
        let off := i * z.e.pitch + x
        4096 * k ≤ off → off < 4096 * (k + 1) → ∃ e, t.tile z.r z.c.tile = some e ∧
          (ColKeeps (m :: l) j i z → t.spRead z.r .basin (z.e.base + off) 1 = s.spRead z.r .basin (z.e.base + off) 1 ∧
            e.stain.getLsbD i = z.e.stain.getLsbD i) ∧
          (¬ColKeeps (m :: l) j i z → ∃ bs st, ColGives (m :: l) j i z bs st ∧ t.spRead z.r .basin (z.e.base + off) 1 = [bs.getD x 0] ∧
            (x + 1 = z.e.pitch → e.stain.getLsbD i = st)))

/-! ### Table operations complete -/

/-- R224, R244, R246: a table operation whose image has come takes effect within its bound; then the A slice goes on. A TDEF defines its tile; a write
that is refused takes a trap with its table and reason and changes no table. R223, R244, R247, R249, R250, R252, R254, R256, R258, R259, R266:
what an accepted image puts into its table, and the lowest reason of a refused one. A quota write goes on until the pre-emption that it makes is
complete. Points that the rules leave open are the model's choice: log entries 37, 44, 55, 57 and 97. -/
def Obligations.TableOperationsComplete : Prop :=
  (∀ (r : Nat) (s : State) (t : TabOp), TableReady s r t → isTdef t.i = false → t.done = none → s.tableAsks t = false →
    ∃ due, s.cycle ≤ due ∧ due < s.cycle + usec (tableCode t.i).2 ∧
      exec (.tableWriteComplete r) s = .next (State.modTab { s with seq := s.seq + 1 } r fun t => { t with done := some due })) ∧
  (∀ (r due : Nat) (s u : State) (t : TabOp), TableReady s r t → isTdef t.i = false → t.done = some due → due ≤ s.cycle →
    s.applyTable r t = .ok u → (∀ o, t.i ≠ .pwquota o) → exec (.tableWriteComplete r) s = .next (u.endTable r)) ∧
  (∀ (r due : Nat) (s u : State) (t : TabOp) (o : GSS), TableReady s r t → t.i = .pwquota o → t.done = some due → due ≤ s.cycle →
    s.applyTable r t = .ok u → ∃ v, exec (.tableWriteComplete r) s = .next v ∧ v.tabs = u.tabs ∧ v.mem = u.mem ∧
      let m := u.quotaSaves t.s1.toNat
      let w := u.quotaEffects t.s1.toNat
      ((v.rn r).tabop = none ↔ ∀ z ∈ w.fw.squads, z.state = .saving → z.id ∈ m → r ∉ z.runners → ∀ k ∈ z.runners, (w.rn k).ackm = ~~~0)) ∧
  (∀ (r : Nat) (s : State) (t : TabOp), HasRunner s r → (s.rn r).tabop = some t → (∀ q ∈ s.mem.reqs, q.use ≠ .table r) →
    (s.rn r).stopReq = false → t.need ≤ t.img.length → t.bad = false → t.applied = true →
    exec (.tableWriteComplete r) s = .next (if s.quotaPending t.saves r then s else s.endTable r)) ∧
  (∀ (r due n : Nat) (s : State) (t : TabOp), TableReady s r t → isTdef t.i = false → t.done = some due → due ≤ s.cycle →
    s.applyTable r t = .error n → ∃ v, exec (.tableWriteComplete r) s = .next v ∧
      v = s.tableTrap r t 0x0B ((tableCode t.i).1 * 256 + n) t.s2 ∧ v.tabs = s.tabs) ∧
  (∀ (r : Nat) (s : State) (t : TabOp) (k : TileId) (e : Tile), TableReady s r t → isTdef t.i = true → t.tile (s.rn r) = some k →
    s.tileMade r k t.img = .ok e → exec (.tableWriteComplete r) s = .next ((s.setTile r k (some e)).endTable r)) ∧
  (∀ (r : Nat) (s : State) (t : TabOp) (k : TileId) (c : Nat), TableReady s r t → isTdef t.i = true → t.tile (s.rn r) = some k →
    s.tileMade r k t.img = .error c →
    exec (.tableWriteComplete r) s = .next ((s.setTile r k none).tableTrap r t c (if c = 2 then 3 else 0) t.s2)) ∧
  (∀ (s : State) (o v : Nat), o ≤ 1024 → v < 2 ^ 128 → bits v 16 16 = 0 → bits v 35 93 = 0 → bits v 0 16 ≠ 0 →
    s.putWeight o v true = .ok (s.withTables { s.tabs with
      weight := aput s.tabs.weight o
        { w := bits v 0 16, cur := (s.tabs.weightOf o).cur, pmax := bits v 32 3, pcur := (s.tabs.weightOf o).pcur } })) ∧
  (∀ (s : State) (o v : Nat), o ≤ 1024 → bits v 0 2 = 0 → bits v 14 82 = 0 → bits v 96 32 ≤ 10000 → v.testBit 13 = false → bits v 2 10 = 0 →
    s.putGran o v true = .ok (s.withTables { s.tabs with
      gran := aput s.tabs.gran o { quantum := bits v 96 32, near := v.testBit 12 } })) ∧
  (∀ (s : State) (o v : Nat), o ≤ 1024 → resv v [(128, 128), (105, 7), (93, 3), (73, 7), (3, 61), (0, 1)] = false → bits v 1 2 ≠ 3 →
    (quotaImg v).maxrun ≤ 256 → (quotaImg v).maxlease ≤ 256 → (quotaImg v).keymax ≤ 4096 → (quotaImg v).qslot ≤ 512 →
    ((quotaImg v).mode = .fixed → ∀ p ≤ 1024, p ≠ o → (s.tabs.quotaOf p).mode = .fixed → (s.tabs.quotaOf p).rmask &&& (quotaImg v).rmask = 0) →
    s.putQuota o v true = .ok (s.withTables { s.tabs with
      quota := aput s.tabs.quota o (quotaImg v), quotaNow := aput s.tabs.quotaNow o ((s.tabs.quotaInForce o).lowered (quotaImg v)) })) ∧
  (∀ (s : State) (o v : Nat) (al : Bool), 1024 < o → s.putWeight o v al = .error 1 ∧ s.putGran o v al = .error 1 ∧ s.putQuota o v al = .error 1) ∧
  (∀ (s : State) (o v : Nat), o ≤ 1024 → resv v [(35, 93), (16, 16)] = true → s.putWeight o v false = .error 2) ∧
  (∀ (s : State) (o i : Nat), (s.tabs.tkey o).sweep = false → (List.range 4096).find? (fun i => (aget s.tabs.keys i).isNone) = some i →
    (s.tabs.keys.filter fun q => q.2.owner == o).length < (s.tabs.quotaOf o).keymax → ∃ t, s.rotate o = .ok t ∧
      (t.tabs.tkey o).curgen = !(s.tabs.tkey o).curgen ∧ (t.tabs.tkey o).sweep = true ∧ t.mem = s.mem ∧ t.runners = s.runners ∧
      ∃ k, aget t.tabs.keys i = some { key := k, modelid := 0, owner := o, gen := !(s.tabs.tkey o).curgen, kind := .mem }) ∧
  (∀ (s : State) (o : Nat), (s.tabs.tkey o).sweep = true → s.rotate o = .error 8) ∧
  (∀ (s : State) (ix v : Nat) (bs : List (Nat × Nat)), ix ≤ 15 → resv v [(203, 5), (184, 8), (120, 8), (1, 63)] = false → v.testBit 0 = true →
    let p := pleatImg v
    p.owner ≤ 1024 ∨ p.owner = 0x7FF → p.Fits → p.Apart s.tabs ix → s.tabs.basesOf ix p = some bs →
    ({ p with bases := bs } : Pleat).DecodesAs s.tabs ix →
    ∃ t, s.putPleat ix v true = .ok t ∧ t.tabs = { s.tabs with pleats := aput s.tabs.pleats ix { p with bases := bs } } ∧
      Redue s t p.owner fun c k => p.owner ≠ 0x7FF ∧ c ∈ p.chans ∧ k < 64 ∧ k % 8 ≠ 7) ∧
  (∀ (s : State) (ix : Nat) (p : Pleat) (bs : List (Nat × Nat)), s.tabs.allocPleat ix p = some bs → bs.map (·.1) = p.chans ∧
    ∀ b ∈ bs, 2 ^ 21 ∣ b.2 ∧ b.2 + p.share ≤ 0x78000000 ∧ ∀ z ∈ s.tabs.pleats, z.1 ≠ ix → b.1 ∈ z.2.chans →
      let a := agetD z.2.bases b.1 0
      b.2 + p.share ≤ a ∨ a + z.2.share ≤ b.2) ∧
  (∀ (s : State) (ix v : Nat), ix ≤ 15 → resv v [(203, 5), (184, 8), (120, 8), (1, 63)] = false → v.testBit 0 = false →
    (pleatImg v).owner ≤ 1024 ∨ (pleatImg v).owner = 0x7FF →
    ((∀ q, aget s.tabs.pleats ix = some q → ∀ e ∈ s.tabs.leaves, meets e.pa e.size q.pbase q.len = false) →
      s.putPleat ix v true = .ok (s.withTables { s.tabs with pleats := adel s.tabs.pleats ix })) ∧
    ((∃ q, aget s.tabs.pleats ix = some q ∧ ∃ e ∈ s.tabs.leaves, meets e.pa e.size q.pbase q.len = true) → s.putPleat ix v true = .error 5)) ∧
  (∀ (s : State) (ch v : Nat), ch ≤ 383 → bits v 75 53 = 0 →
    let o := bits v 64 11
    o ≤ 1024 ∨ o = 0x7FF → (∀ k < 64, v.testBit k = true → k % 8 ≠ 7) →
    (∀ z ∈ s.tabs.pleats, ch ∈ z.2.chans → z.2.owner = 0x7FF ∨ z.2.owner = o) →
    ∃ t, s.putLap ch v true = .ok t ∧ t.tabs = s.tabs ∧ Redue s t o fun c k => c = ch ∧ k < 64 ∧ v.testBit k = true) ∧
  (∀ (s : State) (ix v : Nat), ix ≤ 255 → resv v [(352, 32), (248, 8), (184, 8), (120, 8), (15, 17)] = false → leaseBad v = false →
    let e := leaseImg v
    let new := bits v 2 2
    (aget s.tabs.leases ix = none → new = 1 → s.trusted e.peer = true →
      (e.lessor = false → (∀ z ∈ s.tabs.leases, z.1 ≠ ix → z.2.lessor = false → meets z.2.lbase z.2.len e.lbase e.len = false) ∧
        (((s.tabs.leases.filter fun z => z.1 != ix && !z.2.lessor).map fun z => z.2.len).sum + e.len ≤ 2 ^ 44)) →
      (e.lessor = true → s.tabs.inPleats e.owner e.lbase e.len = true ∧ s.tabs.anyMapped e.lbase e.len = false) →
      (s.tabs.leases.filter fun z => z.2.owner == e.owner).length + 1 ≤ (s.tabs.quotaOf e.owner).maxlease →
      s.putLease ix v true true = .ok (s.withTables { s.tabs with leases := aput s.tabs.leases ix { e with revoking := false } }) ∧
      s.putLease ix v true false = .error 3) ∧
    (∀ c, aget s.tabs.leases ix = some c →
      (c.revoking = false → new = 2 → c.same e = true → ∃ t, s.putLease ix v true true = .ok t ∧
        aget t.tabs.leases ix = some { c with revoking := true, deadline := nowNs s.cycle + 1000 * c.notice } ∧
        (∀ j, j ≠ ix → aget t.tabs.leases j = aget s.tabs.leases j) ∧ (c.lessor = true → t.tabs.leaves = s.tabs.leaves)) ∧
      (c.revoking = false → new = 0 → c.lessor = false → s.tabs.anyMapped c.lbase c.len = false → ∃ t, s.putLease ix v true true = .ok t ∧
        aget t.tabs.leases ix = none ∧ t.tabs.leaves = s.tabs.leaves) ∧
      (c.revoking = true ∨ new = 1 ∨ new = 0 ∧ (c.lessor = true ∨ s.tabs.anyMapped c.lbase c.len = true) ∨ new = 2 ∧ c.same e = false →
        s.putLease ix v true true = .error 5))) ∧
  (∀ (s : State) (ix : Word) (img : List Byte), ix.toNat < 4096 → fieldLe img 6 2 = 0 → fieldLe img 48 16 = 0 →
    let own := fieldLe img 0 2
    let kind := fieldLe img 2 1
    let g := fieldLe img 3 1
    let model := fieldLe img 4 2
    let k := s.tabs.tkey own
    (∀ kek, 1 ≤ kind → kind ≤ 3 → own ≤ 1024 → g ≤ 1 → kind = 3 ∨ model = 0 → aget s.tabs.keys ix.toNat = none →
      (kind = 1 → k.mem0 = none ∧ k.mem1 = none) → (kind = 2 → k.sealIx = none) →
      (kind = 3 → ∀ z ∈ s.tabs.keys, z.2.owner = own → z.2.kind = .model → z.2.modelid ≠ model) →
      (s.tabs.keys.filter fun q => q.2.owner == own).length + 1 ≤ (s.tabs.quotaOf own).keymax →
      s.tabs.ktk = some kek → match Config.kwUnwrap kek ((img.drop 8).take 40) with
      | none => s.putKey ix img true = .error 7
      | some key => ∃ t, s.putKey ix img true = .ok t ∧ t.mem = s.mem ∧
        aget t.tabs.keys ix.toNat = some
          { key := key, modelid := model, owner := own, gen := g = 1, kind := if kind = 1 then .mem else if kind = 2 then .seal else .model } ∧
        (∀ j, j ≠ ix.toNat → aget t.tabs.keys j = aget s.tabs.keys j) ∧ (∀ o, o ≠ own → t.tabs.tkey o = s.tabs.tkey o) ∧
        ∃ c, t.tabs.tkey own = { k with
          curgen := if kind = 1 then g = 1 else k.curgen, mem0 := if kind = 1 ∧ g = 0 then some ix.toNat else k.mem0
          mem1 := if kind = 1 ∧ g = 1 then some ix.toNat else k.mem1, sealIx := if kind = 2 then some ix.toNat else k.sealIx, ctxn := c }) ∧
    (∀ q, kind = 0 → own ≤ 1024 → g ≤ 1 → model = 0 → leNat ((img.drop 8).take 40) = 0 → aget s.tabs.keys ix.toNat = some q →
      if q.kind = .mem ∧ ∃ l ∈ s.tabs.leaves, l.owner = q.owner then s.putKey ix img true = .error 5
      else if q.kind = .mem ∧ (s.tabs.tkey q.owner).sweep = true then s.putKey ix img true = .error 8
      else ∃ t, s.putKey ix img true = .ok t ∧ t.mem = s.mem ∧ aget t.tabs.keys ix.toNat = none ∧
        (∀ j, j ≠ ix.toNat → aget t.tabs.keys j = aget s.tabs.keys j) ∧ (∀ o, o ≠ q.owner → t.tabs.tkey o = s.tabs.tkey o) ∧
        let drop (o : Option Nat) : Option Nat := if o = some ix.toNat then none else o
        let k := s.tabs.tkey q.owner
        t.tabs.tkey q.owner = { k with mem0 := drop k.mem0, mem1 := drop k.mem1, sealIx := drop k.sealIx }))

/-! ### Firmware's rounds -/

/-- R265, R314, R377 to R383, R418, R430: items acknowledge one by one; a squad of one runner whose image is complete is saved and holds no runner; a
released runner is as at reset; a gated and a tested runner. Points that the rules leave open are the model's choice: log entries 33, 34 and 44.
-/
def Obligations.RunnersLeave : Prop :=
  (∀ (r : Nat) (it : AckItem) (s : State) (z : Squad), HasRunner s r → s.squadOf (s.rn r) = some z → z.state = .saving →
    (s.rn r).preempt = true → (s.rn r).ackm.getLsbD (ackBit it) = false → s.ackReady r it = true → ∃ t,
    exec (.preemptAcknowledge r it) s = .next t ∧ t.mem.phys = s.mem.phys ∧ t.tabs = s.tabs ∧ (t.rn r).ackm = (s.rn r).ackm ||| (1#7 <<< ackBit it) ∧
      (it = .c → (t.rn r).cx.pend = []) ∧ (it = .a → (t.rn r).ax.pend = []) ∧
      (∀ i, vget (t.rn r).leg.g i = vget (s.rn r).leg.g i) ∧ ∀ i, vget (t.rn r).leg.a i = vget (s.rn r).leg.a i) ∧
  (∀ (r : Nat) (s : State) (v : Save) (z : Squad) (h : Heat), s.fw.saving.find? (fun e => e.run == r) = some v → v.due ≤ s.cycle →
    s.squadOf (s.rn r) = some z → z.runners = [r] → s.fw.saving.filter (fun e => e.run != r) = [] → s.heat z.heat = some h → h.ended = none →
    ∃ t, exec (.contextSaveComplete r) s = .next t ∧ (∀ y ∈ t.fw.squads, y.id = z.id → y.state = .saved ∧ y.runners = []) ∧
      (∃ i ∈ t.fw.images, i.heat = z.heat ∧ i.sqn = z.sqn ∧ i.idx = (s.rn r).idx ∧ i.nonce = (s.tabs.tkey z.owner).ctxn ∧
        i.run.leg = (s.rn r).leg) ∧ (t.tabs.tkey z.owner).ctxn = (s.tabs.tkey z.owner).ctxn + 1 ∧
      ∃ d, s.cycle < d ∧ d ≤ s.cycle + usec 1000 ∧ (r, d) ∈ t.fw.releasing) ∧
  (∀ (r due : Nat) (s : State), HasRunner s r → s.fw.releasing.find? (fun e => e.1 == r) = some (r, due) → due ≤ s.cycle → ∃ t,
    exec (.runnerRelease r) s = .next t ∧ t.mem.phys = s.mem.phys ∧
      t.rn r = { Runner.reset r with idleAt := s.cycle, withdrawn := (s.rn r).withdrawn } ∧ ∀ e ∈ t.fw.releasing, e.1 ≠ r) ∧
  (∀ (r due : Nat) (s : State), s.fw.releasing.find? (fun e => e.1 == r) = some (r, due) → s.cycle < due → exec (.runnerRelease r) s = .next s) ∧
  (∀ (r : Nat) (s : State), r < 256 → s.bnd.released = true → s.idle r = true → (s.rn r).gated = false → (s.rn r).idleAt + usec 200 ≤ s.cycle →
    exec (.runnerPowerGate r) s = .next (s.modR r fun x => { x with gated := true })) ∧
  (∀ (r : Nat) (s : State), HasRunner s r → s.fw.tests.contains r = true → s.squadOf (s.rn r) = none → ∃ t,
    exec (.selfTestComplete r true) s = .next t ∧ t.rn r = { s.rn r with withdrawn := false } ∧ t.fw.retired = s.fw.retired ∧
      t.fw.tests = s.fw.tests.filter (fun k => k != r)) ∧
  (∀ (r : Nat) (s : State), s.fw.tests.contains r = true → s.squadOf (s.rn r) = none → ∃ t,
    exec (.selfTestComplete r false) s = .next t ∧ t.runners = s.runners ∧ t.fw.retired = s.fw.retired ++ [r] ∧
      t.fw.tests = s.fw.tests.filter (fun k => k != r))

/-- R249, R266, R402, R404: a round credits every owner that has a ready squad, and takes what is left from the others; at other moments nothing
happens. Written weights count from the next fairness window. Points that the rules leave open are the model's choice: log entries 31 and 32. -/
def Obligations.SchedulingRounds : Prop :=
  (∀ (s : State), s.cycle % usec 10 ≠ 0 ∨ s.bnd.released = false → exec .schedulingRound s = .next s) ∧
  (∀ (s : State), s.bnd.released = true → s.cycle % usec 10 = 0 →
    exec .schedulingRound s = .next
      (let s := s.quotaRound.readmitAll
       (s.tabs.pools.foldl (fun s p => s.runPool p) s).settle)) ∧
  (∀ (s : State) (o : Nat), s.quotaRound.tabs.quotaInForce o = s.tabs.quotaOf o) ∧
  (∀ (s : State) (pool lvl o : Nat), (s.tabs.ownersOf pool).Nodup → o ∈ s.readyOwners pool lvl →
    (s.runLevel pool lvl false).defOf pool lvl o = min (s.defOf pool lvl o + 8 * ((s.tabs.weightOf o).cur : Int)) (8 * ((s.tabs.weightOf o).cur : Int) + 63)) ∧
  (∀ (s : State) (pool lvl o : Nat), (s.tabs.ownersOf pool).Nodup → o ∈ s.tabs.ownersOf pool → o ∉ s.readyOwners pool lvl →
    (s.runLevel pool lvl false).defOf pool lvl o = 0) ∧
  (∀ (s : State), s.cycle % usec 10000 = 0 → ∃ t, exec .fairnessWindow s = .next t ∧ t.mem = s.mem ∧ t.runners = s.runners ∧ t.fw = s.fw ∧
    ∀ o, (t.tabs.weightOf o).w = (s.tabs.weightOf o).w ∧ (t.tabs.weightOf o).cur =
      (match aget s.tabs.weight o with | some e => e.w | none => 1) ∧
      ∀ e, aget s.tabs.weight o = some e → (t.tabs.weightOf o).pcur = e.pmax) ∧
  (∀ (s : State), s.cycle % usec 10000 ≠ 0 → exec .fairnessWindow s = .next s)

/-- R256, R264, R314, R388, R391, R392, R399, R411, R417: visits of queues, background steps, the event interrupt, the deadline of a lease, and queues
parked after 64 µs of fault service, all but the PF's control queue (R390). That a WSETLOAD keeps its plaintext in the image until its end is the
model's choice: log entry 38; a chunk's plaintext is a free value: log entry 42. Points that the rules leave open are the model's choice: log
entries 35, 43, 44, 58 and 97. -/
def Obligations.FirmwareVisits : Prop :=
  (∀ (d k : Nat) (s : State), s.bnd.released = false ∨ slotBegins s.cycle k = false ∨ s.inSlot (d * 128 + k) = none →
    exec (.pollingSlot d k) s = .next s) ∧
  (∀ (d k : Nat) (s : State) (q : Queue), s.bnd.released = true → slotBegins s.cycle k = true → s.inSlot (d * 128 + k) = some q →
    s.queue (qKey q.func q.qid) = some q → q.blk = none → s.acceptable q = true → ∃ t y, exec (.pollingSlot d k) s = .next t ∧
      t.queue (qKey q.func q.qid) = some y ∧ y.read = q.read + 1 ∧ y.d = q.d ∧ y.token = q.token) ∧
  (∀ (d k : Nat) (s : State) (q : Queue), s.bnd.released = true → slotBegins s.cycle k = true → s.inSlot (d * 128 + k) = some q →
    s.queue (qKey q.func q.qid) = some q → q.blk = none → s.acceptable q = false → exec (.pollingSlot d k) s = .next s) ∧
  (∀ (k t : Nat) (s : State) (q : Queue) (p : Pkt), s.queue k = some q → q.npSince = some t → q.slot.isSome = true → q.blk = some p →
    isPfCtl q.func q.qid = false →
    t + usec 64 ≤ s.cycle → ∃ u, exec (.waitFaultTimeout k) s = .next u ∧ u.mem = s.mem ∧
      u.queue k = some { q with slot := none, parked := some s.cycle }) ∧
  (∀ (k t : Nat) (s : State) (q : Queue), s.queue k = some q → q.npSince = some t → s.cycle < t + usec 64 →
    exec (.waitFaultTimeout k) s = .next s) ∧
  (∀ (k : Nat) (s : State) (q : Queue), s.queue k = some q → isPfCtl q.func q.qid = true → exec (.waitFaultTimeout k) s = .next s) ∧
  (∀ (d : Nat) (s : State), s.bnd.released = true → s.cycle % 28 = 17 → ∃ t l, exec (.backgroundStep d) s = .next t ∧
    t.agenda = (l : List Cmd).map (fun c => Todo.act (.commandComplete c.id)) ++ s.agenda ∧ (∀ c, c ∈ l ↔ c ∈ s.fw.cmds ∧ c.pkt.die = d) ∧
    (l.map fun c => c.pkt.acc).Pairwise (· ≤ ·) ∧ (d ≠ 0 → t.fw = s.fw ∧ t.mem = s.mem ∧ t.tabs = s.tabs)) ∧
  (∀ (d : Nat) (s : State), s.bnd.released = false ∨ s.cycle % 28 ≠ 17 → exec (.backgroundStep d) s = .next s) ∧
  (∀ (s : State) (c : Cmd), s.fw.cmds = [c] → c.pkt.opc = 0x0D → c.steps < wsetChunks c.pkt →
    s.present c.pkt.func (fld c.pkt 24 8 + 4112 * c.steps) 4112 = true →
    ∃ t, exec (.commandComplete c.id) s = .next t ∧
      (let b := s.fwRead c.pkt.func (fld c.pkt 24 8 + 4112 * c.steps) 4112
       match Config.gcmOpen c.key (wsetIv c.pkt c.steps) [] (b.take 4096) (b.drop 4096) with
       | some l => t.mem.phys = s.mem.phys ∧ t.fw.cmds = [{ c with img := c.img ++ chunkBytes l, steps := c.steps + 1 }]
       | none => t.fw.cmds = [] ∧ t.tabs.wsets = s.tabs.wsets)) ∧
  (∀ (s : State) (g : Nat × Nat) (l : List (Nat × Nat)), s.bnd.released = true → s.cycle % 28 = 17 → s.fw.clearing = g :: l → s.fw.scrubs = [] →
    ∃ t, exec (.backgroundStep 0) s = .next t ∧ t.mem.phys = s.mem.phys ∧ (∀ e ∈ t.mem.races, e ∈ s.mem.races) ∧
      (∀ e ∈ t.mem.races, ∀ n, e.1 = .phys n → ¬(g.1 ≤ 256 * n ∧ 256 * n < g.1 + g.2)) ∧ ∀ c ∈ t.fw.clearing, c ≠ g) ∧
  (∀ (k c : Nat) (s : State) (q : Queue), s.queue k = some q → q.firstUnsig = some c → c + usec q.d.etime ≤ s.cycle → q.d.ecount ≠ 0 →
    ((s.func q.func).msixByte (16 * q.d.vector + 12)).getLsbD 0 = false → ∃ t, exec (.eventInterruptTimer k) s = .next t ∧ t.mem = s.mem ∧
      t.bnd.out = s.bnd.out ++ [.msix q.func q.d.vector] ∧ t.queue k = some { q with unsig := 0, firstUnsig := none }) ∧
  (∀ (i : Nat) (s : State) (e : Lease), aget s.tabs.leases i = some e → e.revoking = true → e.deadline ≤ nowNs s.cycle → e.lessor = true →
    pclass e.lbase ≠ .host → s.mem.phys.wf → s.fw.heats = [] → s.fw.squads = [] → ∃ t, exec (.leaseDeadline i) s = .next t ∧
      aget t.tabs.leases i = none ∧ (∀ a, e.lbase ≤ a → a < e.lbase + e.len → t.mem.phys.get a = 0) ∧
      ∀ a, a < e.lbase ∨ e.lbase + e.len ≤ a → t.mem.phys.get a = s.mem.phys.get a) ∧
  (∀ (i : Nat) (s : State) (e : Lease), aget s.tabs.leases i = some e → e.revoking = true → e.deadline ≤ nowNs s.cycle → e.lessor = false →
    (∀ l ∈ s.tabs.leaves, 0 < l.size) → ∃ t, exec (.leaseDeadline i) s = .next t ∧ aget t.tabs.leases i = none ∧
      ∀ l ∈ t.tabs.leaves, l ∈ s.tabs.leaves ∧ meets l.pa l.size e.lbase e.len = false) ∧
  (∀ (i : Nat) (s : State) (e : Lease), aget s.tabs.leases i = some e → e.revoking = false ∨ nowNs s.cycle < e.deadline →
    exec (.leaseDeadline i) s = .next s)

/-! ### Packets -/

/-- R323, R394, R395, R398: NOP and SIGNAL complete at their start; WAIT and BARRIER_PKT wait in their queue and complete at the visit that finds
their words; a completion writes its value and status, behind stores that wait, also those of a closed queue. What firmware writes goes out to the
host at once, and is a request for a channel otherwise. Points that the rules leave open are the model's choice: log entries 43, 58 and 74. -/
def Obligations.SimplePackets : Prop :=
  (∀ (p : Pkt) (s : State), exec (.nopPacket p) s = .next (s.finish p Sts.ok.word)) ∧
  (∀ (p : Pkt) (s : State), exec (.signal p) s = .next (State.finish
    (State.fwWrite (if fld p 40 1 = 0 then s else s.fwSees p.func (fld p 24 8) 8) p.func (fld p 24 8) (natLe 8
      (if fld p 40 1 = 0 then fld p 32 8 else s.fwNat p.func (fld p 24 8) 8 + fld p 32 8)) true) p Sts.ok.word)) ∧
  (∀ (p : Pkt) (s : State) (q : Queue), s.queue p.queue = some q → ∃ t, exec (.waitPacket p) s = .next t ∧ t.mem = s.mem ∧
    t.queue p.queue = some { q with blk := some p, npSince := none }) ∧
  (∀ (p : Pkt) (s : State) (q : Queue), s.queue p.queue = some q → ∃ t, exec (.barrierPkt p) s = .next t ∧ t.mem = s.mem ∧
    t.queue p.queue = some { q with blk := some p, npSince := none }) ∧
  (∀ (k : Nat) (p : Pkt) (s : State) (q : Queue), s.queue k = some q → q.blk = some p → s.waitPresent p = true →
    (∀ w ∈ waitWords p, w.2 (s.fwNat p.func w.1 8) = true) →
    s.readBlocked k = State.finish (State.modQueue
      ((waitWords p).foldl (fun s w => s.fwSees p.func w.1 8) (s.modQueue k fun q => { q with npSince := none }))
      k fun q => { q with blk := none }) p Sts.ok.word) ∧
  (∀ (p : Pkt), p.opc = 2 → fld p 40 1 = 3 → ∀ w ∈ waitWords p, w.1 = fld p 24 8 ∧ ∀ n, w.2 n = decide (fld p 32 8 < n)) ∧
  (∀ (p : Pkt) (s : State) (q : Queue) (st x : Word), s.queue p.queue = some q → q.late = [] → s.storable p = true → p.cwaddr ≠ 0 →
    p.flags.getLsbD 1 = false → q.d.cmode = false →
    s.complete p st x = s.fwWrite p.func p.cwaddr (natLe 8 p.cwval.toNat ++ natLe 8 st.toNat) true) ∧
  (∀ (p : Pkt) (s : State) (q : Queue) (st x : Word), s.queue p.queue = some q → q.late ≠ [] ∨ s.storable p = false → ∃ y,
    (s.complete p st x).mem = s.mem ∧ (s.complete p st x).queue p.queue = some y ∧ y.late = q.late ++ [(p, st, x)]) ∧
  (∀ (p : Pkt) (s : State) (st x : Word), s.queue p.queue = none → s.storable p = false →
    (s.complete p st x).fw = { s.fw with late := s.fw.late ++ [(p, st, x)] } ∧ (s.complete p st x).mem = s.mem) ∧
  (∀ (s : State) (o a : Nat) (bs : List Byte) (l : Option Leaf) (pa : Nat), s.fwSpans o a bs.length = some [(l, pa, bs.length)] →
    (pclass pa = .host → s.hostShut o = false → (s.fwWrite o a bs).mem.phys = s.mem.phys.write pa bs) ∧
    (pclass pa = .host → s.hostShut o = true → (s.fwWrite o a bs).mem.phys = s.mem.phys) ∧
    (pclass pa = .hbm ∨ pclass pa = .near → 0 < bs.length → pa % 256 + bs.length ≤ 256 → (s.fwWrite o a bs).mem.phys = s.mem.phys ∧
      ∃ q ∈ (s.fwWrite o a bs).mem.reqs, q.id = s.seq ∧ q.pa = pa ∧ q.data = bs ∧ q.write = true ∧ q.use = .fw 0 o ∧ q.elig = s.cycle + 4 ∧
        q.chan = s.chanOf pa))

/-- R25, R227, R231, R264, R400, R401: a LAUNCH that passes every check makes one heat, with its identifier, and its squads, ready for the Starter;
one that fails completes with the first failing check's status; a tenant being scrubbed launches nothing. Points that the rules leave open are the
model's choice: log entries 35 and 63. -/
def Obligations.LaunchMakesAHeat : Prop :=
  (∀ (p : Pkt) (s : State) (h : Heat), s.fw.scrubs.contains p.func = false → s.launchHeat p = .ok h → ∃ t, exec (.launch p) s = .next t ∧
    t.mem.phys = s.mem.phys ∧ t.tabs.leaves = s.tabs.leaves ∧ t.tabs.quota = s.tabs.quota ∧ t.tabs.keys = s.tabs.keys ∧
    t.runners = s.runners ∧ t.fw.squads = s.fw.squads ++ s.squadsOf h ∧ h ∈ t.fw.heats ∧
    (∀ g ∈ t.fw.heats, g = h ∨ g ∈ s.fw.heats) ∧ ∀ g ∈ s.fw.heats, g ∈ t.fw.heats) ∧
  (∀ (p : Pkt) (s : State) (e : Sts), s.fw.scrubs.contains p.func = false → s.launchHeat p = .error e →
    exec (.launch p) s = .next ((s.launchSees p).finish p e.word)) ∧
  (∀ (p : Pkt) (s : State), s.fw.scrubs.contains p.func = true → exec (.launch p) s = .next (s.finish p Sts.scrubbed.word)) ∧
  (∀ (p : Pkt) (s : State) (h : Heat), s.launchHeat p = .ok h → h.id = BitVec.ofNat 64 (p.func * 2 ^ 32 + p.serial) ∧ h.owner = p.func ∧
    1 ≤ h.obj.nrun ∧ h.obj.nrun ≤ 64 ∧ h.nsq = fld p 48 2 + 1 ∧ h.ended = none ∧ h.paused = false ∧ h.arg = BitVec.ofNat 64 (fld p 32 8) ∧
    (s.tabs.quotaInForce p.func).mode ≠ .none ∧ ((s.tabs.tkey p.func).mem0 ≠ none ∨ (s.tabs.tkey p.func).mem1 ≠ none) ∧
    ((fld p 50 1).testBit 5 = true → p.func = 0 ∧ p.qid = 0)) ∧
  (∀ (s : State) (h : Heat) (z : Squad), z ∈ s.squadsOf h → z.heat = h.id ∧ z.owner = h.owner ∧ z.nrun = h.obj.nrun ∧ z.state = .ready ∧
    z.runners = [] ∧ z.sqn < h.nsq) ∧
  (∀ (p : Pkt) (s : State), (fld p 50 1).testBit 5 = true → ¬(p.func = 0 ∧ p.qid = 0) → s.launchHeat p = .error .notPermitted) ∧
  (∀ (p : Pkt) (s : State), (fld p 50 1).testBit 5 = false → (s.tabs.quotaInForce p.func).mode = .none → s.launchHeat p = .error .quota)

/-- R235, R236, R289, R408, R409, R411, R413, R414: commands that take time begin: MAP of pages where none is present asks for their zero lines, and
maps host-window pages, which have none, at once; UNMAP and MIGRATE hide the pages and wait for the acknowledgements; a reset queue starts nothing
more; a saved heat is paused and its squads are pre-empted; a weight set is read under the key of its model; a stopped function's queues accept no
more. Points that the rules leave open are the model's choice: log entries 36, 38, 39, 44 and 74. -/
def Obligations.LongCommandsBegin : Prop :=
  (∀ (p : Pkt) (s : State) (g : Nat × Nat) (pas : List Nat), p.opc = 5 → OrderlyModule s → (∀ c ∈ s.fw.cmds, isMemCmd c.pkt = false) →
    s.tierRange p = .ok g → s.mapPages p g = some pas → (∀ l ∈ s.cmdLeaves p, s.pagePresent l = false) →
    (∀ a ∈ pas, pclass a = .hbm ∨ pclass a = .near) → pas ≠ [] → (∀ a ∈ pas, s.chanOf a ≠ none) → ∃ t, exec (.map p) s = .next t ∧
      t.tabs.leaves = s.tabs.leaves ∧ t.mem.phys = s.mem.phys ∧ Started t p fun c => c.steps = 2 ∧ c.acks = [] ∧
        c.pages = pas.map (fun a => (a, pageSize (fld p 43 1))) ∧
        ∀ a ∈ pas, (∀ b, a ≤ b → b < a + pageSize (fld p 43 1) → s.chanOf b ≠ none) →
          PageAsked t c.id (targetOf p 44) a (pageSize (fld p 43 1))) ∧
  (∀ (p : Pkt) (s : State) (g : Nat × Nat) (pas : List Nat), p.opc = 5 → OrderlyModule s → (∀ c ∈ s.fw.cmds, isMemCmd c.pkt = false) →
    s.tierRange p = .ok g → s.mapPages p g = some pas → (∀ l ∈ s.cmdLeaves p, s.pagePresent l = false) →
    (∀ a ∈ pas, pclass a = .host) → ∃ t, exec (.map p) s = .next t ∧
      t.tabs.leaves = (State.addLeaves (s.dropLeaves (targetOf p 44) (fld p 24 8) (fld p 32 8)) (targetOf p 44) (fld p 24 8)
        (pageSize (fld p 43 1)) pas ((fld p 42 1).testBit 0) ((fld p 42 1).testBit 1) ((fld p 42 1).testBit 2)).tabs.leaves) ∧
  (∀ (p : Pkt) (s : State), p.opc = 6 → OrderlyModule s → (∀ c ∈ s.fw.cmds, isMemCmd c.pkt = false) →
    (∀ l ∈ s.cmdLeaves p, partIn p l = false) → ∃ t, exec (.unmap p) s = .next t ∧ t.mem = s.mem ∧
      Started t p (fun c => c.steps = 1 ∧ s.cycle < c.due ∧ c.due ≤ s.cycle + usec 19) ∧
      ∀ l ∈ t.tabs.leaves, l.owner = targetOf p 44 → meets l.va l.size (fld p 24 8) (fld p 32 8) = true → l.p = false) ∧
  (∀ (p : Pkt) (s : State) (g : Nat × Nat) (pages : List (Nat × Nat)), p.opc = 7 → OrderlyModule s → (∀ c ∈ s.fw.cmds, isMemCmd c.pkt = false) →
    s.tierRange p = .ok g → (∀ l ∈ s.cmdLeaves p, partIn p l = false) →
    placeRuns g.1 g.2 (leafRuns (s.cmdLeaves p)) s.usedPages = some pages → ∃ t, exec (.migrate p) s = .next t ∧ t.mem = s.mem ∧
      Started t p (fun c => c.steps = 1 ∧ c.pages = pages) ∧
      ∀ l ∈ t.tabs.leaves, l.owner = targetOf p 44 → meets l.va l.size (fld p 24 8) (fld p 32 8) = true → l.p = false) ∧
  (∀ (p : Pkt) (s : State), (s.queue (resetTarget p)).isSome = true → fld p 24 2 ≤ 1023 → ∃ t, exec (.resetq p) s = .next t ∧
    Started t p (fun c => c.due = s.cycle + usec 990) ∧ (∀ q, t.queue (resetTarget p) = some q → q.pend = [] ∧ q.blk = none ∧ q.stopped = true) ∧
      ∀ h ∈ t.fw.heats, h.queue = resetTarget p → h.ended.isSome = true) ∧
  (∀ (p : Pkt) (s : State), (s.queue (resetTarget p)).isSome = true → fld p 24 2 ≤ 1023 → ∃ t, exec (.qclose p) s = .next t ∧
    Started t p (fun c => c.due = s.cycle + usec 990) ∧ (∀ q, t.queue (resetTarget p) = some q → q.pend = [] ∧ q.blk = none ∧ q.stopped = true) ∧
      ∀ h ∈ t.fw.heats, h.queue = resetTarget p → h.ended.isSome = true) ∧
  (∀ (p : Pkt) (s : State), s.queue (resetTarget p) = none ∨ 1023 < fld p 24 2 → exec (.resetq p) s = .next (s.finish p Sts.badPacket.word) ∧
    exec (.qclose p) s = .next (s.finish p Sts.badPacket.word)) ∧
  (∀ (p : Pkt) (s : State) (h : Heat), s.ctxHeat p = .ok h → (s.tabs.tkey h.owner).ctxn < 2 ^ 64 - 1 → (s.fw.squads.map (·.id)).Nodup → ∃ t,
    exec (.ctxsave p) s = .next t ∧ t.mem = s.mem ∧ Started t p (fun c => c.steps = 0) ∧
      (∀ g ∈ t.fw.heats, g.id = h.id → g.paused = true) ∧ ∀ z ∈ t.fw.squads, z.heat = h.id → z.state ≠ .running) ∧
  (∀ (p : Pkt) (s : State) (e : Nat × KeyE), s.tabs.keys.find? (fun e => e.2.owner == p.func && e.2.kind == .model && e.2.modelid == fld p 48 2) = some e →
    s.wsetBusy p.func (fld p 48 2) (fld p 50 1 == 1) = false → (s.tabs.wsets.filter fun w => w.owner == p.func).length < 64 → s.fw.cmds = [] →
    ∃ t, exec (.wsetload p) s = .next t ∧ t.mem = s.mem ∧ Started t p (fun c => c.key = e.2.key ∧ c.steps = 0)) ∧
  (∀ (p : Pkt) (s : State), s.tabs.keys.find? (fun e => e.2.owner == p.func && e.2.kind == .model && e.2.modelid == fld p 48 2) = none →
    exec (.wsetload p) s = .next (s.finish p Sts.noKey.word)) ∧
  (∀ (p : Pkt) (s : State), (s.fw.squads.map (·.id)).Nodup → ∃ t, exec (.vfstop p) s = .next t ∧ t.mem = s.mem ∧
    Started t p (fun c => c.due = s.cycle + usec 1000) ∧ (t.func (fld p 24 2)).stop = true ∧
    (∀ e ∈ t.fw.queues, e.2.func = fld p 24 2 → e.2.stopped = true) ∧ ∀ z ∈ t.fw.squads, z.owner = fld p 24 2 → z.state ≠ .running) ∧
  (∀ (s : State) (p : Pkt) (pas : List Nat) (pa a : Nat), s.mem.phys.wf → pa ∈ pas → pclass pa ≠ .host → pa ≤ a → a < pa + pageSize (fld p 43 1) →
    (s.mapNow p pas).mem.phys.get a = 0)

/-- R235, R302, R407, R408, R409, R411, R413, R414: commands that took time complete when what they wait for is over. Points that the rules leave open
are the model's choice: log entries 36, 38, 39 and 74. -/
def Obligations.LongCommandsEnd : Prop :=
  (∀ (n : Nat) (s : State) (c : Cmd), GoesOn s n c → c.pkt.opc = 5 → c.steps = 2 → c.acks = [] → c.due ≤ s.cycle →
    (s.tagBusy n = true → exec (.commandComplete n) s = .next s) ∧
    (s.tagBusy n = false → ∃ t, exec (.commandComplete n) s = .next t ∧ (∀ d ∈ t.fw.cmds, d.id ≠ n) ∧
      t.tabs.leaves = (State.addLeaves (s.dropLeaves (targetOf c.pkt 44) (fld c.pkt 24 8) (fld c.pkt 32 8)) (targetOf c.pkt 44) (fld c.pkt 24 8)
        (pageSize (fld c.pkt 43 1)) (c.pages.map (·.1)) ((fld c.pkt 42 1).testBit 0) ((fld c.pkt 42 1).testBit 1)
        ((fld c.pkt 42 1).testBit 2)).tabs.leaves)) ∧
  (∀ (n : Nat) (s : State) (c : Cmd), GoesOn s n c → c.pkt.opc = 6 → c.steps = 1 → c.acks = [] → c.due ≤ s.cycle →
    ∃ t, exec (.commandComplete n) s = .next t ∧ t.tabs.leaves =
      s.tabs.leaves.filter (fun l => !(l.owner == targetOf c.pkt 44 && meets l.va l.size (fld c.pkt 24 8) (fld c.pkt 32 8))) ∧
      ∀ d ∈ t.fw.cmds, d.id ≠ n) ∧
  (∀ (n a : Nat) (s : State) (c : Cmd) (l : Leaf), GoesOn s n c → c.pkt.opc = 7 → c.steps = 1 → c.acks = [] → c.due ≤ s.cycle →
    s.cmdLeaves c.pkt = [l] → c.pages = [(a, l.size)] → ∃ t, exec (.commandComplete n) s = .next t ∧ t.mem.phys = s.mem.phys ∧
      t.tabs.leaves = s.tabs.leaves ∧ ∃ d, GoesOn t n d ∧ d = { c with steps := 2 }) ∧
  (∀ (n : Nat) (s : State) (c : Cmd), GoesOn s n c → c.pkt.opc = 7 → c.steps = 2 → (leafRuns (s.cmdLeaves c.pkt)).flatten ≠ [] → c.pages ≠ [] →
    s.tagBusy n = true → exec (.commandComplete n) s = .next s) ∧
  (∀ (n a : Nat) (s : State) (c : Cmd) (l : Leaf), GoesOn s n c → c.pkt.opc = 7 → c.steps = 2 → c.acks = [] → c.due ≤ s.cycle →
    s.cmdLeaves c.pkt = [l] → c.pages = [(a, l.size)] → s.tagBusy n = false → ∃ t, exec (.commandComplete n) s = .next t ∧
      (∀ d ∈ t.fw.cmds, d.id ≠ n) ∧
      t.tabs.leaves = s.tabs.leaves.map (fun f => if f.owner = l.owner ∧ f.va = l.va then
        { f with pa := a, p := true, gen := (s.tabs.tkey l.owner).curgen, swept := 0 } else f)) ∧
  (∀ (n : Nat) (s : State) (c : Cmd), GoesOn s n c → c.pkt.opc = 5 ∨ c.pkt.opc = 6 ∨ c.pkt.opc = 7 → c.steps = 1 → c.acks ≠ [] ∨ s.cycle < c.due →
    exec (.commandComplete n) s = .next s) ∧
  (∀ (n : Nat) (s : State) (c : Cmd) (q : Queue), GoesOn s n c → c.pkt.opc = 0x0A → (∀ h ∈ s.fw.heats, h.queue ≠ resetTarget c.pkt) →
    c.queued = false → s.cycle < c.due → s.writesOut (resetTarget c.pkt) = false → s.fw.releasing = [] → s.queue (resetTarget c.pkt) = some q →
      ∃ t y, exec (.commandComplete n) s = .next t ∧
      t.queue (resetTarget c.pkt) = some y ∧ y.read = q.bell ∧ y.stopped = (s.func q.func).stop ∧ ∀ d ∈ t.fw.cmds, d.id ≠ n) ∧
  (∀ (n : Nat) (s : State) (c : Cmd) (q : Queue), GoesOn s n c → c.pkt.opc = 0x13 → (∀ h ∈ s.fw.heats, h.queue ≠ resetTarget c.pkt) →
    c.queued = false → s.cycle < c.due → s.writesOut (resetTarget c.pkt) = false → s.fw.releasing = [] → s.queue (resetTarget c.pkt) = some q →
    ∃ t, exec (.commandComplete n) s = .next t ∧
      t.queue (resetTarget c.pkt) = none ∧ (∀ z ∈ q.late, z ∈ t.fw.late) ∧ ∀ d ∈ t.fw.cmds, d.id ≠ n) ∧
  (∀ (n : Nat) (s : State) (c : Cmd), GoesOn s n c → c.pkt.opc = 0x0A ∨ c.pkt.opc = 0x13 → c.queued = false → s.cycle < c.due →
    (∃ h ∈ s.fw.heats, h.queue = resetTarget c.pkt) → exec (.commandComplete n) s = .next (s.dropToken (resetTarget c.pkt))) ∧
  (∀ (n : Nat) (s : State) (c : Cmd), GoesOn s n c → c.pkt.opc = 0x13 → c.queued = true →
    (∃ d ∈ s.fw.cmds, d.id ≠ n ∧ d.pkt.opc = 0x13 ∧ d.pkt.func = c.pkt.func) → exec (.commandComplete n) s = .next s) ∧
  (∀ (n : Nat) (s : State) (c : Cmd) (q : Queue), GoesOn s n c → c.pkt.opc = 0x13 → c.queued = true →
    (∀ d ∈ s.fw.cmds, d.id ≠ n → ¬(d.pkt.opc = 0x13 ∧ d.pkt.func = c.pkt.func)) → c.pkt.queue ≠ resetTarget c.pkt →
    s.queue (resetTarget c.pkt) = some q → ∃ t y d, exec (.commandComplete n) s = .next t ∧ t.queue (resetTarget c.pkt) = some y ∧
      y.pend = [] ∧ y.stopped = true ∧ GoesOn t n d ∧ d.queued = false ∧ d.due = s.cycle + usec 990) ∧
  (∀ (n : Nat) (s : State) (c : Cmd), GoesOn s n c → c.pkt.opc = 0x0B →
    (let id := BitVec.ofNat 64 (fld c.pkt 24 8)
     (∀ z ∈ s.fw.squads, z.heat = id → z.state ≠ .running ∧ z.state ≠ .saving) ∧ (s.savedOf id).length ≤ fld c.pkt 40 4) → ∃ b,
      exec (.commandComplete n) s = .next (State.endCmd (s.fwWrite c.pkt.func (fld c.pkt 32 8) b) c Sts.ok.word) ∧
      b.take 16 = natLe 4 (s.savedOf (BitVec.ofNat 64 (fld c.pkt 24 8))).length ++ List.replicate 12 0 ∧
      b.length = 16 + 32 * (s.savedOf (BitVec.ofNat 64 (fld c.pkt 24 8))).length) ∧
  (∀ (n : Nat) (s : State) (c : Cmd), GoesOn s n c → c.pkt.opc = 0x14 → s.fw.releasing = [] →
    (∀ a ∈ c.acks, (s.rn (a - 2 ^ 16)).squad = none) → exec (.commandComplete n) s = .next (s.endCmd c Sts.ok.word)) ∧
  (∀ (n : Nat) (s : State) (c : Cmd), GoesOn s n c → c.pkt.opc = 0x21 → s.cycle < c.due → s.fw.squads = [] → s.fw.releasing = [] →
    (∀ d ∈ s.fw.cmds, d.pkt.queue ≠ qKey (fld c.pkt 24 2) 0) → exec (.commandComplete n) s = .next (s.endCmd c Sts.ok.word)) ∧
  (∀ (s : State) (c : Cmd), s.fw.cmds = [c] → c.pkt.opc = 0x0D →
    wsetChunks c.pkt ≤ c.steps → s.present c.pkt.func (fld c.pkt 32 8) (fld c.pkt 40 8) = true → ∃ t w, exec (.commandComplete c.id) s = .next t ∧
      t.tabs.wmodel c.pkt.func (fld c.pkt 48 2) = some w ∧
      w.set (fld c.pkt 50 1 == 1) = { base := fld c.pkt 32 8, len := fld c.pkt 40 8, loaded := true } ∧ t.fw.cmds = []) ∧
  (∀ (n : Nat) (s : State) (c : Cmd), GoesOn s n c → c.pkt.opc = 0x10 →
    (s.cycle ≤ c.due → exec (.commandComplete n) s = .next s) ∧
    (c.due < s.cycle → ∃ t, exec (.commandComplete n) s = .next t ∧ (∀ d ∈ t.fw.cmds, d.id ≠ n) ∧
      (t.tabs.meter (targetOf c.pkt 32)).seq = (s.tabs.meter (targetOf c.pkt 32)).seq + 1)) ∧
  (∀ (n : Nat) (s : State) (c : Cmd), GoesOn s n c → c.pkt.opc = 0x20 → fld c.pkt 24 1 ≠ 3 → c.queued = true → s.writeBlocked n none = true →
    exec (.commandComplete n) s = .next s) ∧
  (∀ (n : Nat) (s u : State) (c : Cmd), GoesOn s n c → c.pkt.opc = 0x20 → fld c.pkt 24 1 ≠ 3 → fld c.pkt 24 1 ≠ 0 → c.queued = true →
    s.writeBlocked n none = false → s.putTable (fld c.pkt 24 1) (fld c.pkt 26 2) c.img (fld c.pkt 32 8 % 16 == 0) false = .ok u →
    exec (.commandComplete n) s = .next (u.endCmd c Sts.ok.word)) ∧
  (∀ (n : Nat) (s : State) (c : Cmd), GoesOn s n c → c.pkt.opc = 0x20 → fld c.pkt 24 1 = 0 → c.queued = false →
    exec (.commandComplete n) s = .next (if s.quotaPending c.saves 0x1FF then s else s.endCmd c Sts.ok.word))

/-- R244, R246, R255, R256, R264, R387, R389, R396, R407, R411, R413, R414, R415: commands that complete at their start, but for METERREAD, whose
sample is taken at the next cycle's beginning, and for a table write behind an earlier one, a quota's pre-emptions and a peer's answer. Points
that the rules leave open are the model's choice: log entries 37, 38, 39, 42, 46 and 57. -/
def Obligations.ShortCommands : Prop :=
  (∀ (p : Pkt) (s : State) (w : WModel), s.tabs.wmodel p.func (fld p 24 2) = some w → (w.set (fld p 26 1 == 1)).loaded = true → ∃ t y,
    exec (.wsetswitch p) s = .next t ∧ t.tabs.wmodel p.func (fld p 24 2) = some y ∧ y.cur = (fld p 26 1 == 1)) ∧
  (∀ (p : Pkt) (s : State) (w : WModel), s.tabs.wmodel p.func (fld p 24 2) = some w → (w.set (fld p 26 1 == 1)).loaded = false →
    exec (.wsetswitch p) s = .next (s.finish p Sts.busy.word)) ∧
  (∀ (p : Pkt) (s : State), p.func ≠ 0 ∨ fld p 28 2 = 0xFFFF → ∃ t, exec (.auditcfg p) s = .next t ∧
    t.tabs.audOf p.func = { s.tabs.audOf p.func with fracv := fld p 24 2, polv := fld p 26 1 == 1 }) ∧
  (∀ (p : Pkt) (s : State), p.func = 0 → fld p 28 2 ≠ 0xFFFF → ∃ t, exec (.auditcfg p) s = .next t ∧
    t.tabs.audOf (fld p 28 2) = { s.tabs.audOf (fld p 28 2) with fracf := fld p 24 2, polf := fld p 26 1 == 1 }) ∧
  (∀ (p : Pkt) (s : State), ∃ t, exec (.meterread p) s = .next t ∧ t.tabs = s.tabs ∧ t.mem = s.mem ∧
    Started t p fun c => c.due = s.cycle) ∧
  (∀ (p : Pkt) (s : State), ∃ t, exec (.keywrap p) s = .next t ∧ t.tabs.ktk = some (Config.shake256
    ([0x4C, 0x42, 0x39, 0x4B, 0x54, 0x4B] ++ Config.mlKemDecap s.mrBytes (s.fwRead p.func (fld p 24 8) 1568))) ∧ t.tabs.keys = s.tabs.keys) ∧
  (∀ (p : Pkt) (s : State), (let b := s.fwRead p.func (fld p 24 8) 64
      s.queue (qKey p.func (fld p 32 2)) = none ∧ s.descRefused p.func b = none) → ∃ t y, exec (.qopen p) s = .next t ∧
    t.queue (qKey p.func (fld p 32 2)) = some y ∧ y.d = descOf (s.fwRead p.func (fld p 24 8) 64) ∧ y.read = 0 ∧ y.bell = 0 ∧ y.func = p.func) ∧
  (∀ (p : Pkt) (s : State), (s.queue (qKey p.func (fld p 32 2))).isSome = true → exec (.qopen p) s = .next (s.finish p Sts.busy.word)) ∧
  (∀ (p : Pkt) (s : State) (h : Heat), s.ctxHeat p = .ok h →
    (let n := fieldLe (s.fwRead p.func (fld p 32 8) 16) 0 4
     s.mapped p.func (fld p 32 8) (16 + 32 * n) false = true ∧
      ∀ b ∈ recordsOf 32 (s.fwRead p.func (fld p 32 8 + 16) (32 * n)), s.entryOk h b = true) → ∃ t, exec (.ctxload p) s = .next t ∧
    ∀ g ∈ t.fw.heats, g.id = h.id → g.paused = false) ∧
  (∀ (p : Pkt) (s : State), s.ctxHeat p = .error .notPermitted → exec (.ctxload p) s = .next (s.finish p Sts.notPermitted.word) ∧
    exec (.ctxsave p) s = .next (s.finish p Sts.notPermitted.word)) ∧
  (∀ (p : Pkt) (s : State), (s.tabs.quotaInForce p.func).mode = .fixed →
    lentMask (fld p 32 1) (BitVec.ofNat 64 (fld p 24 8)) &&& ~~~(s.tabs.quotaInForce p.func).rmask = 0 → ∃ t, exec (.lend p) s = .next t ∧
    aget t.tabs.lent (p.func, fld p 32 1) = some (BitVec.ofNat 64 (fld p 24 8), fld p 34 2) ∧ t.tabs.quota = s.tabs.quota) ∧
  (∀ (p : Pkt) (s : State), (s.tabs.quotaInForce p.func).mode ≠ .fixed → exec (.lend p) s = .next (s.finish p Sts.notPermitted.word)) ∧
  (∀ (p : Pkt) (s : State), (∀ c ∈ s.fw.cmds, c.pkt.opc ≠ 0x21) → ∃ t, exec (.vfgo p) s = .next t ∧ (t.func (fld p 24 2)).stop = false ∧
    ∀ e ∈ t.fw.queues, e.2.func = fld p 24 2 → e.2.stopped = false) ∧
  (∀ (p : Pkt) (s u : State), p.func = 0 → (let img := leNat (s.fwRead p.func (fld p 24 8) 48)
      let z := s.fwSees p.func (fld p 24 8) 48
      z.writeBlocked z.seq none = false ∧ z.asksPeer (fld p 32 2) img (fld p 24 8 % 16 == 0) = false ∧
        z.putLease (fld p 32 2) img (fld p 24 8 % 16 == 0) false = .ok u) →
    exec (.lease p) s = .next (u.finish p Sts.ok.word)) ∧
  (∀ (p : Pkt) (s z : State), z = s.fwSees p.func (fld p 24 8) 48 →
    z.writeBlocked z.seq none = false → z.asksPeer (fld p 32 2) (leNat (s.fwRead p.func (fld p 24 8) 48)) (fld p 24 8 % 16 == 0) = true → p.func = 0 →
    ∃ t, exec (.lease p) s = .next t ∧ t.bnd.out = z.bnd.out ++ [.peer (fld p 32 2) false] ∧ t.tabs = z.tabs ∧
      Started t p (fun c => c.due = s.cycle + usec 1000)) ∧
  (∀ (p : Pkt) (s z : State), z = s.fwSees p.func (fld p 24 8) 48 → z.writeBlocked z.seq none = true → p.func = 0 →
    ∃ t, exec (.lease p) s = .next t ∧ t.tabs = z.tabs ∧ Started t p fun c => c.queued = true ∧ c.img = s.fwRead p.func (fld p 24 8) 48) ∧
  (∀ (p : Pkt) (s z : State), z = s.fwSees p.func (fld p 32 8) (imageLen (fld p 24 1)) → z.writeBlocked z.seq none = true →
    ∃ t, exec (.part p) s = .next t ∧ t.tabs = z.tabs ∧
      Started t p fun c => c.queued = true ∧ c.img = s.fwRead p.func (fld p 32 8) (imageLen (fld p 24 1))) ∧
  (∀ (p : Pkt) (s : State) (e : Lease), aget s.tabs.leases (fld p 24 2) = some e → p.func = 0 ∨ e.owner = p.func → e.revoking = false →
    (s.tabs.leases.map (·.1)).Nodup → ∃ t, exec (.revoke p) s = .next t ∧ ∃ n l,
      aget t.tabs.leases (fld p 24 2) = some
        { e with revoking := true, deadline := nowNs s.cycle + 1000 * e.notice, seqNo := n, unanswered := l }) ∧
  (∀ (p : Pkt) (s : State) (e : Lease), aget s.tabs.leases (fld p 24 2) = some e → p.func ≠ 0 → e.owner ≠ p.func →
    exec (.revoke p) s = .next (s.finish p Sts.notPermitted.word)) ∧
  (∀ (p : Pkt) (s z u : State), z = s.fwSees p.func (fld p 32 8) (imageLen (fld p 24 1)) → z.writeBlocked z.seq none = false → fld p 24 1 ≠ 0 →
    fld p 24 1 ≠ 3 → z.putTable (fld p 24 1) (fld p 26 2)
      (s.fwRead p.func (fld p 32 8) (imageLen (fld p 24 1))) (fld p 32 8 % 16 == 0) false = .ok u →
        exec (.part p) s = .next (u.finish p Sts.ok.word)) ∧
  (∀ (p : Pkt) (s z u : State), z = s.fwSees p.func (fld p 32 8) (imageLen 0) → z.writeBlocked z.seq none = false → fld p 24 1 = 0 →
    z.putQuota (fld p 26 2) (leNat (s.fwRead p.func (fld p 32 8) (imageLen 0))) (fld p 32 8 % 16 == 0) = .ok u →
    let v := u.quotaEffects (fld p 26 2)
    let vs := u.quotaSaves (fld p 26 2)
    (v.quotaPending vs 0x1FF = false → exec (.part p) s = .next (v.finish p Sts.ok.word)) ∧
    (v.quotaPending vs 0x1FF = true → ∃ t, exec (.part p) s = .next t ∧ t.tabs = u.tabs ∧ Started t p fun c => c.queued = false ∧ c.saves = vs)) ∧
  (∀ (p : Pkt) (s z : State) (n : Nat), z = s.fwSees p.func (fld p 32 8) (imageLen (fld p 24 1)) → z.writeBlocked z.seq none = false →
    fld p 24 1 ≠ 3 → z.putTable (fld p 24 1) (fld p 26 2)
      (s.fwRead p.func (fld p 32 8) (imageLen (fld p 24 1))) (fld p 32 8 % 16 == 0) false = .error n →
    exec (.part p) s = .next (z.finish p (Sts.tableRefused.word (fld p 24 1 * 256 + n))))

/-! ### Registers, boot, monitors, audit -/

/-- R286, R388, R409, R435, R437, R439: writes of the function registers, and functions that come and go; a function's queue 0 is closed once its
others have been; after a refused image the registers take no write and no function comes. Points that the rules leave open are the model's
choice: log entries 9, 39 and 58. -/
def Obligations.FunctionRegisters : Prop :=
  (∀ (f q : Nat) (v : BitVec 32) (s : State), q ≤ 1023 → (s.func f).enabled = true → ∃ t, exec (.doorbellWrite f q v) s = .next t ∧
    t.mem = s.mem ∧ t.tabs = s.tabs ∧ aget (t.func f).bells q = some v ∧ ∀ z, s.queue (qKey f q) = some z →
      t.queue (qKey f q) = some { z with bellIn := z.seen s.cycle, bell := v, bellAt := s.cycle }) ∧
  (∀ (f q : Nat) (v : BitVec 32) (s : State), 1023 < q ∨ (s.func f).enabled = false → exec (.doorbellWrite f q v) s = .next s) ∧
  (∀ (f : Nat) (s : State), (s.func f).enabled = true → (s.func f).cqen = false → s.bnd.released = true → f ≤ 1024 → s.queue (qKey f 0) = none →
    s.descRefused f (s.func f).cqdesc = none → ∃ t y, exec (.cqctlEnable f) s = .next t ∧ t.mem = s.mem ∧ (t.func f).cqen = true ∧
      t.queue (qKey f 0) = some y ∧ y.d = descOf (s.func f).cqdesc ∧ y.read = 0) ∧
  (∀ (f : Nat) (s : State) (e : Sts), s.descRefused f (s.func f).cqdesc = some e → exec (.cqctlEnable f) s = .next s) ∧
  (∀ (f : Nat) (s : State) (z : Queue), (s.func f).cqen = true → s.queue (qKey f 0) = some z → z.func = f → z.qid = 0 → ∃ t,
    exec (.cqctlDisable f) s = .next t ∧ (t.func f).cqen = false ∧ Started t (ownPkt 0x13 f 0) (fun c => c.queued = true) ∧
      ∀ q y, q ≠ 0 → s.queue (qKey f q) = some y → y.func = f → y.qid = q → Started t (ownPkt 0x13 f q) (fun c => c.due = s.cycle + usec 990) ∧
        ∃ w, t.queue (qKey f q) = some w ∧ w.pend = [] ∧ w.stopped = true) ∧
  (∀ (f : Nat) (s : State), (s.func f).cqen = false → exec (.cqctlDisable f) s = .next s) ∧
  (∀ (f : Nat) (on : Bool) (s : State), f ≠ 0 → f ≤ 1024 → s.bnd.refused = none → ∃ t, exec (.functionEnable f on) s = .next t ∧
    (t.func f).enabled = on) ∧
  (∀ (f off k : Nat) (on : Bool) (b : List Byte) (v : Word) (s : State), s.bnd.refused ≠ none → exec (.functionEnable f on) s = .next s ∧
    exec (.registerWrite f off b) s = .next s ∧ exec (.pcapWrite v) s = .next s ∧ exec (.hbmrateWrite v) s = .next s ∧
    exec (.einjWrite k v) s = .next s) ∧
  (∀ (on : Bool) (s : State), exec (.functionEnable 0 on) s = .next s) ∧
  (∀ (v : Word) (s : State), s.bnd.refused = none → exec (.pcapWrite v) s =
    .next { s with bnd := { s.bnd with pcapDue := min 2400 (max 1200 (v.toNat % 4096)) } }) ∧
  (∀ (v : Word) (s : State), s.bnd.refused = none → ∃ t, exec (.hbmrateWrite v) s = .next t ∧ t.mem.phys = s.mem.phys ∧
    t.bnd = { s.bnd with hbmReq := v.setWidth 12 } ∧
    ∀ k < 12, aget t.mem.rateDue k = if v.getLsbD k = s.bnd.hbmReq.getLsbD k then aget s.mem.rateDue k else some ((s.cycle / 3584 + 1) * 3584)) ∧
  (∀ (k : Nat) (v : Word) (s : State), exec (.einjWrite k v) s = .next (if Config.testEnabled = true ∧ s.bnd.refused = none ∧ bits v.toNat 32 4 ≤ 6 ∧
      k = bits v.toNat 32 4 * 512 + bits v.toNat 16 9 ∧ bits v.toNat 9 7 ≤ 71 ∧ bits v.toNat 2 7 ≤ 71
    then s.modMem fun m => { m with einj := aput m.einj k v } else s)) ∧
  (∀ (f off : Nat) (v : List Byte) (s : State), (s.func f).enabled = false → exec (.registerWrite f off v) s = .next s) ∧
  (∀ (f off : Nat) (v : List Byte) (s : State), s.bnd.refused = none → (s.func f).enabled = true → f ≠ 0 → (s.func f).tdi = .locked ∨
    (s.func f).tdi = .run →
    lockHit f off v.length = true → ∃ t, exec (.registerWrite f off v) s = .next t ∧ (t.func f).tdi = .error ∧
      (t.func f).cqdesc = (s.func f).cqdesc) ∧
  (∀ (f off : Nat) (b : Byte) (s : State), s.bnd.refused = none → (s.func f).enabled = true → off < 0x40 → (s.func f).cqen = false → f = 0 ∨
    (s.func f).tdi = .unlocked →
    ∃ t, exec (.registerWrite f off [b]) s = .next t ∧ t.mem = s.mem ∧ t.func f = { s.func f with cqdesc := (s.func f).cqdesc.set off b }) ∧
  (∀ (f v : Nat) (b : Byte) (s : State), s.bnd.refused = none → (s.func f).enabled = true → f = 0 ∨ (s.func f).tdi = .unlocked →
    v < vectorsOf f → b.getLsbD 0 = false →
    (s.func f).pba.contains v = true → ∃ t, exec (.registerWrite f (0x8000 + 16 * v + 12) [b]) s = .next t ∧ LastOut t (.msix f v) ∧
      (t.func f).pba.contains v = false)

/-- R10, R439, R440, R431, R432, R450: what a cold reset measures and keeps, when firmware runs, and what its samples do. Points that the rules leave
open are the model's choice: log entries 4, 6, 42, 49, 61 and 66. -/
def Obligations.BootAndMonitors : Prop :=
  (∀ (b : BootImages) (s : State), [b.hub, b.die, b.conf].find? (imageBad s.bnd.minSvn) = none → ∃ t, exec (.coldReset b) s = .next t ∧
    t.cycle = 0 ∧ t.mem = MemSys.reset ∧ t.tabs = Tables.reset ∧ t.runners = runnerNums.map Runner.reset ∧ t.fw.retired = s.fw.retired ∧
    t.bnd.booted = true ∧ t.bnd.released = false ∧ t.bnd.refused = none ∧ s.bnd.minSvn ≤ t.bnd.minSvn ∧
    t.bnd.mr = #v[measure Config.bootRom, measure b.hub.bytes, measure b.die.bytes, measure b.conf.bytes] ∧
    t.bnd.m = moduleDigest (measure Config.bootRom) (measure b.hub.bytes) (measure b.die.bytes)) ∧
  (∀ (b : BootImages) (s : State) (i : BootImage), [b.hub, b.die, b.conf].find? (imageBad s.bnd.minSvn) = some i → ∃ t,
    exec (.coldReset b) s = .next t ∧ t.bnd.refused.isSome = true ∧ t.bnd.released = false ∧ t.bnd.minSvn = s.bnd.minSvn ∧
    t.mem = MemSys.reset ∧ ∀ ok, exec (.firmwareRelease ok) t = .next t) ∧
  (∀ (s : State), exec (.firmwareRelease true) s = .next (if s.bnd.booted = true ∧ s.bnd.refused = none then
    { s with bnd := { s.bnd with released := true } } else s)) ∧
  (∀ (s : State), exec (.firmwareRelease false) s = .next s) ∧
  (∀ (m : Readings) (s : State), s.bnd.released = true → ∃ t, exec (.monitorSample m) s = .next t ∧ t.mem.phys = s.mem.phys ∧ t.tabs = s.tabs ∧
    t.fw.readings = m ∧ t.fw.flowLost = (s.fw.flowLost && decide (m.flow < 10)) ∧ (s.fw.flowLost = true → m.flow < 10 → t.fw.dieHot = [0, 1, 2, 3]) ∧
    (∀ k < 12, t.mem.trip.getLsbD k = (decide (400 ≤ m.stack.getD k 0) || (s.mem.trip.getLsbD k && decide (360 ≤ m.stack.getD k 0)))) ∧
    t.fw.powerHold = (decide (s.bnd.pcap < m.power) || (s.fw.powerHold && decide (s.bnd.pcap - 100 ≤ m.power))) ∧
    (∀ c < 32, 420 ≤ m.cluster.getD c 0 → aget t.fw.hot c = some true) ∧ (∀ c < 32, m.cluster.getD c 0 < 360 → aget t.fw.hot c = none)) ∧
  (∀ (m : Readings) (s : State), s.bnd.released = false → exec (.monitorSample m) s = .next s) ∧
  (∀ (c : Nat) (s : State), s.fw.powerOver = some c → s.cycle < c + usec 10000 ∨ (s.cycle - c) % usec 1000 ≠ 0 → exec .powerOverrun s = .next s) ∧
  (∀ (c r : Nat) (s : State) (z : Squad), s.fw.powerOver = some c → c + usec 10000 ≤ s.cycle → (s.cycle - c) % usec 1000 = 0 → s.fw.squads = [z] →
    z.state = .running → z.runners = [r] → r < 256 → ∃ t y, exec .powerOverrun s = .next t ∧ t.mem = s.mem ∧ t.fw.squads = [y] ∧ y.id = z.id ∧
      y.state = .saving ∧ y.request = some (s.cycle + usec 400)) ∧
  (∀ (s : State), (s.fw.squads.map (·.id)).Nodup → ∃ t, exec .flowLoss s = .next t ∧ t.mem = s.mem ∧ t.fw.flowLost = true ∧
    t.fw.dieHot = [0, 1, 2, 3] ∧
    ∀ z ∈ t.fw.squads, z.runners ≠ [] → z.state ≠ .running)

/-- R427, R428, R429: an audit runner takes a stored pass with the operands it had; when the replay is over the audit runner is as at reset, a pass
whose signature agrees leaves the store, and one that disagrees with no second auditor is counted, as is one that differed before and whose second
auditor is no longer in service. R425: the heat ends under the kill policy that the pass completed with. Points that the rules leave open are the
model's choice: log entries 29 and 64. -/
def Obligations.AuditReplays : Prop :=
  (∀ (d k : Nat) (s : State) (z : Pass), (s.auditors d).contains k = true → HasRunner s (auditNum d k) → s.fw.tests.contains (auditNum d k) = false →
    s.fw.replays = [] → agetD s.fw.store d [] = [z] → z.first = none → ∃ t due, exec (.auditReplay d k) s = .next t ∧ t.mem = s.mem ∧
      t.tabs = s.tabs ∧ (t.rn (auditNum d k)).press = z.press ∧ t.fw.replays = [((d, k), { z with due := due })] ∧ s.cycle + z.cycles ≤ due) ∧
  (∀ (d k : Nat) (s : State), (s.auditors d).contains k = false ∨ agetD s.fw.store d [] = [] → (∀ z ∈ agetD s.fw.store d [], z.first = none) →
    exec (.auditReplay d k) s = .next s) ∧
  (∀ (d k a : Nat) (g : BitVec 64) (s : State) (z : Pass), agetD s.fw.store d [] = [z] → z.first = some (a, g) →
    (∀ j ∈ s.auditors d, auditNum d j = a) → exec (.auditReplay d k) s = .next ((s.dropPass d z.id).mismatch z).settle) ∧
  (∀ (z : Pass), z.press.step = 0) ∧
  (∀ (s : State) (z : Pass), (z.kill = false → (s.mismatch z).fw.heats.map (·.ended) = s.fw.heats.map (·.ended)) ∧
    (z.kill = true → ∀ h ∈ (s.mismatch z).fw.heats, h.id = z.heat → h.ended.isSome = true)) ∧
  (∀ (d k : Nat) (s : State) (z : Pass), aget s.fw.replays (d, k) = some z → s.cycle < z.due → exec (.auditReplayComplete d k) s = .next s) ∧
  (∀ (d k : Nat) (s : State) (z : Pass), aget s.fw.replays (d, k) = some z → z.due ≤ s.cycle → z.first = none → s.fw.squads = [] →
    s.fw.heats = [] → HasRunner s (auditNum d k) → z.run ≠ auditNum d k →
    s.cur.run ≠ auditNum d k → ∃ t, exec (.auditReplayComplete d k) s = .next t ∧
      t.mem.phys = s.mem.phys ∧ t.rn (auditNum d k) = { Runner.reset (auditNum d k) with withdrawn := (s.rn (auditNum d k)).withdrawn } ∧
      (∀ e ∈ t.fw.replays, e.1 ≠ (d, k)) ∧
      (z.replayed ^^^ Config.silent s.seq = z.sig → (∀ y ∈ agetD t.fw.store d [], y.id ≠ z.id) ∧ t.tabs.audOf z.owner = s.tabs.audOf z.owner) ∧
      (z.replayed ^^^ Config.silent s.seq ≠ z.sig → (∀ j ∈ s.auditors d, j = k) →
        (t.tabs.audOf z.owner).mis = (s.tabs.audOf z.owner).mis + 1 ∧ (z.run, s.cycle) ∈ t.fw.mism))

/-! ### Links and sessions -/

/-- R298, R436, R437, R438: the interface states, and IDE streams: an interface that leaves RUN is scrubbed once its host-window pages have been
unmapped; keys are managed over a secured session of the PF. R439, R441, R442, R443: requests through a mailbox, what they change, the certificate
chain, and what is measured and signed; the layouts of the messages are the model's choice: log entry 41. Points that the rules leave open are the
model's choice: log entries 40, 42 and 51. -/
def Obligations.InterfacesAndSessions : Prop :=
  (∀ (m : SpdmMsg) (f : Nat) (s : State), s.tdiOf m = some f → exec (.lockInterface m) s = .next (
    if (s.func f).tdi = .unlocked ∧ (s.ideOf f).isSome = true then State.reply (s.modFunc f fun z => { z with tdi := .locked }) m 0x103 []
    else s.reply m 0x17F [])) ∧
  (∀ (m : SpdmMsg) (f : Nat) (s : State), s.tdiOf m = some f → exec (.startInterface m) s = .next (
    if (s.func f).tdi = .locked then State.reply (s.modFunc f fun z => { z with tdi := .run }) m 0x106 [] else s.reply m 0x17F [])) ∧
  (∀ (m : SpdmMsg) (f : Nat) (s : State), s.tdiOf m = some f → (s.func f).tdi ≠ .unlocked → ∃ t, exec (.stopInterface m) s = .next t ∧
    (t.func f).tdi = .unlocked ∧ ((s.func f).tdi ≠ .run → t.fw.scrubs.contains f = true ∧ ∀ h ∈ t.fw.heats, h.owner = f → h.ended.isSome = true) ∧
    ((s.func f).tdi = .run → Started t (ownPkt 0x101 f 0) fun c => c.due = s.cycle) ∧
    LastOut t (.spdm m.func 0x107 [])) ∧
  (∀ (n : Nat) (s : State) (c : Cmd), GoesOn s n c → c.pkt.opc = 0x101 → c.acks = [] → ∃ t, exec (.commandComplete n) s = .next t ∧
    (∀ l ∈ t.tabs.leaves, l.owner = c.pkt.func → 0 < l.size → pclass l.pa ≠ .host) ∧ t.fw.scrubs.contains c.pkt.func = true) ∧
  (∀ (n : Nat) (s : State) (c : Cmd), GoesOn s n c → c.pkt.opc = 0x101 → c.acks ≠ [] → exec (.commandComplete n) s = .next s) ∧
  (∀ (m : SpdmMsg) (f : Nat) (s : State), s.tdiOf m = some f → (s.func f).tdi = .unlocked →
    exec (.stopInterface m) s = .next (s.reply m 0x107 [])) ∧
  (∀ (m : SpdmMsg) (f : Nat) (s : State), s.tdiOf m = some f →
    exec (.getDeviceInterfaceState m) s = .next (s.reply m 0x105 [BitVec.ofNat 8 (tdiCode (s.func f).tdi)])) ∧
  (∀ (m : SpdmMsg) (f : Nat) (s : State), s.tdiOf m = some f → ∃ b, exec (.getDeviceInterfaceReport m) s = .next (s.reply m 0x104 b)) ∧
  (∀ (m : SpdmMsg) (s : State), s.tdiOf m = none → exec (.lockInterface m) s = .next s ∧ exec (.startInterface m) s = .next s ∧
    exec (.stopInterface m) s = .next s ∧ exec (.getDeviceInterfaceState m) s = .next s ∧ exec (.getDeviceInterfaceReport m) s = .next s) ∧
  (∀ (k : IdeKm) (s : State), KeysOpen s k = false → exec (.ideKeyManagement k) s = .next s) ∧
  (∀ (k : IdeKm) (s : State), KeysOpen s k = true → k.act = .program → k.stream ≤ 255 →
    (∀ z ∈ s.bnd.ide, z.secure = true → ¬(z.first ≤ k.last ∧ k.first ≤ z.last)) → exec (.ideKeyManagement k) s = .next (State.lostIde { s with bnd :=
      { s.bnd with ide := s.bnd.ide.filter (fun z => z.n != k.stream) ++ [{ n := k.stream, first := k.first, last := k.last, secure := false }] } })) ∧
  (∀ (k : IdeKm) (s : State) (z : IdeStream), k.act = .program → z ∈ s.bnd.ide → z.secure = true → z.first ≤ k.last → k.first ≤ z.last →
    exec (.ideKeyManagement k) s = .next s) ∧
  (∀ (k : IdeKm) (s : State) (z : IdeStream), KeysOpen s k = true → k.act = .goSecure → s.bnd.ide.find? (fun z => z.n == k.stream) = some z →
    exec (.ideKeyManagement k) s = .next { s with bnd :=
      { s.bnd with ide := s.bnd.ide.filter (fun z => z.n != k.stream) ++ [{ z with secure := true }] } }) ∧
  (∀ (k : IdeKm) (f : Nat) (s : State) (z : IdeStream), KeysOpen s k = true → k.act = .retire ∨ k.act = .program ∧ k.stream ≤ 255 ∧
    (k.last < z.first ∨ z.last < k.first) → s.bnd.ide = [z] → z.n = k.stream → f ≠ 0 →
    f ∈ s.bnd.funcs.map (·.1) → (s.func f).tdi = .locked ∨ (s.func f).tdi = .run → ∃ t, exec (.ideKeyManagement k) s = .next t ∧
      (∀ y ∈ t.bnd.ide, y.secure = false) ∧ (t.func f).tdi = .error) ∧
  (∀ (n f : Nat) (s : State) (z : IdeStream), s.bnd.ide = [z] → z.n = n → f ≠ 0 → z.first ≤ f → f ≤ z.last → f ∈ s.bnd.funcs.map (·.1) →
    (s.func f).tdi = .locked ∨ (s.func f).tdi = .run → ∃ t, exec (.ideIntegrityFailure n) s = .next t ∧
      t.bnd.ide = [{ z with secure := false }] ∧ (t.func f).tdi = .error ∧ ((s.func f).tdi = .locked → t.fw.scrubs.contains f = true) ∧
      ((s.func f).tdi = .run → Started t (ownPkt 0x101 f 0) fun c => c.due = s.cycle)) ∧
  (∀ (n : Nat) (s : State), s.bnd.ide.find? (fun y => y.n == n) = none → exec (.ideIntegrityFailure n) s = .next s) ∧
  (∀ (m : SpdmMsg) (s : State), s.boxOpen m = true → ∃ b, exec (.getCapabilities m) s = .next (s.send (.spdm m.func 0x61 b))) ∧
  (∀ (m : SpdmMsg) (s : State), s.boxOpen m = true → ∃ t, exec (.getVersion m) s = .next t ∧
    t.bnd.out = s.bnd.out ++ [.spdm m.func 0x04 [0, 0, 0, 2, 0x00, 0x12, 0x00, 0x13]] ∧
    t.bnd.negotiated = s.bnd.negotiated.filter (fun k => k != boxKey m) ∧ t.fw = s.fw) ∧
  (∀ (m : SpdmMsg) (s : State), s.boxOpen m = true → m.algOk = true → ∃ t, exec (.negotiateAlgorithms m) s = .next t ∧
    t.bnd.out = s.bnd.out ++ [.spdm m.func 0x63 [1, 2, 3, 4]] ∧ t.bnd.negotiated.contains (boxKey m) = true) ∧
  (∀ (m : SpdmMsg) (s : State), s.boxOpen m = true → m.algOk = false →
    exec (.negotiateAlgorithms m) s = .next (s.send (.spdm m.func 0x7F [1]))) ∧
  (∀ (m : SpdmMsg) (s : State), Negotiated s m →
    ∃ d, exec (.getDigests m) s = .next (s.send (.spdm m.func 0x01 ([0, 1] ++ Config.sha3 s.certChain))) ∧
    exec (.challenge m) s = .next (s.send (.spdm m.func 0x03 ([0, 1] ++ Config.sha3 s.certChain ++ d ++
      Config.falconSign s.mrBytes (Config.sha3 (m.body ++ ([0, 1] ++ Config.sha3 s.certChain ++ d))))))) ∧
  (∀ (m : SpdmMsg) (s : State), Negotiated s m → exec (.getCertificate m) s = .next
    (if fieldLe m.body 0 1 % 16 ≠ 0 then s.send (.spdm m.func 0x7F [1])
     else
       let rest := s.certChain.drop (fieldLe m.body 2 2)
       let part := rest.take (fieldLe m.body 4 2)
       s.send (.spdm m.func 0x02 ([0, 0] ++ natLe 2 part.length ++ natLe 2 (rest.length - part.length) ++ part)))) ∧
  (∀ (m : SpdmMsg) (s : State), Negotiated s m →
    let ix := fieldLe m.body 1 1
    let reg (v : BitVec 256) : List Byte := natLe 32 ((s.bnd.refused.getD v).toNat)
    (12 < ix → ix ≠ 0xFF → exec (.getMeasurements m) s = .next (s.send (.spdm m.func 0x7F [1]))) ∧
    (ix ≤ 12 ∨ ix = 0xFF → ∃ t, ∃ b : List Byte, exec (.getMeasurements m) s = .next t ∧
      t.bnd.out = s.bnd.out ++ [.spdm m.func 0x60 (if fieldLe m.body 0 1 % 2 = 1 then
        b ++ Config.falconSign s.mrBytes (Config.sha3 (m.body ++ b)) else b)] ∧
      (ix = 0 → b = [12]) ∧ (∀ k (h : k < 4), ix = k + 1 → b = ([1, BitVec.ofNat 8 ix, 32, 0] : List Byte) ++ reg s.bnd.mr[k]) ∧
      (ix = 5 → b = ([1, 5, 32, 0] : List Byte) ++ reg s.bnd.m) ∧ (ix = 0xFF → b.take 36 = ([12, 1, 32, 0] : List Byte) ++ reg s.bnd.mr[0]) ∧
      (t.tabs.meter (m.func.getD 0)).seq = (s.tabs.meter (m.func.getD 0)).seq + 1)) ∧
  (∀ (m : SpdmMsg) (s : State), Negotiated s m → ∃ t b, exec (.keyExchange m) s = .next t ∧ t.bnd.out = s.bnd.out ++ [.spdm m.func 0x64 b] ∧
    t.bnd.spdm = s.bnd.spdm ++ [{ id := s.seq, func := m.func, fin := false }]) ∧
  (∀ (m : SpdmMsg) (s : State), s.boxOpen m = true → s.bnd.negotiated.contains (boxKey m) = false →
    exec (.getDigests m) s = .next (s.send (.spdm m.func 0x7F [4])) ∧ exec (.getCertificate m) s = .next (s.send (.spdm m.func 0x7F [4])) ∧
    exec (.challenge m) s = .next (s.send (.spdm m.func 0x7F [4])) ∧ exec (.getMeasurements m) s = .next (s.send (.spdm m.func 0x7F [4])) ∧
    exec (.keyExchange m) s = .next (s.send (.spdm m.func 0x7F [4]))) ∧
  (∀ (m : SpdmMsg) (s : State) (z : Spdm), s.session m = some z → z.fin = false → ∃ t, exec (.finish m) s = .next t ∧
    t.bnd.spdm = s.bnd.spdm.map (fun y => if y.id = z.id then { y with fin := true } else y) ∧
    (s.boxOpen m = true → ∃ b, t.bnd.out = s.bnd.out ++ [.spdm m.func 0x65 b])) ∧
  (∀ (m : SpdmMsg) (s : State) (z : Spdm), s.session m = some z → z.fin = true → s.boxOpen m = true → ∃ b,
    exec (.keyUpdate m) s = .next (s.send (.spdm m.func 0x69 b)) ∧ exec (.heartbeat m) s = .next (s.send (.spdm m.func 0x68 []))) ∧
  (∀ (m : SpdmMsg) (s : State) (z : Spdm), s.session m = some z → z.fin = true → ∃ t, exec (.endSession m) s = .next t ∧
    (∀ y ∈ t.bnd.spdm, y.id ≠ z.id) ∧ (s.boxOpen m = true → t.bnd.out = s.bnd.out ++ [.spdm m.func 0x6C []])) ∧
  (∀ (m : SpdmMsg) (s : State), s.boxOpen m = true → exec (.spdmUnsupportedRequest m) s = .next (s.send (.spdm m.func 0x7F [7]))) ∧
  (∀ (m : SpdmMsg) (s : State), s.boxOpen m = false → exec (.getCapabilities m) s = .next s ∧ exec (.getDigests m) s = .next s ∧
    exec (.spdmUnsupportedRequest m) s = .next s)

/-- R255, R256, R296, R297, R434, R445, R446, R447: handshakes with peers, requests on leases, replies, and notices. Points that the rules leave open
are the model's choice: log entries 25, 37, 41, 50, 102 and 107; that the host's bytes are those of the model's memory in the host window, which a
completion then writes, is the model's choice too: log entry 3. -/
def Obligations.PeersAndLinks : Prop :=
  (∀ (n peer : Nat) (s : State), s.bnd.released = true → n ≤ 15 → peer ≠ 0 → peer ≠ s.bnd.modid.toNat → s.bnd.modid ≠ 0 → s.rigalOn n = none →
    s.rigalWith peer = none →
    ∃ t b, exec (.portTrained n peer) s = .next t ∧ t.mem = s.mem ∧ t.bnd.out = s.bnd.out ++ [.rigal n 1 b] ∧ t.bnd.portUp = s.bnd.portUp ∧
      t.bnd.rigal = s.bnd.rigal ++ [{ peer := peer, m := 0, ports := portBit n, step := 1, initiator := decide (s.bnd.modid.toNat < peer),
                                      isOpen := false, flits := 0, flitsIn := 0, rekeying := false, script := [], secret := [], keys := [],
                                      at_ := s.cycle }]) ∧
  (∀ (n peer : Nat) (s : State), s.bnd.released = false → exec (.portTrained n peer) s = .next s) ∧
  (∀ (n peer : Nat) (s : State) (z : Rigal), s.bnd.released = true → n ≤ 15 → peer ≠ 0 → peer ≠ s.bnd.modid.toNat → s.bnd.modid ≠ 0 →
    s.rigalOn n = none →
    s.rigalWith peer = some z → z.isOpen = true → ∃ t, exec (.portTrained n peer) s = .next t ∧ t.bnd.portUp.getLsbD n = true ∧
      ∃ k, t.rigalWith peer = some { z with ports := z.ports ||| portBit n, flits := k }) ∧
  (∀ (n peer : Nat) (s : State), peer = 0 ∨ peer = s.bnd.modid.toNat ∨ s.bnd.modid = 0 → exec (.portTrained n peer) s = .next s) ∧
  (∀ (n : Nat) (s : State), n ≤ 15 → (s.tabs.leases.map (·.1)).Nodup → ∃ t, exec (.portDown n) s = .next t ∧
    t.bnd.portUp = s.bnd.portUp &&& ~~~(portBit n) ∧ t.mem = s.mem ∧ (∀ z ∈ t.bnd.rigal, z.ports.getLsbD n = false) ∧
    ((∀ e ∈ s.tabs.leases, e.2.unanswered = []) → t.bnd.out = s.bnd.out) ∧
    ∀ i f, aget t.tabs.leases i = some f → f.lessor = false → ∃ e, aget s.tabs.leases i = some e ∧
      f.unanswered.map (·.seqNo) = e.unanswered.map (·.seqNo) ∧ ∀ m ∈ f.unanswered, m.port ≠ some n) ∧
  (∀ (m : RigalMsg) (s : State) (z : Rigal), RigalStep s m z 1 → ∃ t, exec (.rigalIdentity m) s = .next t ∧
    (∃ sc, t.rigalWith z.peer = some { z with m := m.m, step := 2, script := sc }) ∧
    (if z.initiator = true then ∃ b, t.bnd.out = s.bnd.out ++ [.rigal m.port 2 b] else t.bnd.out = s.bnd.out)) ∧
  (∀ (m : RigalMsg) (s : State) (z : Rigal), RigalStep s m z 2 → z.initiator = false → ∃ t b c, exec (.rigalEncapsulationKey m) s = .next t ∧
    (∃ sec, t.rigalWith z.peer = some { z with step := 3, script := (z.script ++ m.body) ++ b, secret := sec }) ∧
    t.bnd.out = s.bnd.out ++ [.rigal m.port 2 b, .rigal m.port 3 c]) ∧
  (∀ (m : RigalMsg) (s : State) (z : Rigal), RigalStep s m z 2 → z.initiator = true → ∃ t b, exec (.rigalCiphertext m) s = .next t ∧
    (∃ sec, t.rigalWith z.peer = some { z with step := 3, script := z.script ++ m.body, secret := sec }) ∧
    b = Config.falconSign s.mrBytes (natLe 32 (Config.shake256 (z.script ++ m.body)).toNat) ∧ t.bnd.out = s.bnd.out ++ [.rigal m.port 3 b]) ∧
  (∀ (m : RigalMsg) (s : State) (z : Rigal), RigalStep s m z 3 → s.accepts z.m = true → ∃ t, exec (.rigalSignature m) s = .next t ∧
    (∃ k, t.rigalWith z.peer = some { z with
      step := 4, isOpen := true, flits := k, flitsIn := 0, keys := sessionKeys z.secret z.script, at_ := s.cycle }) ∧
    t.bnd.portUp = s.bnd.portUp ||| z.ports) ∧
  (∀ (m : RigalMsg) (s : State) (z : Rigal), RigalStep s m z 3 → s.accepts z.m = false → ∃ t, exec (.rigalSignature m) s = .next t ∧
    t.rigalWith z.peer = none ∧ t.bnd.portUp = s.bnd.portUp &&& ~~~z.ports) ∧
  (∀ (m : RigalMsg) (s : State) (z : Rigal), s.rigalOn m.port = some z → z.isOpen = true → (s.bnd.rigal.map (·.peer)).Nodup → ∃ t,
    exec (.rigalRekey m) s = .next t ∧
      if m.ok = true ∧ s.accepts z.m = true then ∃ k sec, t.rigalWith z.peer = some { z with
        flits := k, flitsIn := 0, rekeying := false, secret := sec, keys := sessionKeys sec (z.script ++ m.body), at_ := s.cycle }
      else t.rigalWith z.peer = none) ∧
  (∀ (q : LeaseReq) (s : State) (e : Lease), aget s.tabs.leases q.entry = some e → e.lessor = true → 64 * q.line + 64 ≤ e.len + e.len / 15 →
    (e.ports &&& s.bnd.portUp).getLsbD q.port = true → (q.write = false ∨ ∀ n, aget e.applied q.line = some n → n < q.seqNo) →
    exec (.leaseRequest q) s = .next (((s.flit q.port true).flit q.port false).addReq 0x1FF
      [(e.lbase + (if 64 * q.line < e.len then 64 * q.line else 15 * (64 * q.line - e.len)), 64, q.data)] 0 q.write s.cycle
      (.lease q.entry q.line q.seqNo))) ∧
  (∀ (q : LeaseReq) (s : State) (e : Lease), aget s.tabs.leases q.entry = some e → (e.ports &&& s.bnd.portUp).getLsbD q.port = false →
    exec (.leaseRequest q) s = .next s) ∧
  (∀ (q : LeaseReq) (s : State) (e : Lease), aget s.tabs.leases q.entry = some e → (e.ports &&& s.bnd.portUp).getLsbD q.port = true →
    e.lessor = false ∨ e.len + e.len / 15 < 64 * q.line + 64 →
    exec (.leaseRequest q) s = .next (((s.flit q.port true).flit q.port false).send (.leaseReply q.entry q.line false []))) ∧
  (∀ (q : LeaseReq) (s : State) (e : Lease) (n : Nat), aget s.tabs.leases q.entry = some e → e.lessor = true → 64 * q.line + 64 ≤ e.len + e.len / 15 →
    (e.ports &&& s.bnd.portUp).getLsbD q.port = true → q.write = true → aget e.applied q.line = some n → q.seqNo ≤ n →
    exec (.leaseRequest q) s = .next (((s.flit q.port true).flit q.port false).send (.leaseReply q.entry q.line true []))) ∧
  (∀ (n r : Nat) (s : State) (q : Req) (data : List Byte) (w : TabOp), s.mem.reqs = [q] → q.id = n → q.chan = none → q.start = none →
    pclass q.pa = .host → q.use = .table r → q.write = false → q.reply = none → (s.physRead q.pa q.len).2 = false → s.tableReadRace r q = none →
    data.length = q.len → s.mem.phys.wf → HasRunner s r → (s.rn r).tabop = some w → q.va = w.s2 →
    ∃ t, exec (.hostCompletion n true data) s = .next t ∧ t.mem.phys = s.mem.phys.write q.pa data ∧ t.mem.reqs = [] ∧
      (t.rn r).tabop = some { w with img := data ++ w.img }) ∧
  (∀ (port n r : Nat) (data : List Byte) (s : State) (q : Req) (w : TabOp), s.mem.reqs = [q] → q.id = n → q.chan = none → q.start = none →
    q.use = .table r → s.bnd.portUp.getLsbD port = true → s.farVerifies n data = true → q.write = false →
    pclass q.pa ≠ .far ∨ q.elig + 1196 ≤ s.cycle → q.reply = none → (s.physRead q.pa q.len).2 = false → s.tableReadRace r q = none →
    HasRunner s r → (s.rn r).tabop = some w → q.va = w.s2 →
    ∃ t, exec (.leaseReply { port := port, req := n, data := data } true) s = .next t ∧ t.mem.phys = s.mem.phys ∧ t.mem.reqs = [] ∧
      (t.rn r).tabop = some { w with img := s.mem.phys.read q.pa q.len ++ w.img }) ∧
  (∀ (port n r : Nat) (ok : Bool) (data : List Byte) (s : State) (q : Req) (w : TabOp), s.mem.reqs = [q] → q.id = n → q.chan = none →
    q.start = none → q.use = .table r → s.bnd.portUp.getLsbD port = true → ok = false ∨ s.farVerifies n data = false → q.write = false →
    pclass q.pa = .far → q.els = [(q.pa, q.len)] → 0 < q.len → q.elig + 1196 ≤ s.cycle → q.reply = none → s.tableReadRace r q = none →
    HasRunner s r → (s.rn r).tabop = some w →
    ∃ t, exec (.leaseReply { port := port, req := n, data := data } ok) s = .next t ∧ t.mem.phys = s.mem.phys ∧ t.mem.reqs = [] ∧
      (t.rn r).tabop = some { w with bad := true }) ∧
  (∀ (m : LeaseRep) (ok : Bool) (s : State), s.bnd.portUp.getLsbD m.port = false → exec (.leaseReply m ok) s = .next s) ∧
  (∀ (m : LeaseRep) (ok : Bool) (s : State), (∀ q ∈ s.mem.reqs, q.id ≠ m.req ∧ q.reply = none) → ∃ t,
    exec (.leaseReply m ok) s = .next t ∧ t.mem = s.mem ∧ t.runners = s.runners) ∧
  (∀ (i : Nat) (s : State), ∃ t, exec (.peerNotice { entry := i, kind := .agree }) s = .next t ∧ t.bnd.agreed.contains i = true ∧ t.tabs = s.tabs) ∧
  (∀ (q : PeerNote) (s : State) (e : Lease), q.kind ≠ .agree → aget s.tabs.leases q.entry = some e → e.revoking = false → ∃ t,
    exec (.peerNotice q) s = .next t ∧ aget t.tabs.leases q.entry = some { e with revoking := true, deadline := nowNs s.cycle + 1000 * e.notice })

/-! ### Every slot, and the bundle -/

/-- R43, R53, R64, R354: a slot after the bundle has stopped does nothing; one whose register index does not exist is ILLEGAL_OPERAND of the whole
bundle; one whose guard is false has no effect, but a branch keeps its delay slots, and an early read of its guard traps. With a true guard, an
early read of the guard or of an operand raises EARLY_READ at the slot: stated of operations of each scalar and vector family. Points that the
rules leave open are the model's choice: log entries 12 and 89. -/
def Obligations.SlotsThatDoNotExecute : Prop :=
  (∀ (i : Instr) (s : State) (u : Use), s.cur.st ≠ .ok → instrUse s.me i = some u → exec i s = .next s) ∧
  (∀ (i : Instr) (s : State) (u : Use) (d : Nat), s.cur.st = .ok → instrUse s.me i = some u → u.bad = some d →
    exec i s = s.trapWhole u 0x02 d) ∧
  (∀ (i : Instr) (s : State) (u : Use), Skipped i s u → exec i s = .next (if u.branch = true then s.branches none else s)) ∧
  (∀ (o : SysO) (s : State) (u : Use), Skipped (.rft o) s u → exec (.rft o) s = .next (s.branches none)) ∧
  (∀ (i : Instr) (s : State) (u : Use) (d : Dst), s.cur.st = .ok → instrUse s.me i = some u → u.bad = none → s.guardOf u = false →
    s.earlyOf u false = some d → exec i s = s.trapSlot u 0x06 (dstDetail d)) ∧
  (∀ o, EarlyTraps (.add o)) ∧ (∀ o, EarlyTraps (.mul o)) ∧ (∀ o, EarlyTraps (.mov o)) ∧ (∀ o, EarlyTraps (.addi o)) ∧
  (∀ o, EarlyTraps (.sel o)) ∧ (∀ o, EarlyTraps (.cmp o)) ∧ (∀ o, EarlyTraps (.pand o)) ∧ (∀ o, EarlyTraps (.brc o)) ∧
  (∀ o, EarlyTraps (.loopset o)) ∧ (∀ o, EarlyTraps (.xtovVa o)) ∧ (∀ o, EarlyTraps (.atox o)) ∧ (∀ o, EarlyTraps (.csrw o)) ∧
  (∀ o, EarlyTraps (.pushc o)) ∧ (∀ o, EarlyTraps (.vpushSdq o)) ∧ (∀ o, EarlyTraps (.vadd o)) ∧ (∀ o, EarlyTraps (.vsel o)) ∧
  (∀ o, EarlyTraps (.vcmp o)) ∧ (∀ o, EarlyTraps (.vperm o))

/-- R34, R47, R53, R63, R143: the checks of a whole bundle: a slot word that encodes nothing, an operation of H in a heat that is not at H, a branch
in a delay slot, an RFT that executes outside a handler (one whose guard is false does not), too wide a pair of vector slots. Such a bundle traps
with ILLEGAL_BUNDLE and none of its slots takes effect. Points that the rules leave open are the model's choice: log entries 12 and 77. -/
def Obligations.BundleChecks : Prop :=
  (∀ (x : Runner) (sl : Slice) (ds : List (Except Illegal Instr)) (k : Nat) (i : Instr), k < 4 → ds[k]? = some (.ok i) → needsH i = true →
    x.atH = false → ∀ stray, ∃ e, bundleErr x sl ds stray = some e ∧ e.1 ≤ k) ∧
  (∀ (x : Runner) (sl : Slice) (ds : List (Except Illegal Instr)) (k : Nat) (e : Illegal), k < 4 → ds[k]? = some (.error e) →
    ∀ stray, ∃ z, bundleErr x sl ds stray = some z ∧ z.1 ≤ k) ∧
  (∀ (x : Runner) (sl : Slice) (ds : List (Except Illegal Instr)) (k : Nat) (o : SysO), k < 4 → ds[k]? = some (.ok (.rft o)) →
    ∃ z, bundleErr x sl ds true = some z ∧ z.1 ≤ k) ∧
  (∀ (x : Runner) (sl : Slice) (i j k m : Instr) (stray : Bool), needsH i = false → needsH j = false → needsH k = false → needsH m = false →
    isRft i = false ∨ stray = false → isRft j = false → isRft k = false → isRft m = false → (x.st sl).inDelay = false →
    vecWidth j + vecWidth k ≤ 1536 → bundleErr x sl [.ok i, .ok j, .ok k, .ok m] stray = none) ∧
  (∀ (x : Runner) (sl : Slice) (i j k m : Instr) (stray : Bool), needsH i = true → x.atH = false → isMark i = false →
    (x.st sl).inDelay = false → bundleErr x sl [.ok i, .ok j, .ok k, .ok m] stray = some (0, 1)) ∧
  (∀ (o : SysO) (sl : Slice) (ds : List (Except Illegal Instr)) (u : Use) (s : State), instrUse s.me (.rft o) = some u →
    s.me.guardsSettled sl [u] = true → s.strayRft sl (.ok (.rft o) :: ds) = some (!(s.me.st sl).hnd && s.guardOf u)) ∧
  (∀ (sl : Slice) (ds : List (Except Illegal Instr)) (n slot reason : Nat) (s : State), (s.me.st sl).reentry = none →
    bundleErr s.me sl ds ((s.strayRft sl ds).getD false) = some (slot, reason) → (s.strayRft sl ds).isSome = true ∨ slot = 0 →
    (∀ i, ds[0]? = some (.ok i) → legMark i = false) →
    tryBundle exec sl ds (n + 1) s = s.trapBundle sl { PTrap.mk' 0x01 reason slot with resume := 0 })

/-- R53, R54, R56, R143, R359: an issued bundle leaves the next address; its branch waits three delay slots and then goes to its target, or on; after
the third delay slot of RFT the trapped bundle is entered again at RESUME in its own mode, with its pending branch, and the captured results are
under way again. That RFT reads XPC and RESUME as they stand at the third delay slot is the model's choice (log entry 80), as are the points of
log entry 12. -/
def Obligations.BundlesInOrder : Prop :=
  (∀ (sl : Slice) (s : State), HasRunner s s.cur.run → (s.me.st sl).done = false → s.cur.br = none → (s.me.st sl).br = none →
    ((s.finishBundle sl).rn s.cur.run).st sl = { s.me.st sl with pc := s.cur.pc + 16, reentry := none, marked := false }) ∧
  (∀ (sl : Slice) (s : State) (b : Br), HasRunner s s.cur.run → (s.me.st sl).done = false → s.cur.br = some b →
    ((s.finishBundle sl).rn s.cur.run).st sl = { s.me.st sl with pc := s.cur.pc + 16, reentry := none, marked := false, br := some b }) ∧
  (∀ (sl : Slice) (s : State) (b : Br) (k : Nat), HasRunner s s.cur.run → (s.me.st sl).done = false → s.cur.br = none →
    (s.me.st sl).br = some b → s.cur.reent = false → b.left = k + 2 → ((s.finishBundle sl).rn s.cur.run).st sl =
      { s.me.st sl with pc := s.cur.pc + 16, reentry := none, marked := false, br := some { b with left := k + 1 } }) ∧
  (∀ (sl : Slice) (s : State) (b : Br), HasRunner s s.cur.run → (s.me.st sl).done = false → s.cur.br = none →
    (s.me.st sl).br = some b → s.cur.reent = false → b.left = 1 → b.rft = false → ((s.finishBundle sl).rn s.cur.run).st sl =
      { s.me.st sl with pc := b.target.getD (s.cur.pc + 16), reentry := none, marked := false, br := none }) ∧
  (∀ (sl : Slice) (s : State) (b : Br) (h : Tsh), HasRunner s s.cur.run → (s.me.st sl).done = false → s.cur.br = none →
    (s.me.st sl).br = some b → s.cur.reent = false → b.left = 1 → b.rft = true → (s.me.st sl).tsh = some h →
    (let t := ((s.finishBundle sl).rn s.cur.run).st sl
     t.pc = (s.me.st sl).xpc ∧ t.hnd = false ∧ t.exposed = h.exp ∧ t.br = h.br ∧ t.reentry = some ((s.me.st sl).resume, h.guards) ∧
      t.ifq = [] ∧ s.cycle < t.wait ∧ t.preds = (s.me.st sl).preds ∧ t.lc = (s.me.st sl).lc ∧ t.xpc = (s.me.st sl).xpc) ∧
    (((s.finishBundle sl).rn s.cur.run).sx sl).pend = (s.me.sx sl).pend ++ reinject (s.me.st sl).ifq (s.cycle + 1) ∧
    (s.finishBundle sl).mem = s.mem ∧ ((s.finishBundle sl).rn s.cur.run).leg.g = s.me.leg.g ∧
    ((s.finishBundle sl).rn s.cur.run).leg.a = s.me.leg.a) ∧
  (∀ (l : List IfqE) (now : Nat) (p : Pend), p ∈ reinject l now → ∃ e ∈ l, p.val = e.r.val ∧ p.dst = e.r.dst ∧ p.land = now + e.d ∧
    p.landed = false)

/-- R124, R353, R356, R357, R358, R362: a trap that is taken saves the address, the first slot to resume, the cause, the trap shadow and the results
in flight; HND is set and the handler's first bundle issues four cycles later; everything else is as before. One that comes while the other slice
handles a trap is held; of two in one cycle the C slice's is taken and the A slice's is held. One without a handler ends the heat with FAULT.
Points that the rules leave open are the model's choice: log entries 14 and 68. -/
def Obligations.TrapEntry : Prop :=
  (∀ (r : Nat) (sl : Slice) (p : PTrap) (pc v : Word) (gs : BitVec 3) (br : Option Br) (m : Bool) (s : State), HasRunner s r →
    ((s.rn r).st sl).hnd = false → ((s.rn r).st sl).done = false → ((s.rn r).sx sl).vector = some v →
    ((s.rn r).st (otherSlice sl)).hnd = false →
    (let t := s.takeTrap r sl p pc gs br m
     let old := (s.rn r).st sl
     let new := (t.rn r).st sl
     new.xpc = pc ∧ new.pc = v ∧ new.hnd = true ∧ new.resume = p.resume % 4 ∧ new.exposed = old.exposed ∧ new.wait = s.cycle + 4 ∧
      new.br = none ∧ new.tsh = some { exp := old.exposed, guards := gs, br := br, marked := m } ∧
      new.ifq = old.ifq ++ captureIfq ((s.rn r).sx sl).pend s.cycle ∧ new.preds = old.preds ∧ new.lc = old.lc ∧ new.rot = old.rot ∧
      (t.rn r).leg.xcause = xcauseWord p sl ∧ (t.rn r).leg.xaddr = p.xaddr ∧ (t.rn r).st (otherSlice sl) = (s.rn r).st (otherSlice sl) ∧
      (t.rn r).leg.g = (s.rn r).leg.g ∧ (t.rn r).leg.a = (s.rn r).leg.a ∧ (t.rn r).leg.va = (s.rn r).leg.va ∧ (t.rn r).leg.vb = (s.rn r).leg.vb ∧
      t.mem = s.mem ∧ t.tabs = s.tabs ∧ t.fw = s.fw ∧ t.bnd = s.bnd ∧ ∀ k, k ≠ r → t.rn k = s.rn k)) ∧
  (∀ (p : PTrap) (sl : Slice), p.slot < 4 → (xcauseWord p sl).toNat = p.cause.toNat + p.slot * 2 ^ 8 + (if sl = .a then 2 ^ 16 else 0) +
    p.detail.toNat * 2 ^ 32) ∧
  (∀ (r : Nat) (sl : Slice) (p : PTrap) (pc : Word) (gs : BitVec 3) (br : Option Br) (m : Bool) (s : State), HasRunner s r →
    ((s.rn r).st sl).hnd = false → ((s.rn r).st (otherSlice sl)).hnd = true →
    (sl = .c → ∀ z, (s.rn r).ax.taken = some z → z.1 ≠ s.cycle) →
    (let t := s.takeTrap r sl p pc gs br m
     ((t.rn r).sx sl).st = .trapHeld ∧ ((t.rn r).sx sl).trap = some p ∧ ((t.rn r).st sl).pc = pc ∧ (t.rn r).leg.xcause = (s.rn r).leg.xcause ∧
      (t.rn r).st (otherSlice sl) = (s.rn r).st (otherSlice sl) ∧ t.mem = s.mem)) ∧
  (∀ (r : Nat) (p q : PTrap) (pc v : Word) (gs : BitVec 3) (br : Option Br) (m : Bool) (h : Strm) (s : State), HasRunner s r →
    (s.rn r).ax.taken = some (s.cycle, q, h) → (s.rn r).leg.s.hnd = true → h.hnd = false → (s.rn r).leg.c.hnd = false →
    (s.rn r).leg.c.done = false → (s.rn r).cx.vector = some v →
    (let t := s.takeTrap r .c p pc gs br m
     (t.rn r).leg.c.hnd = true ∧ (t.rn r).leg.c.pc = v ∧ (t.rn r).leg.xcause = xcauseWord p .c ∧ (t.rn r).leg.xaddr = p.xaddr ∧
      (t.rn r).ax.st = .trapHeld ∧ (t.rn r).ax.trap = some q ∧ (t.rn r).leg.s = h)) ∧
  (∀ (r : Nat) (sl : Slice) (p : PTrap) (pc : Word) (gs : BitVec 3) (br : Option Br) (m : Bool) (s : State) (h : Heat), HasRunner s r →
    ((s.rn r).st sl).hnd = true ∨
      ((s.rn r).st (otherSlice sl)).hnd = false ∧ (((s.rn r).st sl).done = true ∨ ((s.rn r).sx sl).vector = none) ∧
        (sl = .a → s.cAhead r = false) → h ∈ s.fw.heats →
    h.id = (s.rn r).heatid → h.ended = none →
    (let t := s.takeTrap r sl p pc gs br m
     { h with ended := some (statusWord 0x0C p.cause.toNat (sl == .a) r pc 0, s.cycle), xaddr := p.xaddr, detail := 0 } ∈ t.fw.heats ∧
      t.mem = s.mem ∧ t.tabs = s.tabs)) ∧
  (∀ (l : List Pend) (now : Nat) (e : IfqE), e ∈ captureIfq l now → ∃ p ∈ l, p.landed = false ∧ p.cross = false ∧ now < p.land ∧
    e.r.val = p.val ∧ e.r.dst = p.dst ∧ 1 ≤ e.d ∧ e.d = max 1 (p.issue + p.bound - now))

/-! ### Rules in their own words -/

/-- R125: PFILE and APFILE are the logical predicates under the base in force; a write to bit 0 has no effect. -/
def Obligations.PredicateFiles : Prop :=
  (∀ (x : Runner) (j : Nat), j < 16 → ((x.csr 0x006).getLsbD j = (j == 0 || x.leg.c.preds.getLsbD (x.leg.c.pphys (BitVec.ofNat 4 j)).toNat)) ∧
    ((x.csr 0x007).getLsbD j = (j == 0 || x.leg.s.preds.getLsbD (x.leg.s.pphys (BitVec.ofNat 4 j)).toNat))) ∧
  (∀ (x : Runner) (v : Word) (j : Nat), 1 ≤ j → j < 16 →
    (x.setCsr 0x006 v).leg.c.preds.getLsbD (x.leg.c.pphys (BitVec.ofNat 4 j)).toNat = v.getLsbD j ∧
    (x.setCsr 0x007 v).leg.s.preds.getLsbD (x.leg.s.pphys (BitVec.ofNat 4 j)).toNat = v.getLsbD j) ∧
  (∀ (x : Runner) (v w : Word), (∀ j, 1 ≤ j → v.getLsbD j = w.getLsbD j) → x.setCsr 0x006 v = x.setCsr 0x006 w ∧
    x.setCsr 0x007 v = x.setCsr 0x007 w) ∧
  (∀ (x : Runner) (v : Word), (x.setCsr 0x006 v).leg.c.preds.getLsbD 0 = x.leg.c.preds.getLsbD 0 ∧
    (x.setCsr 0x007 v).leg.s.preds.getLsbD 0 = x.leg.s.preds.getLsbD 0)

/-- R372: a rewind for the cause of the last one raises RWCNT, another cause starts it at 1; when it reaches 3 the runner does not re-enter, and the
heat ends with HARD_FAULT and DETAIL the cause; a leg boundary clears it; the hold of R236 does not count. R370: an uncorrectable error in the
Fold ends the heat with HARD_FAULT and DETAIL 2 whatever the count. -/
def Obligations.RewindsAreCounted : Prop :=
  (∀ (r c : Nat) (np : List Nat) (s : State), HasRunner s r →
    ((s.rewind r c np).rn r).rwcause = c ∧
    ((s.rewind r c np).rn r).rwcnt = (if (s.rn r).rwcause = c then (s.rn r).rwcnt + 1 else 1)) ∧
  (∀ (r c : Nat) (np : List Nat) (s : State) (h : Heat), HasRunner s r → 3 ≤ ((s.rewind r c np).rn r).rwcnt → h ∈ s.fw.heats →
    h.id = (s.rn r).heatid → h.ended = none → (s.rn r).fold.ue = false →
    ((s.rewind r c np).rn r).rewind = none ∧ ((s.rewind r c np).rn r).stopReq = true ∧ (∃ g ∈ (s.rewind r c np).fw.heats, g.id = h.id ∧
      g.detail = c ∧ ∃ st, g.ended = some (st, s.cycle) ∧ bits st.toNat 0 8 = 0x0C ∧ bits st.toNat 8 8 = 0x24)) ∧
  (∀ (r c : Nat) (np : List Nat) (s : State) (h : Heat), HasRunner s r → h ∈ s.fw.heats → h.id = (s.rn r).heatid → h.ended = none →
    (s.rn r).fold.ue = true → ((s.rewind r c np).rn r).rewind = none ∧ ((s.rewind r c np).rn r).stopReq = true ∧
      (∃ g ∈ (s.rewind r c np).fw.heats, g.id = h.id ∧
      g.detail = 2 ∧ ∃ st, g.ended = some (st, s.cycle) ∧ bits st.toNat 0 8 = 0x0C ∧ bits st.toNat 8 8 = 0x24)) ∧
  (∀ (r : Nat) (s : State) (ex : Bool) (who : Option Slice), HasRunner s r → ((s.boundary r ex who).rn r).rwcnt = 0) ∧
  (∀ (r : Nat) (s t : State), exec (.notPresentHoldRelease r) s = .next t → (t.rn r).rwcnt = (s.rn r).rwcnt) ∧
  (∀ (r : Nat) (s t : State), exec (.rewindReentry r) s = .next t → (t.rn r).rwcnt = (s.rn r).rwcnt)

/-! ### Reset, steps, words, invariants -/

/-- R10, R22, R116, R121, R181, R184, R190, R247, R249, R251: what cold reset leaves. The registers whose Reset column reads 'launch' (predicates,
loop counters, rotations, XCAUSE, XADDR, XCNT, VA and VB, the Press, CELLCFG) hold at cold reset the value that a launch gives them: that is the
model's choice (log entry 1), as are the points of log entry 60. Of the model: memory at reset is in canonical form, and its runners are those of
R22. -/
def Obligations.ResetState : Prop :=
  (∀ r, HasRunner State.reset r ↔ r < 256 ∨ r ∈ [0x100, 0x101, 0x140, 0x141, 0x180, 0x181, 0x1C0, 0x1C1]) ∧
  (∀ r, HasRunner State.reset r → State.reset.rn r = Runner.reset r) ∧
  (∀ r, let x := Runner.reset r
    (∀ i, vget x.leg.va.d i = 0 ∧ vget x.leg.vb.d i = 0 ∧ mget x.leg.va.stain i = false ∧ mget x.leg.vb.stain i = false) ∧
    x.leg.cellcfg = 0xFF ∧ x.leg.xcause = 0 ∧ x.leg.xaddr = 0 ∧ x.leg.xcnt = 0 ∧
    x.leg.c.preds = 0 ∧ x.leg.s.preds = 0 ∧ x.leg.c.lc = 0 ∧ x.leg.s.lc = 0 ∧ x.leg.c.rot = 0 ∧ x.leg.s.rot = 0 ∧ x.leg.c.prot = 0 ∧
    (∀ b < 8, (x.press.bank b).tag = .zero ∧ (x.press.bank b).stain = 0) ∧ (∀ k < 16, (x.press.slot k).st = .free) ∧
    x.press.fq = [] ∧ x.press.cq = [] ∧ x.spr.q = [] ∧ x.relay.q = [] ∧ x.hamper = [] ∧ x.strong = [] ∧ x.basin = [] ∧
    x.cx.st = .off ∧ x.ax.st = .off) ∧
  State.reset.tabs.quotaOf 0 = { rmask := BitVec.ofNat 256 (2 ^ 256 - 1), maxrun := 256, qslot := 512, maxlease := 256, keymax := 4096, mode := .shared } ∧
  (∀ o, o ≠ 0 → (State.reset.tabs.quotaOf o).mode = .none ∧ (State.reset.tabs.quotaOf o).maxrun = 0) ∧
  (∀ o, (State.reset.tabs.weightOf o).w = 1 ∧ (State.reset.tabs.weightOf o).pmax = 7) ∧
  (∀ n, (aget State.reset.tabs.pleats n).isSome = true ↔ n = 15) ∧
  (∀ z, aget State.reset.tabs.pleats 15 = some z → z.owner = 0x7FF ∧ z.smask = 0xFFF ∧ z.cmask = 0xFFFFFFFF ∧ z.gran = 4) ∧
  (∀ a, State.reset.mem.phys.get a = 0) ∧ State.reset.fw.queues = [] ∧ State.reset.fw.heats = [] ∧ State.reset.fw.squads = [] ∧
  State.reset.mem.phys.wf = true ∧ State.reset.runners.map (fun x => x.num) = runnerNums

/-- R37, R43, R51, R57, R354: a step that issues runs the instructions that its bundle's words decode to, in slot order, and then moves the slice on;
a step that is an event or a command runs that event's or command's own meaning; with an empty agenda a new cycle begins. A bundle whose pops meet
an uncorrectable word of the queue array rewinds the leg instead (R284); with no failed and no armed word there the array does nothing. Points
that the rules leave open are the model's choice: log entries 2, 7 and 100. -/
def Obligations.StepRunsTheDecodedInstruction : Prop :=
  (∀ (s s1 : State) (r : Nat) (sl : Slice) (t : List Todo) (b : BundleWord) (l : List Instr), s.agenda = .issue r sl :: t → r ∈ runnerNums →
    (let s0 := State.openBundle { s with agenda := t } r sl
     s0.mayIssue (s0.rn r) sl = true ∧ ((s0.rn r).sx sl).trap = none ∧ s0.fetch r sl s0.cur.pc = .ok b s1) →
    decodeBundle sl b = l.map .ok → BundleGoes s1 sl l →
    (let us := usesFrom s1.me (l.map .ok) 0
     step s = match (s1.withGuards us).slotReads us with
      | (z, true) => z.rewindBundle 2 []
      | (z, false) =>
        match runSlots exec (l.map .ok) z with
        | .next u =>
          if u.cur.st == .stopped || u.cur.st == .illegal then .next u else .next (((u.orderResults sl).finishBundle sl).slotWrites us)
        | o => o)) ∧
  (∀ (s : State) (us : List Use), s.queuesSound s.cur.run = true → s.slotReads us = (s, false) ∧ s.slotWrites us = s) ∧
  (∀ (i : Instr) (l : List (Except Illegal Instr)) (s t : State), exec i s = .next t →
    runSlots exec (.ok i :: l) s = runSlots exec l (if t.cur.st == .ok then t.addLanes i else t)) ∧
  (∀ s, runSlots exec [] s = .next s) ∧
  (∀ (s : State) (r : Nat) (sl : Slice) (t : List Todo), s.agenda = .issue r sl :: t → r ∈ runnerNums →
    step s = issueBundle exec r sl { s with agenda := t }) ∧
  (∀ (i : Instr) (s u : State) (sl : Slice) (k : State → Out), legMark i = true → exec i s = .next u → u.cur.st = .ok →
    sl = .c ∨ u.me.ax.trap = none → afterMark exec sl (some i) s k = k { u with cur := { u.cur with marked := true } }) ∧
  (∀ (s : State) (i : Instr) (t : List Todo), s.agenda = .ev i :: t → step s = exec i { s with agenda := t }) ∧
  (∀ (s : State) (a : Act) (t : List Todo), s.agenda = .act a :: t → step s = runAct a { s with agenda := t }) ∧
  (∀ (s : State), s.agenda = [] → step s = .next s.newCycle) ∧
  (∀ (s : State) (r n k : Nat) (sl : Slice) (q : QName) (p : PressQ) (w : Word) (it : AckItem),
    runAct (.tableWriteComplete r) s = exec (.tableWriteComplete r) s ∧ runAct (.resultLands r sl n) s = exec (.resultLands r sl n) s ∧
    runAct (.ifqReinjection r sl n) s = exec (.ifqReinjection r sl n) s ∧ runAct (.waitElapsed r sl) s = exec (.waitElapsed r sl) s ∧
    runAct (.queueEntryVisible r q) s = exec (.queueEntryVisible r q) s ∧ runAct (.qdrainTakesEffect r) s = exec (.qdrainTakesEffect r) s ∧
    runAct (.storeMatch r) s = exec (.storeMatch r) s ∧ runAct (.rewindReentry r) s = exec (.rewindReentry r) s ∧
    runAct (.notPresentHoldRelease r) s = exec (.notPresentHoldRelease r) s ∧ runAct (.extentAcknowledge r n) s = exec (.extentAcknowledge r n) s ∧
    runAct (.exchangePass n) s = exec (.exchangePass n) s ∧ runAct (.barsComplete n) s = exec (.barsComplete n) s ∧
    runAct (.strongAccessPerform r n) s = exec (.strongAccessPerform r n) s ∧ runAct (.barrierArrival r) s = exec (.barrierArrival r) s ∧
    runAct (.dataSlot n) s = exec (.dataSlot n) s ∧ runAct (.dataArrival n) s = exec (.dataArrival n) s ∧
    runAct (.lapBoundary n) s = exec (.lapBoundary n) s ∧ runAct (.mendingSlot n) s = exec (.mendingSlot n) s ∧
    runAct (.rowPrecharge n r k) s = exec (.rowPrecharge n r k) s ∧ runAct (.sweepComplete n) s = exec (.sweepComplete n) s ∧
    runAct (.dataRateChange n) s = exec (.dataRateChange n) s ∧ runAct (.retrainingDone n) s = exec (.retrainingDone n) s ∧
    runAct (.pressCommandStart r p) s = exec (.pressCommandStart r p) s ∧ runAct (.kBlockCommit r) s = exec (.kBlockCommit r) s ∧
    runAct (.pressCommandComplete r p) s = exec (.pressCommandComplete r p) s ∧
    runAct (.sprinterCommandStart r) s = exec (.sprinterCommandStart r) s ∧ runAct (.sprinterChunkCommit r) s = exec (.sprinterChunkCommit r) s ∧
    runAct (.sprinterCommandComplete r) s = exec (.sprinterCommandComplete r) s ∧ runAct (.collectiveStart n w) s = exec (.collectiveStart n w) s ∧
    runAct (.collectiveStep n w) s = exec (.collectiveStep n w) s ∧ runAct (.patchCopyComplete r sl) s = exec (.patchCopyComplete r sl) s ∧
    runAct (.runnerFinish r) s = exec (.runnerFinish r) s ∧ runAct (.eventInterruptTimer n) s = exec (.eventInterruptTimer n) s ∧
    runAct (.preemptAcknowledge r it) s = exec (.preemptAcknowledge r it) s ∧ runAct (.contextSaveComplete r) s = exec (.contextSaveComplete r) s ∧
    runAct (.runnerRelease r) s = exec (.runnerRelease r) s ∧ runAct (.pollingSlot n k) s = exec (.pollingSlot n k) s ∧
    runAct (.backgroundStep n) s = exec (.backgroundStep n) s ∧ runAct (.waitFaultTimeout n) s = exec (.waitFaultTimeout n) s ∧
    runAct .schedulingRound s = exec .schedulingRound s ∧ runAct .fairnessWindow s = exec .fairnessWindow s ∧
    runAct (.leaseDeadline n) s = exec (.leaseDeadline n) s ∧ runAct (.commandComplete n) s = exec (.commandComplete n) s ∧
    runAct .powerOverrun s = exec .powerOverrun s ∧ runAct (.runnerPowerGate r) s = exec (.runnerPowerGate r) s ∧
    runAct (.auditReplay n k) s = exec (.auditReplay n k) s ∧ runAct (.auditReplayComplete n k) s = exec (.auditReplayComplete n k) s) ∧
  (∀ (s : State) (p : Pkt),
    (p.opc = 0x00 → runAct (.command p) s = exec (.nopPacket p) s) ∧ (p.opc = 0x01 → runAct (.command p) s = exec (.launch p) s) ∧
    (p.opc = 0x02 → runAct (.command p) s = exec (.waitPacket p) s) ∧ (p.opc = 0x03 → runAct (.command p) s = exec (.signal p) s) ∧
    (p.opc = 0x04 → runAct (.command p) s = exec (.barrierPkt p) s) ∧ (p.opc = 0x05 → runAct (.command p) s = exec (.map p) s) ∧
    (p.opc = 0x06 → runAct (.command p) s = exec (.unmap p) s) ∧ (p.opc = 0x07 → runAct (.command p) s = exec (.migrate p) s) ∧
    (p.opc = 0x08 → runAct (.command p) s = exec (.lease p) s) ∧ (p.opc = 0x09 → runAct (.command p) s = exec (.revoke p) s) ∧
    (p.opc = 0x0A → runAct (.command p) s = exec (.resetq p) s) ∧ (p.opc = 0x0B → runAct (.command p) s = exec (.ctxsave p) s) ∧
    (p.opc = 0x0C → runAct (.command p) s = exec (.ctxload p) s) ∧ (p.opc = 0x0D → runAct (.command p) s = exec (.wsetload p) s) ∧
    (p.opc = 0x0E → runAct (.command p) s = exec (.wsetswitch p) s) ∧ (p.opc = 0x0F → runAct (.command p) s = exec (.auditcfg p) s) ∧
    (p.opc = 0x10 → runAct (.command p) s = exec (.meterread p) s) ∧ (p.opc = 0x11 → runAct (.command p) s = exec (.keywrap p) s) ∧
    (p.opc = 0x12 → runAct (.command p) s = exec (.qopen p) s) ∧ (p.opc = 0x13 → runAct (.command p) s = exec (.qclose p) s) ∧
    (p.opc = 0x14 → runAct (.command p) s = exec (.lend p) s) ∧ (p.opc = 0x20 → runAct (.command p) s = exec (.part p) s) ∧
    (p.opc = 0x21 → runAct (.command p) s = exec (.vfstop p) s) ∧ (p.opc = 0x22 → runAct (.command p) s = exec (.vfgo p) s)) ∧
  (∀ (nbits w : Nat) (i : Instr) (sl : Slice) (pos : BitVec 2), nbits = 32 → w < 2 ^ 32 → tableClass (BitVec.ofNat 32 w) = some (sl, pos) →
    decodeSlot sl pos none (BitVec.ofNat 32 w) = .ok i → decodeTableWord nbits w = some i ∧
    ((State.reset.withFetchWord nbits w).agenda = [.issue 0 sl]))

/-- R41 to R52, R72 to R81: words of each family, written out from the encoding tables, decode to the instruction they stand for. -/
def Obligations.DecodedWords : Prop :=
  let g0 : Guard := { neg := false, p := 0 }
  decodeSlot .c 0 none 0x08061100 = .ok (.add { sl := .c, g := g0, d := 3, s1 := 1, s2 := 2 }) ∧
  decodeSlot .c 0 none 0x70041110 = .ok (.cmp { sl := .c, g := g0, d := 2, s1 := 1, s2 := 2, cc := .ltS, w32 := false }) ∧
  decodeSlot .c 0 none 0x40084403 = .ok (.shri { sl := .c, g := g0, d := 4, s1 := 4, n := 3 }) ∧
  decodeSlot .c 0 none 0x880FFFFD = .ok (.br { sl := .c, g := g0, off := BitVec.ofInt 20 (-3) }) ∧
  decodeSlot .c 0 none 0xA0029FFC = .ok (.brc { sl := .c, g := g0, cond := .nez, s1 := 9, off := BitVec.ofInt 12 (-4) }) ∧
  decodeSlot .c 0 none 0xD00E0004 = .ok (.csrr { g := g0, d := 7, n := 4 }) ∧
  decodeSlot .c 0 none 0xE0000002 = .ok (.rft { sl := .c, g := g0 }) ∧
  decodeSlot .a 0 none 0xE8126002 = .ok (.qstat { g := g0, d := 9, q := .caq }) ∧
  decodeSlot .a 0 none 0xF00C4020 = .ok (.tstate { g := g0, d := 6, s1 := 4, sel := 0 }) ∧
  decodeSlot .c 1 none 0x880A53C0 = .ok (.vstain { v := .va, g := g0, d := 5, s1 := 5 }) ∧
  decodeSlot .c 1 none 0xE8047F52 = .ok (.vli { v := .va, g := g0, d := 2, c := 0xFE, w := .w1024, ty := .f32 }) ∧
  decodeSlot .c 3 none 0x280400A8 = .ok (.mma { g := g0, d := 2, s1 := 0, s2 := 1, fmt := .bf16, hint := 0 }) ∧
  decodeSlot .a 1 none 0x080021B0 = .ok (.lda { ag := .ag0, g := g0, s1 := 2, s2 := 3, size := .z64, ldq1 := false, hint := 0 }) ∧
  decodeSlot .a 3 none 0x70004280 = .ok (.tdef { g := g0, s1 := 4, s2 := 5 }) ∧
  decodeSlot .a 3 none 0x88006382 = .ok (.pwlap { g := g0, s1 := 6, s2 := 7 }) ∧
  (∀ e w, decodeSlot .c 0 e (0xFE000000 ||| (w &&& 0x00FFFFFF)) = .error .mark)

/-- R41 to R52, R72 to R81: for every well-formed instruction and every operand, the decoder reads back from the word that the encoder writes the same
instruction. -/
def Obligations.EncodeDecode : Prop :=
  ∀ (i : Instr) (e : Enc), i.wellFormed = true → encode i = some e → decodeSlot e.sl e.pos e.ext e.word = .ok i

/-- R42, R64, R73: what the decoder accepts is well formed, and no bit of the word is dropped: its encoding is the word it was read from. -/
def Obligations.DecodedIsWellFormed : Prop :=
  ∀ (sl : Slice) (pos : BitVec 2) (ext : Option (BitVec 8)) (w : SlotWord) (i : Instr), decodeSlot sl pos ext w = .ok i →
    i.wellFormed = true ∧ ∃ e, encode i = some e ∧ e.sl = sl ∧ e.pos = pos ∧ e.word = w

/-- Of the model: every step keeps the canonical form of main memory, and of every memory: main memory, the Basins, the Tubs, the Vats and the Basins
of saved images, so that equal memories are equal data; and so does every event and instruction. -/
def Obligations.MemoryKeepsItsForm : Prop :=
  (∀ s t : State, s.mem.phys.wf = true → step s = .next t → t.mem.phys.wf = true) ∧
  (∀ s t : State, s.MemoriesWf → step s = .next t → t.MemoriesWf) ∧
  (∀ (i : Instr) (s t : State), s.MemoriesWf → exec i s = .next t → t.MemoriesWf) ∧ State.reset.MemoriesWf

/-- R22, R23: every step keeps the runners of the module: each valid runner number names one runner, in the same order. -/
def Obligations.RunnersKeepTheirNumbers : Prop :=
  ∀ s t : State, s.runners.map (fun x => x.num) = runnerNums → step s = .next t → t.runners.map (fun x => x.num) = runnerNums
end

