-- ==== Sys2Proof/Laws/Decode.lean ====
section
/-! SUPPORT. What the decoder's fields read from a word that the encoder laid out, and the codes of the named fields. -/

namespace Sys2Proof

/-! ### Codes -/

theorem Fmt.ofCode_code (f : Fmt) : Fmt.ofCode f.code = some f := by cases f <;> rfl
theorem Width.ofCode_code (w : Width) : Width.ofCode w.code = some w := by cases w <;> rfl
theorem Rm.ofCode_code (r : Rm) : Rm.ofCode r.code = some r := by cases r <;> rfl
theorem Cc.ofCode_code (c : Cc) : Cc.ofCode c.code = some c := by cases c <;> rfl
theorem Bc.ofCode_code (c : Bc) : Bc.ofCode c.code = some c := by cases c <;> rfl
theorem VCc.ofCode_code (c : VCc) : VCc.ofCode c.code = some c := by cases c <;> rfl
theorem RedOp.ofCode_code (c : RedOp) : RedOp.ofCode c.code = some c := by cases c <;> rfl
theorem NCode.ofCode_code (c : NCode) : NCode.ofCode c.code = some c := by cases c <;> rfl
theorem Size.ofCode_code (c : Size) : Size.ofCode c.code = some c := by cases c <;> rfl
theorem Scope.ofCode_code (c : Scope) : Scope.ofCode c.code = some c := by cases c <;> rfl
theorem Ord.ofCode_code (c : Ord) : Ord.ofCode c.code = some c := by cases c <;> rfl
theorem AmoOp.ofCode_code (c : AmoOp) : AmoOp.ofCode c.code = some c := by cases c <;> rfl
theorem Red.ofCode_code (c : Red) : Red.ofCode c.code = some c := by cases c <;> rfl
theorem ChkFile.ofCode_code (c : ChkFile) : ChkFile.ofCode c.code = some c := by cases c <;> rfl
theorem QName.ofCode_code (q : QName) : QName.ofCode q.code = some q := by cases q <;> rfl

/-- A type that a TY field can name has a code of four bits. -/
theorem Fmt.code_isTy (f : Fmt) (h : f.isTy = true) : f.code < 16 := by cases f <;> first | decide | simp [Fmt.isTy, Fmt.isI, Fmt.isF, Fmt.isF8, Fmt.isIS, Fmt.isIZ] at h
/-- Every format has a code of five bits. -/
theorem Fmt.code_lt (f : Fmt) : f.code < 32 := by cases f <;> decide

/-! ### Fields of a word laid out by `slotWord` -/

theorem fOp_slotWord (op : Nat) (g : Guard) (d s1 s2 : RegIx) (f7 : BitVec 7) (h : op < 32) : fOp (slotWord op g d s1 s2 f7) = op := by
  have : (slotWord op g d s1 s2 f7).extractLsb' 27 5 = BitVec.ofNat 5 op := by
    apply BitVec.eq_of_getLsbD_eq
    intro i hi
    simp only [slotWord, BitVec.getLsbD_extractLsb', BitVec.getLsbD_append]
    interval_cases i <;> simp
  simp [fOp, this, Nat.mod_eq_of_lt h]

theorem fGuard_slotWord (op : Nat) (g : Guard) (d s1 s2 : RegIx) (f7 : BitVec 7) : fGuard (slotWord op g d s1 s2 f7) = g := by
  have h1 : (slotWord op g d s1 s2 f7).getLsbD 26 = g.neg := by
    simp only [slotWord, BitVec.getLsbD_append]
    simp
  have h2 : (slotWord op g d s1 s2 f7).extractLsb' 22 4 = g.p := by
    apply BitVec.eq_of_getLsbD_eq
    intro i hi
    simp only [slotWord, BitVec.getLsbD_extractLsb', BitVec.getLsbD_append]
    interval_cases i <;> simp
  simp only [fGuard, h1, h2]

theorem fD_slotWord (op : Nat) (g : Guard) (d s1 s2 : RegIx) (f7 : BitVec 7) : fD (slotWord op g d s1 s2 f7) = d := by
  apply BitVec.eq_of_getLsbD_eq
  intro i hi
  simp only [fD, slotWord, BitVec.getLsbD_extractLsb', BitVec.getLsbD_append]
  interval_cases i <;> simp

theorem fS1_slotWord (op : Nat) (g : Guard) (d s1 s2 : RegIx) (f7 : BitVec 7) : fS1 (slotWord op g d s1 s2 f7) = s1 := by
  apply BitVec.eq_of_getLsbD_eq
  intro i hi
  simp only [fS1, slotWord, BitVec.getLsbD_extractLsb', BitVec.getLsbD_append]
  interval_cases i <;> simp

theorem fS2_slotWord (op : Nat) (g : Guard) (d s1 s2 : RegIx) (f7 : BitVec 7) : fS2 (slotWord op g d s1 s2 f7) = s2 := by
  apply BitVec.eq_of_getLsbD_eq
  intro i hi
  simp only [fS2, slotWord, BitVec.getLsbD_extractLsb', BitVec.getLsbD_append]
  interval_cases i <;> simp

theorem fF7_slotWord (op : Nat) (g : Guard) (d s1 s2 : RegIx) (f7 : BitVec 7) : fF7 (slotWord op g d s1 s2 f7) = f7 := by
  apply BitVec.eq_of_getLsbD_eq
  intro i hi
  simp only [fF7, slotWord, BitVec.getLsbD_extractLsb', BitVec.getLsbD_append]
  interval_cases i <;> simp

/-! ### Fields of a word laid out by `slotImm` -/

theorem fOp_slotImm (op : Nat) (g : Guard) (d s1 : RegIx) (imm : BitVec 12) (h : op < 32) : fOp (slotImm op g d s1 imm) = op := by
  have : (slotImm op g d s1 imm).extractLsb' 27 5 = BitVec.ofNat 5 op := by
    apply BitVec.eq_of_getLsbD_eq
    intro i hi
    simp only [slotImm, BitVec.getLsbD_extractLsb', BitVec.getLsbD_append]
    interval_cases i <;> simp
  simp [fOp, this, Nat.mod_eq_of_lt h]

theorem fGuard_slotImm (op : Nat) (g : Guard) (d s1 : RegIx) (imm : BitVec 12) : fGuard (slotImm op g d s1 imm) = g := by
  have h1 : (slotImm op g d s1 imm).getLsbD 26 = g.neg := by
    simp only [slotImm, BitVec.getLsbD_append]
    simp
  have h2 : (slotImm op g d s1 imm).extractLsb' 22 4 = g.p := by
    apply BitVec.eq_of_getLsbD_eq
    intro i hi
    simp only [slotImm, BitVec.getLsbD_extractLsb', BitVec.getLsbD_append]
    interval_cases i <;> simp
  simp only [fGuard, h1, h2]

theorem fD_slotImm (op : Nat) (g : Guard) (d s1 : RegIx) (imm : BitVec 12) : fD (slotImm op g d s1 imm) = d := by
  apply BitVec.eq_of_getLsbD_eq
  intro i hi
  simp only [fD, slotImm, BitVec.getLsbD_extractLsb', BitVec.getLsbD_append]
  interval_cases i <;> simp

theorem fS1_slotImm (op : Nat) (g : Guard) (d s1 : RegIx) (imm : BitVec 12) : fS1 (slotImm op g d s1 imm) = s1 := by
  apply BitVec.eq_of_getLsbD_eq
  intro i hi
  simp only [fS1, slotImm, BitVec.getLsbD_extractLsb', BitVec.getLsbD_append]
  interval_cases i <;> simp

theorem fImm_slotImm (op : Nat) (g : Guard) (d s1 : RegIx) (imm : BitVec 12) : fImm (slotImm op g d s1 imm) = imm := by
  apply BitVec.eq_of_getLsbD_eq
  intro i hi
  simp only [fImm, slotImm, BitVec.getLsbD_extractLsb', BitVec.getLsbD_append]
  interval_cases i <;> simp

end Sys2Proof
end

