-- ==== Sys2Proof/Laws/Memory.lean ====
section
/-! SUPPORT. The laws of the sparse memory: what a byte reads after a write, and that every operation keeps the canonical
form. -/

namespace Sys2Proof.Machine

/-- Every listed address is at least `a`. -/
def Memory.above (a : Nat) (m : Memory) : Prop := ∀ c ∈ m, a ≤ c.1

/-- The canonical form of a list with a head. -/
theorem Memory.wf_cons (k : Nat) (v : Byte) (t : Memory) :
    Memory.wf ((k, v) :: t) = true ↔ v ≠ Memory.default ∧ Memory.above (k + 1) t ∧ t.wf = true := by
  induction t generalizing k v with
  | nil => simp [Memory.wf, Memory.above]
  | cons c t ih =>
    obtain ⟨k', v'⟩ := c
    have h := ih k' v'
    simp only [Memory.wf, Bool.and_eq_true, bne_iff_ne, decide_eq_true_eq]
    constructor
    · rintro ⟨⟨hv, hk⟩, hw⟩
      refine ⟨hv, ?_, hw⟩
      intro d hd
      rcases List.mem_cons.mp hd with rfl | hm
      · exact hk
      · have := (h.mp hw).2.1 d hm
        omega
    · rintro ⟨hv, ha, hw⟩
      exact ⟨⟨hv, ha _ (List.mem_cons_self ..)⟩, hw⟩

/-- A byte below every listed address reads as not listed. -/
theorem Memory.get_below (m : Memory) (a : Nat) (h : Memory.above (a + 1) m) : m.get a = Memory.default := by
  cases m with
  | nil => rfl
  | cons c t =>
    obtain ⟨k, v⟩ := c
    have : a + 1 ≤ k := h (k, v) (List.mem_cons_self ..)
    rw [Memory.get, if_neg (by omega), if_pos (by omega)]

/-- A write above a bound stays above it. -/
theorem Memory.put_above (m : Memory) (a : Nat) (b : Byte) (n : Nat) (h : Memory.above n m) (ha : n ≤ a) :
    Memory.above n (m.put a b) := by
  induction m with
  | nil =>
    intro c hc
    simp only [Memory.put] at hc
    split at hc <;> simp_all
  | cons c t ih =>
    obtain ⟨k, v⟩ := c
    have hk : n ≤ k := h (k, v) (List.mem_cons_self ..)
    have ht : Memory.above n t := fun d hd => h d (List.mem_cons_of_mem _ hd)
    intro d hd
    simp only [Memory.put] at hd
    split at hd
    · split at hd
      · exact h d hd
      · rcases List.mem_cons.mp hd with rfl | hm
        · exact ha
        · exact h d hm
    · split at hd
      · split at hd
        · exact ht d hd
        · rcases List.mem_cons.mp hd with rfl | hm
          · exact hk
          · exact ht d hm
      · rcases List.mem_cons.mp hd with rfl | hm
        · exact hk
        · exact ih ht d hm

/-- A write keeps the canonical form. -/
theorem Memory.put_wf (m : Memory) (a : Nat) (b : Byte) (h : m.wf = true) : (m.put a b).wf = true := by
  induction m with
  | nil =>
    simp only [Memory.put]
    split
    · rfl
    · simpa [Memory.wf] using ‹¬b = Memory.default›
  | cons c t ih =>
    obtain ⟨k, v⟩ := c
    obtain ⟨hv, ha, hw⟩ := (Memory.wf_cons k v t).mp h
    simp only [Memory.put]
    split
    · split
      · exact h
      · refine (Memory.wf_cons _ _ _).mpr ⟨‹_›, ?_, h⟩
        intro d hd
        rcases List.mem_cons.mp hd with rfl | hm
        · simpa using ‹a < k›
        · have := ha d hm; omega
    · split
      · split
        · exact hw
        · exact (Memory.wf_cons _ _ _).mpr ⟨‹_›, ha, hw⟩
      · exact (Memory.wf_cons _ _ _).mpr ⟨hv, Memory.put_above t a b _ ha (by omega), ih hw⟩

/-- A byte written reads back. -/
theorem Memory.get_put_self (m : Memory) (a : Nat) (b : Byte) (h : m.wf = true) : (m.put a b).get a = b := by
  induction m with
  | nil =>
    simp only [Memory.put]
    split
    · simpa [Memory.get] using ‹b = Memory.default›.symm
    · simp [Memory.get]
  | cons c t ih =>
    obtain ⟨k, v⟩ := c
    obtain ⟨hv, ha, hw⟩ := (Memory.wf_cons k v t).mp h
    simp only [Memory.put]
    split
    · split
      · rw [Memory.get, if_neg (by omega), if_pos ‹_›]; exact (‹b = Memory.default›).symm
      · simp [Memory.get]
    · split
      · subst_vars
        split
        · rw [Memory.get_below t k ha]; exact (‹b = Memory.default›).symm
        · simp [Memory.get]
      · rw [Memory.get, if_neg (by omega), if_neg (by omega)]
        exact ih hw

/-- Another byte reads as before. -/
theorem Memory.get_put_other (m : Memory) (a c : Nat) (b : Byte) (h : m.wf = true) (hc : c ≠ a) :
    (m.put a b).get c = m.get c := by
  induction m with
  | nil =>
    simp only [Memory.put]
    split
    · rfl
    · simp [Memory.get, Ne.symm hc]
  | cons e t ih =>
    obtain ⟨k, v⟩ := e
    obtain ⟨hv, ha, hw⟩ := (Memory.wf_cons k v t).mp h
    simp only [Memory.put]
    split
    · split
      · rfl
      · conv_lhs => rw [Memory.get]
        rw [if_neg (Ne.symm hc)]
        split
        · rw [Memory.get, if_neg (by omega), if_pos (by omega)]
        · rfl
    · split
      · have hk : k ≠ c := by omega
        split
        · by_cases hlt : c < k
          · have : Memory.above (c + 1) t := fun d hd => by have := ha d hd; omega
            rw [Memory.get_below t c this, Memory.get, if_neg hk, if_pos hlt]
          · conv_rhs => rw [Memory.get]
            rw [if_neg hk, if_neg hlt]
        · conv_lhs => rw [Memory.get]
          conv_rhs => rw [Memory.get]
          rw [if_neg hk, if_neg hk]
      · conv_lhs => rw [Memory.get]
        conv_rhs => rw [Memory.get]
        rw [ih hw]

/-- Writing a list of bytes keeps the canonical form. -/
theorem Memory.write_wf (l : List Byte) (m : Memory) (a : Nat) (h : m.wf = true) : (m.write a l).wf = true := by
  induction l generalizing m a with
  | nil => exact h
  | cons b t ih => exact ih _ _ (Memory.put_wf m a b h)

/-- A byte outside a written range reads as before. -/
theorem Memory.get_write_outside (l : List Byte) (m : Memory) (a c : Nat) (h : m.wf = true) (hc : c < a ∨ a + l.length ≤ c) :
    (m.write a l).get c = m.get c := by
  induction l generalizing m a with
  | nil => rfl
  | cons b t ih =>
    simp only [List.length_cons] at hc
    rw [Memory.write, ih _ _ (Memory.put_wf m a b h) (by omega), Memory.get_put_other m a c b h (by omega)]

/-- Byte k of a written range reads back. -/
theorem Memory.get_write_inside (l : List Byte) (m : Memory) (a k : Nat) (h : m.wf = true) (hk : k < l.length) :
    (m.write a l).get (a + k) = l[k] := by
  induction l generalizing m a k with
  | nil => simp at hk
  | cons b t ih =>
    cases k with
    | zero =>
      rw [Memory.write, Memory.get_write_outside t _ _ _ (Memory.put_wf m a b h) (by omega)]
      simpa using Memory.get_put_self m a b h
    | succ k =>
      have := ih (m.put a b) (a + 1) k (Memory.put_wf m a b h) (by simpa using hk)
      rw [Memory.write, show a + (k + 1) = a + 1 + k by omega]
      simpa using this

/-- A part of a canonical memory is canonical. -/
theorem Memory.filter_wf (m : Memory) (p : Nat × Byte → Bool) (h : m.wf = true) : Memory.wf (m.filter p) = true := by
  induction m with
  | nil => rfl
  | cons c t ih =>
    obtain ⟨k, v⟩ := c
    obtain ⟨hv, ha, hw⟩ := (Memory.wf_cons k v t).mp h
    rw [List.filter_cons]
    split
    · exact (Memory.wf_cons _ _ _).mpr ⟨hv, fun d hd => ha d (List.mem_of_mem_filter hd), ih hw⟩
    · exact ih hw

/-- Zeroing a range keeps the canonical form. -/
theorem Memory.zero_wf (m : Memory) (a n : Nat) (h : m.wf = true) : (m.zero a n).wf = true := Memory.filter_wf m _ h

/-- Reading gives as many bytes as asked. -/
@[simp] theorem Memory.read_length (m : Memory) (a n : Nat) : (m.read a n).length = n := by
  induction n generalizing a with
  | zero => rfl
  | succ n ih => simp [Memory.read, ih]

end Sys2Proof.Machine
end

