-- ==== Sys2Proof/Laws/State.lean ====
section
/-! SUPPORT. What each update of a state, of a runner and of a slice leaves in each field. -/

namespace Sys2Proof.Machine

@[simp] theorem State.modR_cycle (s : State) (r : Nat) (f : Runner → Runner) : (s.modR r f).cycle = s.cycle := rfl
@[simp] theorem State.modR_seq (s : State) (r : Nat) (f : Runner → Runner) : (s.modR r f).seq = s.seq := rfl
@[simp] theorem State.modR_agenda (s : State) (r : Nat) (f : Runner → Runner) : (s.modR r f).agenda = s.agenda := rfl
@[simp] theorem State.modR_inbox (s : State) (r : Nat) (f : Runner → Runner) : (s.modR r f).inbox = s.inbox := rfl
@[simp] theorem State.modR_cur (s : State) (r : Nat) (f : Runner → Runner) : (s.modR r f).cur = s.cur := rfl
@[simp] theorem State.modR_runners (s : State) (r : Nat) (f : Runner → Runner) : (s.modR r f).runners = s.runners.map fun x => if x.num == r then f x else x := rfl
@[simp] theorem State.modR_mem (s : State) (r : Nat) (f : Runner → Runner) : (s.modR r f).mem = s.mem := rfl
@[simp] theorem State.modR_tabs (s : State) (r : Nat) (f : Runner → Runner) : (s.modR r f).tabs = s.tabs := rfl
@[simp] theorem State.modR_fw (s : State) (r : Nat) (f : Runner → Runner) : (s.modR r f).fw = s.fw := rfl
@[simp] theorem State.modR_bnd (s : State) (r : Nat) (f : Runner → Runner) : (s.modR r f).bnd = s.bnd := rfl

@[simp] theorem State.modMe_cycle (s : State) (f : Runner → Runner) : (s.modMe f).cycle = s.cycle := rfl
@[simp] theorem State.modMe_seq (s : State) (f : Runner → Runner) : (s.modMe f).seq = s.seq := rfl
@[simp] theorem State.modMe_agenda (s : State) (f : Runner → Runner) : (s.modMe f).agenda = s.agenda := rfl
@[simp] theorem State.modMe_inbox (s : State) (f : Runner → Runner) : (s.modMe f).inbox = s.inbox := rfl
@[simp] theorem State.modMe_cur (s : State) (f : Runner → Runner) : (s.modMe f).cur = s.cur := rfl
@[simp] theorem State.modMe_runners (s : State) (f : Runner → Runner) : (s.modMe f).runners = s.runners.map fun x => if x.num == s.cur.run then f x else x := rfl
@[simp] theorem State.modMe_mem (s : State) (f : Runner → Runner) : (s.modMe f).mem = s.mem := rfl
@[simp] theorem State.modMe_tabs (s : State) (f : Runner → Runner) : (s.modMe f).tabs = s.tabs := rfl
@[simp] theorem State.modMe_fw (s : State) (f : Runner → Runner) : (s.modMe f).fw = s.fw := rfl
@[simp] theorem State.modMe_bnd (s : State) (f : Runner → Runner) : (s.modMe f).bnd = s.bnd := rfl

@[simp] theorem State.modMem_cycle (s : State) (f : MemSys → MemSys) : (s.modMem f).cycle = s.cycle := rfl
@[simp] theorem State.modMem_seq (s : State) (f : MemSys → MemSys) : (s.modMem f).seq = s.seq := rfl
@[simp] theorem State.modMem_agenda (s : State) (f : MemSys → MemSys) : (s.modMem f).agenda = s.agenda := rfl
@[simp] theorem State.modMem_inbox (s : State) (f : MemSys → MemSys) : (s.modMem f).inbox = s.inbox := rfl
@[simp] theorem State.modMem_cur (s : State) (f : MemSys → MemSys) : (s.modMem f).cur = s.cur := rfl
@[simp] theorem State.modMem_runners (s : State) (f : MemSys → MemSys) : (s.modMem f).runners = s.runners := rfl
@[simp] theorem State.modMem_mem (s : State) (f : MemSys → MemSys) : (s.modMem f).mem = f s.mem := rfl
@[simp] theorem State.modMem_tabs (s : State) (f : MemSys → MemSys) : (s.modMem f).tabs = s.tabs := rfl
@[simp] theorem State.modMem_fw (s : State) (f : MemSys → MemSys) : (s.modMem f).fw = s.fw := rfl
@[simp] theorem State.modMem_bnd (s : State) (f : MemSys → MemSys) : (s.modMem f).bnd = s.bnd := rfl

@[simp] theorem State.modFw_cycle (s : State) (f : Fw → Fw) : (s.modFw f).cycle = s.cycle := rfl
@[simp] theorem State.modFw_seq (s : State) (f : Fw → Fw) : (s.modFw f).seq = s.seq := rfl
@[simp] theorem State.modFw_agenda (s : State) (f : Fw → Fw) : (s.modFw f).agenda = s.agenda := rfl
@[simp] theorem State.modFw_inbox (s : State) (f : Fw → Fw) : (s.modFw f).inbox = s.inbox := rfl
@[simp] theorem State.modFw_cur (s : State) (f : Fw → Fw) : (s.modFw f).cur = s.cur := rfl
@[simp] theorem State.modFw_runners (s : State) (f : Fw → Fw) : (s.modFw f).runners = s.runners := rfl
@[simp] theorem State.modFw_mem (s : State) (f : Fw → Fw) : (s.modFw f).mem = s.mem := rfl
@[simp] theorem State.modFw_tabs (s : State) (f : Fw → Fw) : (s.modFw f).tabs = s.tabs := rfl
@[simp] theorem State.modFw_fw (s : State) (f : Fw → Fw) : (s.modFw f).fw = f s.fw := rfl
@[simp] theorem State.modFw_bnd (s : State) (f : Fw → Fw) : (s.modFw f).bnd = s.bnd := rfl

@[simp] theorem State.modBnd_cycle (s : State) (f : Boundary → Boundary) : (s.modBnd f).cycle = s.cycle := rfl
@[simp] theorem State.modBnd_seq (s : State) (f : Boundary → Boundary) : (s.modBnd f).seq = s.seq := rfl
@[simp] theorem State.modBnd_agenda (s : State) (f : Boundary → Boundary) : (s.modBnd f).agenda = s.agenda := rfl
@[simp] theorem State.modBnd_inbox (s : State) (f : Boundary → Boundary) : (s.modBnd f).inbox = s.inbox := rfl
@[simp] theorem State.modBnd_cur (s : State) (f : Boundary → Boundary) : (s.modBnd f).cur = s.cur := rfl
@[simp] theorem State.modBnd_runners (s : State) (f : Boundary → Boundary) : (s.modBnd f).runners = s.runners := rfl
@[simp] theorem State.modBnd_mem (s : State) (f : Boundary → Boundary) : (s.modBnd f).mem = s.mem := rfl
@[simp] theorem State.modBnd_tabs (s : State) (f : Boundary → Boundary) : (s.modBnd f).tabs = s.tabs := rfl
@[simp] theorem State.modBnd_fw (s : State) (f : Boundary → Boundary) : (s.modBnd f).fw = s.fw := rfl
@[simp] theorem State.modBnd_bnd (s : State) (f : Boundary → Boundary) : (s.modBnd f).bnd = f s.bnd := rfl

@[simp] theorem State.send_cycle (s : State) (m : OutMsg) : (s.send m).cycle = s.cycle := rfl
@[simp] theorem State.send_seq (s : State) (m : OutMsg) : (s.send m).seq = s.seq := rfl
@[simp] theorem State.send_agenda (s : State) (m : OutMsg) : (s.send m).agenda = s.agenda := rfl
@[simp] theorem State.send_inbox (s : State) (m : OutMsg) : (s.send m).inbox = s.inbox := rfl
@[simp] theorem State.send_cur (s : State) (m : OutMsg) : (s.send m).cur = s.cur := rfl
@[simp] theorem State.send_runners (s : State) (m : OutMsg) : (s.send m).runners = s.runners := rfl
@[simp] theorem State.send_mem (s : State) (m : OutMsg) : (s.send m).mem = s.mem := rfl
@[simp] theorem State.send_tabs (s : State) (m : OutMsg) : (s.send m).tabs = s.tabs := rfl
@[simp] theorem State.send_fw (s : State) (m : OutMsg) : (s.send m).fw = s.fw := rfl
@[simp] theorem State.send_bnd (s : State) (m : OutMsg) : (s.send m).bnd = { s.bnd with out := s.bnd.out ++ [m] } := rfl

@[simp] theorem State.flit_cycle (s : State) (n : Nat) (b : Bool) : (s.flit n b).cycle = s.cycle := rfl
@[simp] theorem State.flit_seq (s : State) (n : Nat) (b : Bool) : (s.flit n b).seq = s.seq := rfl
@[simp] theorem State.flit_agenda (s : State) (n : Nat) (b : Bool) : (s.flit n b).agenda = s.agenda := rfl
@[simp] theorem State.flit_inbox (s : State) (n : Nat) (b : Bool) : (s.flit n b).inbox = s.inbox := rfl
@[simp] theorem State.flit_cur (s : State) (n : Nat) (b : Bool) : (s.flit n b).cur = s.cur := rfl
@[simp] theorem State.flit_runners (s : State) (n : Nat) (b : Bool) : (s.flit n b).runners = s.runners := rfl
@[simp] theorem State.flit_mem (s : State) (n : Nat) (b : Bool) : (s.flit n b).mem = s.mem := rfl
@[simp] theorem State.flit_tabs (s : State) (n : Nat) (b : Bool) : (s.flit n b).tabs = s.tabs := rfl
@[simp] theorem State.flit_fw (s : State) (n : Nat) (b : Bool) : (s.flit n b).fw = s.fw := rfl
@[simp] theorem State.flit_out (s : State) (n : Nat) (b : Bool) : (s.flit n b).bnd.out = s.bnd.out := rfl
@[simp] theorem State.flit_portUp (s : State) (n : Nat) (b : Bool) : (s.flit n b).bnd.portUp = s.bnd.portUp := rfl

@[simp] theorem State.issueRes_cycle (s : State) (sl : Slice) (k L : Nat) (p : Pend) (b : Bool) :
    (s.issueRes sl k L p b).cycle = s.cycle := rfl
@[simp] theorem State.issueRes_agenda (s : State) (sl : Slice) (k L : Nat) (p : Pend) (b : Bool) :
    (s.issueRes sl k L p b).agenda = s.agenda := rfl
@[simp] theorem State.issueRes_inbox (s : State) (sl : Slice) (k L : Nat) (p : Pend) (b : Bool) :
    (s.issueRes sl k L p b).inbox = s.inbox := rfl
@[simp] theorem State.issueRes_cur (s : State) (sl : Slice) (k L : Nat) (p : Pend) (b : Bool) :
    (s.issueRes sl k L p b).cur = s.cur := rfl
@[simp] theorem State.issueRes_mem (s : State) (sl : Slice) (k L : Nat) (p : Pend) (b : Bool) :
    (s.issueRes sl k L p b).mem = s.mem := rfl
@[simp] theorem State.issueRes_tabs (s : State) (sl : Slice) (k L : Nat) (p : Pend) (b : Bool) :
    (s.issueRes sl k L p b).tabs = s.tabs := rfl
@[simp] theorem State.issueRes_fw (s : State) (sl : Slice) (k L : Nat) (p : Pend) (b : Bool) :
    (s.issueRes sl k L p b).fw = s.fw := rfl
@[simp] theorem State.issueRes_bnd (s : State) (sl : Slice) (k L : Nat) (p : Pend) (b : Bool) :
    (s.issueRes sl k L p b).bnd = s.bnd := rfl
@[simp] theorem State.issueRes_seq (s : State) (sl : Slice) (k L : Nat) (p : Pend) (b : Bool) :
    (s.issueRes sl k L p b).seq = s.seq + 1 := rfl

@[simp] theorem Leg.st_c (l : Leg) : l.st .c = l.c := rfl
@[simp] theorem Leg.st_a (l : Leg) : l.st .a = l.s := rfl
@[simp] theorem Runner.sx_c (x : Runner) : x.sx .c = x.cx := rfl
@[simp] theorem Runner.sx_a (x : Runner) : x.sx .a = x.ax := rfl
@[simp] theorem Runner.modLeg_leg (x : Runner) (f : Leg → Leg) : (x.modLeg f).leg = f x.leg := rfl
@[simp] theorem Runner.modLeg_num (x : Runner) (f : Leg → Leg) : (x.modLeg f).num = x.num := rfl
@[simp] theorem Runner.modSt_num (x : Runner) (sl : Slice) (f : Strm → Strm) : (x.modSt sl f).num = x.num := rfl
@[simp] theorem Runner.modX_num (x : Runner) (sl : Slice) (f : SliceX → SliceX) : (x.modX sl f).num = x.num := by cases sl <;> rfl
@[simp] theorem Runner.modX_leg (x : Runner) (sl : Slice) (f : SliceX → SliceX) : (x.modX sl f).leg = x.leg := by cases sl <;> rfl
@[simp] theorem Runner.modX_sx (x : Runner) (sl : Slice) (f : SliceX → SliceX) : (x.modX sl f).sx sl = f (x.sx sl) := by cases sl <;> rfl
@[simp] theorem Runner.modSt_st (x : Runner) (sl : Slice) (f : Strm → Strm) : (x.modSt sl f).st sl = f (x.st sl) := by cases sl <;> rfl

/-- The runners of a state, by number. -/
theorem State.rn_modR_self (s : State) (r : Nat) (f : Runner → Runner) (hf : ∀ x, (f x).num = x.num)
    (h : ∃ x ∈ s.runners, x.num = r) : (s.modR r f).rn r = f (s.rn r) := by
  unfold State.rn State.modR
  dsimp only
  generalize s.runners = l at h ⊢
  induction l with
  | nil => simp at h
  | cons x t ih =>
    by_cases hx : x.num = r
    · simp [hx, hf]
    · have ht : ∃ y ∈ t, y.num = r := by
        obtain ⟨y, hy, hr⟩ := h
        rcases List.mem_cons.mp hy with rfl | hm
        · exact absurd hr hx
        · exact ⟨y, hm, hr⟩
      simpa [hx] using ih ht
/-- Another runner is as it was. -/
theorem State.rn_modR_other (s : State) (r q : Nat) (f : Runner → Runner) (hf : ∀ x, (f x).num = x.num) (h : q ≠ r) :
    (s.modR r f).rn q = s.rn q := by
  unfold State.rn State.modR
  dsimp only
  generalize s.runners = l
  induction l with
  | nil => rfl
  | cons x t ih =>
    by_cases hx : x.num = r
    · have : r ≠ q := fun e => h e.symm
      simpa [hx, hf, this] using ih
    · by_cases hq : x.num = q
      · simp [hq, h]
      · simpa [hx, hq] using ih

end Sys2Proof.Machine
end

