-- ==== Sys2Proof/Laws/Ops.lean ====
section
/-! SUPPORT. What the shared operations can do: the guard of a slot, the poison check, a result put in flight, a runner changed.
Later proofs cite these and do not unfold the operations. -/

namespace Sys2Proof.Machine

/-! ### Slots -/

/-- A slot that executes does its own part, with what it reads and writes. -/
theorem executes_go {i : Instr} {s : State} {u : Use} (h : Executes i s u) (kt kf : Use → State → Out) :
    slotGuarded i s kt kf = kt u s := by
  obtain ⟨h1, h2, h3, h4, h5⟩ := h
  simp [slotGuarded, h1, h2, h3, h4, h5]

/-- A slot whose guard is false does its other part. -/
theorem skipped_go {i : Instr} {s : State} {u : Use} (h : Skipped i s u) (kt kf : Use → State → Out) :
    slotGuarded i s kt kf = kf u s := by
  obtain ⟨h1, h2, h3, h4, h5⟩ := h
  simp [slotGuarded, h1, h2, h3, h4, h5]

/-- A slot does nothing once its bundle has stopped. -/
theorem stopped_go {i : Instr} {s : State} (h : s.cur.st ≠ .ok) (kt kf : Use → State → Out) : slotGuarded i s kt kf = .next s := by
  cases hs : s.cur.st <;> simp_all [slotGuarded]

/-- What a slot reads and writes is what its instruction says. -/
theorem executes_use {i : Instr} {s : State} {u : Use} (h : Executes i s u) : instrUse s.me i = some u := h.2.1

/-- With no poisoned source the poison check goes on. -/
theorem noPoison_clean {u : Use} {s : State} (h : Unpoisoned s u) (k : State → Out) : noPoison u s u.reads k = k s := by
  have : s.poisoned u u.reads = none := by
    simp only [State.poisoned, Option.map_eq_none_iff, List.find?_eq_none]
    intro p hp
    simp [h p hp]
  simp [noPoison, this]

/-! ### Results in flight -/

/-- A result put in flight with latency L lands in one of the cycles c + 1 to c + L, and nothing else changes. -/
theorem issueRes_issues (s : State) (sl : Slice) (slot L : Nat) (p : Pend) (fx : Bool) (hL : 1 ≤ L) :
    Issues s (s.issueRes sl slot L p fx) sl slot L p := by
  unfold State.issueRes
  by_cases h : fx = true ∨ L ≤ 1
  · refine ⟨s.cycle + L, by omega, by omega, ?_⟩
    have : (fx || decide (L ≤ 1)) = true := by simpa using h
    simp [State.issued, this, State.modMe, State.modR]
  · have h' : (fx || decide (L ≤ 1)) = false := by
      rw [Bool.eq_false_iff]; simpa using h
    refine ⟨s.cycle + 1 + s.landing sl slot % L, by omega, ?_, ?_⟩
    · have := Nat.mod_lt (s.landing sl slot) (y := L) (by omega)
      omega
    · simp [State.issued, h', State.modMe, State.modR]

/-- A result of exact latency L lands in cycle c + L. -/
theorem issueRes_exact (s : State) (sl : Slice) (slot L : Nat) (p : Pend) :
    s.issueRes sl slot L p true = s.issued sl slot L (s.cycle + L) p := by
  simp [State.issueRes, State.issued, State.modMe, State.modR]

/-- A result of latency 1 lands in the next cycle. -/
theorem issueRes_next (s : State) (sl : Slice) (slot : Nat) (p : Pend) (fx : Bool) :
    s.issueRes sl slot 1 p fx = s.issued sl slot 1 (s.cycle + 1) p := by
  simp [State.issueRes, State.issued, State.modMe, State.modR]

/-- The write of a slot's scalar destination is such a result. -/
theorem dstW_issues {s : State} {u : Use} {n L : Nat} {v : Word} {b : Bool} {d : Dst} (h : u.writes[n]? = some d) (hL : 1 ≤ L) :
    Issues s (s.dstW u n L v b) u.sl u.pos L (scalPend d v b) := by
  simp only [State.dstW, h]
  exact issueRes_issues _ _ _ _ _ _ hL

/-! ### Runners -/

/-- A change of one runner that keeps its number leaves the numbers as they are. -/
theorem modR_nums (s : State) (r : Nat) (f : Runner → Runner) (h : ∀ x, x.num = r → (f x).num = r) :
    (s.modR r f).runners.map (fun x => x.num) = s.runners.map (fun x => x.num) := by
  simp only [State.modR, List.map_map]
  apply List.map_congr_left
  intro x _
  by_cases hx : x.num = r
  · simp [hx, h x hx]
  · simp [hx]

/-- A change of another runner is not seen. -/
theorem rn_modR_other (s : State) (r k : Nat) (f : Runner → Runner) (h : ∀ x, x.num = r → (f x).num = r) (hk : k ≠ r) :
    (s.modR r f).rn k = s.rn k := by
  simp only [State.rn, State.modR]
  congr 1
  induction s.runners with
  | nil => rfl
  | cons x l ih =>
    by_cases hx : x.num = r
    · have h1 := h x hx
      simp only [List.map_cons, List.find?_cons, hx, beq_self_eq_true, if_true, h1]
      rw [beq_eq_false_iff_ne.mpr (Ne.symm hk)]
      simpa using ih
    · simp only [List.map_cons, List.find?_cons, beq_eq_false_iff_ne.mpr hx, Bool.false_eq_true, if_false]
      cases hb : x.num == k
      · simpa using ih
      · rfl

/-- A change of a runner of the module is seen in it. -/
theorem rn_modR_same (s : State) (r : Nat) (f : Runner → Runner) (h : ∀ x, x.num = r → (f x).num = r) (hr : HasRunner s r) :
    (s.modR r f).rn r = f (s.rn r) := by
  obtain ⟨y, hy, hn⟩ := hr
  simp only [State.rn, State.modR]
  generalize s.runners = l at hy
  induction l with
  | nil => cases hy
  | cons x l ih =>
    by_cases hx : x.num = r
    · simp [hx, h x hx]
    · have hl : y ∈ l := by
        rcases List.mem_cons.mp hy with e | e
        · exact absurd (e ▸ hn) hx
        · exact e
      simp only [List.map_cons, List.find?_cons, beq_eq_false_iff_ne.mpr hx, Bool.false_eq_true, if_false]
      simpa using ih hl

/-- A runner found in the module has the number asked for. -/
theorem rn_num (s : State) (r : Nat) : (s.rn r).num = r := by
  simp only [State.rn]
  cases hf : s.runners.find? (fun x => x.num == r) with
  | none => rfl
  | some x => simpa using List.find?_some hf

/-- A change of a runner keeps which runners the module has. -/
theorem hasRunner_modR (s : State) (r k : Nat) (f : Runner → Runner) (h : ∀ x, x.num = r → (f x).num = r) :
    HasRunner (s.modR r f) k ↔ HasRunner s k := by
  have e := modR_nums s r f h
  have mem (l : List Runner) : (∃ x ∈ l, x.num = k) ↔ k ∈ l.map (fun x => x.num) := by simp
  unfold HasRunner
  rw [mem, mem, e]

/-! ### Messages of leases (R445) -/

/-- Sending the messages of a lease that wait for a port touches the lease table and the boundary only. -/
theorem flowLease_keeps (s : State) (i : Nat) : (s.flowLease i).cycle = s.cycle ∧ (s.flowLease i).runners = s.runners ∧ (s.flowLease i).mem = s.mem ∧
    (s.flowLease i).fw = s.fw ∧ (s.flowLease i).bnd.portUp = s.bnd.portUp := by
  unfold State.flowLease
  split
  · simp
  · dsimp only
    rename_i e _
    have go (l : List FarMsg) : ∀ z : State × List FarMsg,
        let g (s : State) (m : FarMsg) : State × FarMsg :=
          match m.port, s.portOf e (e.lbase + 64 * m.line) with
          | none, some p => ((s.send (.lease p i m.line m.seqNo m.write m.data)).flit p false, { m with port := some p })
          | _, _ => (s, m)
        let y := (l.foldl (fun (z : State × List FarMsg) m => let x := g z.1 m; (x.1, z.2 ++ [x.2])) z).1
        y.cycle = z.1.cycle ∧ y.runners = z.1.runners ∧ y.mem = z.1.mem ∧ y.fw = z.1.fw ∧ y.bnd.portUp = z.1.bnd.portUp := by
      induction l with
      | nil => intro z; simp
      | cons m l ih =>
        intro z
        simp only [List.foldl_cons]
        refine (ih _).imp (fun h => h.trans ?_) fun h => ⟨h.1.trans ?_, h.2.1.trans ?_, h.2.2.1.trans ?_, h.2.2.2.trans ?_⟩ <;>
          (dsimp only; split <;> simp)
    exact go e.unanswered (s, [])

/-- So does numbering and sending new ones. -/
theorem queueFar_keeps (s : State) (i : Nat) (ms : List FarMsg) : (s.queueFar i ms).cycle = s.cycle ∧ (s.queueFar i ms).runners = s.runners ∧
    (s.queueFar i ms).mem = s.mem ∧ (s.queueFar i ms).fw = s.fw ∧ (s.queueFar i ms).bnd.portUp = s.bnd.portUp := by
  unfold State.queueFar
  split
  · simp
  · exact flowLease_keeps _ i

/-! ### A bundle's slots -/

/-- The first slot of a list runs, then the rest in the state that it leaves. -/
theorem runSlots_cons (ex : Instr → State → Out) (i : Instr) (l : List (Except Illegal Instr)) (s t : State) (h : ex i s = .next t) :
    runSlots ex (.ok i :: l) s = runSlots ex l (if t.cur.st == .ok then t.addLanes i else t) := by
  simp [runSlots, h]

end Sys2Proof.Machine
end

