-- ==== Sys2Proof/Laws/PerInstr.lean ====
section
/-! SUPPORT. Family Words: exactly the slot operations have an instruction word. -/

/-! Each proof is checked before the next begins: with the whole package in one file, many proofs at once would each hold a thread's
stack while they wait for the kernel. -/
set_option Elab.async false

namespace Sys2Proof

/-- An instruction has an encoding exactly when it is a slot operation, one that reads and writes a runner's registers and
queues; events and commands have none. -/
def Laws.Words.Statement (i : Instr) : Prop := ∀ x : Machine.Runner, (encode i).isSome = (Machine.instrUse x i).isSome

theorem Laws.Words.nop (o : NopO) : Laws.Words.Statement (.nop o) := fun _ => rfl
theorem Laws.Words.header (o : HdrO) : Laws.Words.Statement (.header o) := fun _ => rfl
theorem Laws.Words.leg (o : HdrO) : Laws.Words.Statement (.leg o) := fun _ => rfl
theorem Laws.Words.exchange (o : HdrO) : Laws.Words.Statement (.exchange o) := fun _ => rfl
theorem Laws.Words.patch (o : HdrO) : Laws.Words.Statement (.patch o) := fun _ => rfl
theorem Laws.Words.exposed (o : HdrO) : Laws.Words.Statement (.exposed o) := fun _ => rfl
theorem Laws.Words.interlocked (o : HdrO) : Laws.Words.Statement (.interlocked o) := fun _ => rfl
theorem Laws.Words.hint (o : HdrO) : Laws.Words.Statement (.hint o) := fun _ => rfl
theorem Laws.Words.add (o : R3) : Laws.Words.Statement (.add o) := fun _ => rfl
theorem Laws.Words.sub (o : R3) : Laws.Words.Statement (.sub o) := fun _ => rfl
theorem Laws.Words.and (o : R3) : Laws.Words.Statement (.and o) := fun _ => rfl
theorem Laws.Words.or (o : R3) : Laws.Words.Statement (.or o) := fun _ => rfl
theorem Laws.Words.xor (o : R3) : Laws.Words.Statement (.xor o) := fun _ => rfl
theorem Laws.Words.shl (o : R3) : Laws.Words.Statement (.shl o) := fun _ => rfl
theorem Laws.Words.shr (o : R3) : Laws.Words.Statement (.shr o) := fun _ => rfl
theorem Laws.Words.sar (o : R3) : Laws.Words.Statement (.sar o) := fun _ => rfl
theorem Laws.Words.rol (o : R3) : Laws.Words.Statement (.rol o) := fun _ => rfl
theorem Laws.Words.min (o : R3) : Laws.Words.Statement (.min o) := fun _ => rfl
theorem Laws.Words.max (o : R3) : Laws.Words.Statement (.max o) := fun _ => rfl
theorem Laws.Words.minz (o : R3) : Laws.Words.Statement (.minz o) := fun _ => rfl
theorem Laws.Words.maxz (o : R3) : Laws.Words.Statement (.maxz o) := fun _ => rfl
theorem Laws.Words.mul (o : R3) : Laws.Words.Statement (.mul o) := fun _ => rfl
theorem Laws.Words.mulh (o : R3) : Laws.Words.Statement (.mulh o) := fun _ => rfl
theorem Laws.Words.mulhz (o : R3) : Laws.Words.Statement (.mulhz o) := fun _ => rfl
theorem Laws.Words.div (o : R3) : Laws.Words.Statement (.div o) := fun _ => rfl
theorem Laws.Words.divz (o : R3) : Laws.Words.Statement (.divz o) := fun _ => rfl
theorem Laws.Words.rem (o : R3) : Laws.Words.Statement (.rem o) := fun _ => rfl
theorem Laws.Words.remz (o : R3) : Laws.Words.Statement (.remz o) := fun _ => rfl
theorem Laws.Words.mov (o : R2) : Laws.Words.Statement (.mov o) := fun _ => rfl
theorem Laws.Words.not (o : R2) : Laws.Words.Statement (.not o) := fun _ => rfl
theorem Laws.Words.clz (o : R2) : Laws.Words.Statement (.clz o) := fun _ => rfl
theorem Laws.Words.ctz (o : R2) : Laws.Words.Statement (.ctz o) := fun _ => rfl
theorem Laws.Words.popc (o : R2) : Laws.Words.Statement (.popc o) := fun _ => rfl
theorem Laws.Words.bswap (o : R2) : Laws.Words.Statement (.bswap o) := fun _ => rfl
theorem Laws.Words.movFromLdq0 (o : GD) : Laws.Words.Statement (.movFromLdq0 o) := fun _ => rfl
theorem Laws.Words.movFromLdq1 (o : GD) : Laws.Words.Statement (.movFromLdq1 o) := fun _ => rfl
theorem Laws.Words.addi (o : RI) : Laws.Words.Statement (.addi o) := fun _ => rfl
theorem Laws.Words.andi (o : RI) : Laws.Words.Statement (.andi o) := fun _ => rfl
theorem Laws.Words.ori (o : RI) : Laws.Words.Statement (.ori o) := fun _ => rfl
theorem Laws.Words.xori (o : RI) : Laws.Words.Statement (.xori o) := fun _ => rfl
theorem Laws.Words.shli (o : RSh) : Laws.Words.Statement (.shli o) := fun _ => rfl
theorem Laws.Words.shri (o : RSh) : Laws.Words.Statement (.shri o) := fun _ => rfl
theorem Laws.Words.sari (o : RSh) : Laws.Words.Statement (.sari o) := fun _ => rfl
theorem Laws.Words.extr (o : RField) : Laws.Words.Statement (.extr o) := fun _ => rfl
theorem Laws.Words.ins (o : RField) : Laws.Words.Statement (.ins o) := fun _ => rfl
theorem Laws.Words.li (o : LiO) : Laws.Words.Statement (.li o) := fun _ => rfl
theorem Laws.Words.lih (o : LihO) : Laws.Words.Statement (.lih o) := fun _ => rfl
theorem Laws.Words.sel (o : SelO) : Laws.Words.Statement (.sel o) := fun _ => rfl
theorem Laws.Words.cmp (o : CmpO) : Laws.Words.Statement (.cmp o) := fun _ => rfl
theorem Laws.Words.cmpi (o : CmpiO) : Laws.Words.Statement (.cmpi o) := fun _ => rfl
theorem Laws.Words.pand (o : R3) : Laws.Words.Statement (.pand o) := fun _ => rfl
theorem Laws.Words.por (o : R3) : Laws.Words.Statement (.por o) := fun _ => rfl
theorem Laws.Words.pxor (o : R3) : Laws.Words.Statement (.pxor o) := fun _ => rfl
theorem Laws.Words.pnot (o : R2) : Laws.Words.Statement (.pnot o) := fun _ => rfl
theorem Laws.Words.pmov (o : R2) : Laws.Words.Statement (.pmov o) := fun _ => rfl
theorem Laws.Words.br (o : BrO) : Laws.Words.Statement (.br o) := fun _ => rfl
theorem Laws.Words.call (o : BrO) : Laws.Words.Statement (.call o) := fun _ => rfl
theorem Laws.Words.loopb (o : BrO) : Laws.Words.Statement (.loopb o) := fun _ => rfl
theorem Laws.Words.brc (o : BrcO) : Laws.Words.Statement (.brc o) := fun _ => rfl
theorem Laws.Words.brr (o : S1O) : Laws.Words.Statement (.brr o) := fun _ => rfl
theorem Laws.Words.callr (o : R2) : Laws.Words.Statement (.callr o) := fun _ => rfl
theorem Laws.Words.ret (o : S1O) : Laws.Words.Statement (.ret o) := fun _ => rfl
theorem Laws.Words.chk (o : ChkO) : Laws.Words.Statement (.chk o) := fun _ => rfl
theorem Laws.Words.loopset (o : LoopsetO) : Laws.Words.Statement (.loopset o) := fun _ => rfl
theorem Laws.Words.wait (o : WaitO) : Laws.Words.Statement (.wait o) := fun _ => rfl
theorem Laws.Words.xtovVa (o : CopyO) : Laws.Words.Statement (.xtovVa o) := fun _ => rfl
theorem Laws.Words.xtovVb (o : CopyO) : Laws.Words.Statement (.xtovVb o) := fun _ => rfl
theorem Laws.Words.vtoxVa (o : CopyO) : Laws.Words.Statement (.vtoxVa o) := fun _ => rfl
theorem Laws.Words.vtoxVb (o : CopyO) : Laws.Words.Statement (.vtoxVb o) := fun _ => rfl
theorem Laws.Words.vatovb (o : GDS) : Laws.Words.Statement (.vatovb o) := fun _ => rfl
theorem Laws.Words.vbtova (o : GDS) : Laws.Words.Statement (.vbtova o) := fun _ => rfl
theorem Laws.Words.xtoa (o : GDS) : Laws.Words.Statement (.xtoa o) := fun _ => rfl
theorem Laws.Words.atox (o : GDS) : Laws.Words.Statement (.atox o) := fun _ => rfl
theorem Laws.Words.csrr (o : CsrrO) : Laws.Words.Statement (.csrr o) := fun _ => rfl
theorem Laws.Words.csrw (o : CsrwO) : Laws.Words.Statement (.csrw o) := fun _ => rfl
theorem Laws.Words.acsrr (o : CsrrO) : Laws.Words.Statement (.acsrr o) := fun _ => rfl
theorem Laws.Words.acsrw (o : CsrwO) : Laws.Words.Statement (.acsrw o) := fun _ => rfl
theorem Laws.Words.trap (o : TrapO) : Laws.Words.Statement (.trap o) := fun _ => rfl
theorem Laws.Words.rft (o : SysO) : Laws.Words.Statement (.rft o) := fun _ => rfl
theorem Laws.Words.done (o : SysO) : Laws.Words.Statement (.done o) := fun _ => rfl
theorem Laws.Words.halt (o : SysO) : Laws.Words.Statement (.halt o) := fun _ => rfl
theorem Laws.Words.rwnd (o : GO) : Laws.Words.Statement (.rwnd o) := fun _ => rfl
theorem Laws.Words.preemptAck (o : GO) : Laws.Words.Statement (.preemptAck o) := fun _ => rfl
theorem Laws.Words.pushc (o : GS) : Laws.Words.Statement (.pushc o) := fun _ => rfl
theorem Laws.Words.popa (o : GD) : Laws.Words.Statement (.popa o) := fun _ => rfl
theorem Laws.Words.brq (o : BrqO) : Laws.Words.Statement (.brq o) := fun _ => rfl
theorem Laws.Words.qpush (o : GS) : Laws.Words.Statement (.qpush o) := fun _ => rfl
theorem Laws.Words.qdrain (o : QDrainO) : Laws.Words.Statement (.qdrain o) := fun _ => rfl
theorem Laws.Words.qstat (o : QStatO) : Laws.Words.Statement (.qstat o) := fun _ => rfl
theorem Laws.Words.extrQ (o : QueryO) : Laws.Words.Statement (.extrQ o) := fun _ => rfl
theorem Laws.Words.shpr (o : QueryO) : Laws.Words.Statement (.shpr o) := fun _ => rfl
theorem Laws.Words.tstate (o : QueryO) : Laws.Words.Statement (.tstate o) := fun _ => rfl
theorem Laws.Words.keyq (o : QueryO) : Laws.Words.Statement (.keyq o) := fun _ => rfl
theorem Laws.Words.vadd (o : V3) : Laws.Words.Statement (.vadd o) := fun _ => rfl
theorem Laws.Words.vaddsat (o : V3) : Laws.Words.Statement (.vaddsat o) := fun _ => rfl
theorem Laws.Words.vsub (o : V3) : Laws.Words.Statement (.vsub o) := fun _ => rfl
theorem Laws.Words.vsubsat (o : V3) : Laws.Words.Statement (.vsubsat o) := fun _ => rfl
theorem Laws.Words.vmul (o : V3) : Laws.Words.Statement (.vmul o) := fun _ => rfl
theorem Laws.Words.vmullo (o : V3) : Laws.Words.Statement (.vmullo o) := fun _ => rfl
theorem Laws.Words.vmulhi (o : V3) : Laws.Words.Statement (.vmulhi o) := fun _ => rfl
theorem Laws.Words.vmulhiz (o : V3) : Laws.Words.Statement (.vmulhiz o) := fun _ => rfl
theorem Laws.Words.vfma (o : V4) : Laws.Words.Statement (.vfma o) := fun _ => rfl
theorem Laws.Words.vfms (o : V4) : Laws.Words.Statement (.vfms o) := fun _ => rfl
theorem Laws.Words.vfnma (o : V4) : Laws.Words.Statement (.vfnma o) := fun _ => rfl
theorem Laws.Words.vdiv (o : V3) : Laws.Words.Statement (.vdiv o) := fun _ => rfl
theorem Laws.Words.vmin (o : V3) : Laws.Words.Statement (.vmin o) := fun _ => rfl
theorem Laws.Words.vmax (o : V3) : Laws.Words.Statement (.vmax o) := fun _ => rfl
theorem Laws.Words.vcopysign (o : V3) : Laws.Words.Statement (.vcopysign o) := fun _ => rfl
theorem Laws.Words.vavg (o : V3) : Laws.Words.Statement (.vavg o) := fun _ => rfl
theorem Laws.Words.vand (o : V3) : Laws.Words.Statement (.vand o) := fun _ => rfl
theorem Laws.Words.vor (o : V3) : Laws.Words.Statement (.vor o) := fun _ => rfl
theorem Laws.Words.vxor (o : V3) : Laws.Words.Statement (.vxor o) := fun _ => rfl
theorem Laws.Words.vshl (o : V3) : Laws.Words.Statement (.vshl o) := fun _ => rfl
theorem Laws.Words.vshr (o : V3) : Laws.Words.Statement (.vshr o) := fun _ => rfl
theorem Laws.Words.vsar (o : V3) : Laws.Words.Statement (.vsar o) := fun _ => rfl
theorem Laws.Words.vmov (o : V2) : Laws.Words.Statement (.vmov o) := fun _ => rfl
theorem Laws.Words.vabs (o : V2) : Laws.Words.Statement (.vabs o) := fun _ => rfl
theorem Laws.Words.vneg (o : V2) : Laws.Words.Statement (.vneg o) := fun _ => rfl
theorem Laws.Words.vnot (o : V2) : Laws.Words.Statement (.vnot o) := fun _ => rfl
theorem Laws.Words.vpopc (o : V2) : Laws.Words.Statement (.vpopc o) := fun _ => rfl
theorem Laws.Words.vclz (o : V2) : Laws.Words.Statement (.vclz o) := fun _ => rfl
theorem Laws.Words.vsqrt (o : V2) : Laws.Words.Statement (.vsqrt o) := fun _ => rfl
theorem Laws.Words.vstain (o : VDS) : Laws.Words.Statement (.vstain o) := fun _ => rfl
theorem Laws.Words.vclean (o : VDS) : Laws.Words.Statement (.vclean o) := fun _ => rfl
theorem Laws.Words.vstst (o : VDS) : Laws.Words.Statement (.vstst o) := fun _ => rfl
theorem Laws.Words.vseedr (o : VD) : Laws.Words.Statement (.vseedr o) := fun _ => rfl
theorem Laws.Words.vseedw (o : VS) : Laws.Words.Statement (.vseedw o) := fun _ => rfl
theorem Laws.Words.vpushSdq (o : VS) : Laws.Words.Statement (.vpushSdq o) := fun _ => rfl
theorem Laws.Words.vpushIxq (o : VS) : Laws.Words.Statement (.vpushIxq o) := fun _ => rfl
theorem Laws.Words.vmovFromLdq0 (o : VPop) : Laws.Words.Statement (.vmovFromLdq0 o) := fun _ => rfl
theorem Laws.Words.vmovFromLdq1 (o : VPop) : Laws.Words.Statement (.vmovFromLdq1 o) := fun _ => rfl
theorem Laws.Words.vexp2 (o : V2) : Laws.Words.Statement (.vexp2 o) := fun _ => rfl
theorem Laws.Words.vlog2 (o : V2) : Laws.Words.Statement (.vlog2 o) := fun _ => rfl
theorem Laws.Words.vrcp (o : V2) : Laws.Words.Statement (.vrcp o) := fun _ => rfl
theorem Laws.Words.vrsq (o : V2) : Laws.Words.Statement (.vrsq o) := fun _ => rfl
theorem Laws.Words.vsin (o : V2) : Laws.Words.Statement (.vsin o) := fun _ => rfl
theorem Laws.Words.vcos (o : V2) : Laws.Words.Statement (.vcos o) := fun _ => rfl
theorem Laws.Words.vtanh (o : V2) : Laws.Words.Statement (.vtanh o) := fun _ => rfl
theorem Laws.Words.vcmp (o : VCmpO) : Laws.Words.Statement (.vcmp o) := fun _ => rfl
theorem Laws.Words.vcmpm (o : VCmpO) : Laws.Words.Statement (.vcmpm o) := fun _ => rfl
theorem Laws.Words.vsel (o : V4) : Laws.Words.Statement (.vsel o) := fun _ => rfl
theorem Laws.Words.vcvt (o : VCvtO) : Laws.Words.Statement (.vcvt o) := fun _ => rfl
theorem Laws.Words.vcvtef (o : VCv4) : Laws.Words.Statement (.vcvtef o) := fun _ => rfl
theorem Laws.Words.vqnt (o : VCv4) : Laws.Words.Statement (.vqnt o) := fun _ => rfl
theorem Laws.Words.vdqnt (o : VCv4) : Laws.Words.Statement (.vdqnt o) := fun _ => rfl
theorem Laws.Words.vpacksp (o : VPackO) : Laws.Words.Statement (.vpacksp o) := fun _ => rfl
theorem Laws.Words.vred (o : VRedO) : Laws.Words.Statement (.vred o) := fun _ => rfl
theorem Laws.Words.vscan (o : VRedO) : Laws.Words.Statement (.vscan o) := fun _ => rfl
theorem Laws.Words.vredr (o : VRedO) : Laws.Words.Statement (.vredr o) := fun _ => rfl
theorem Laws.Words.vperm (o : VPermO) : Laws.Words.Statement (.vperm o) := fun _ => rfl
theorem Laws.Words.vshuf (o : VPermO) : Laws.Words.Statement (.vshuf o) := fun _ => rfl
theorem Laws.Words.vbcast (o : VPermO) : Laws.Words.Statement (.vbcast o) := fun _ => rfl
theorem Laws.Words.vext (o : VPermO) : Laws.Words.Statement (.vext o) := fun _ => rfl
theorem Laws.Words.vins (o : VPermO) : Laws.Words.Statement (.vins o) := fun _ => rfl
theorem Laws.Words.vrot (o : VPermO) : Laws.Words.Statement (.vrot o) := fun _ => rfl
theorem Laws.Words.vcompress (o : VPermO) : Laws.Words.Statement (.vcompress o) := fun _ => rfl
theorem Laws.Words.vexpand (o : VPermO) : Laws.Words.Statement (.vexpand o) := fun _ => rfl
theorem Laws.Words.vzip (o : VPermO) : Laws.Words.Statement (.vzip o) := fun _ => rfl
theorem Laws.Words.vunzip (o : VPermO) : Laws.Words.Statement (.vunzip o) := fun _ => rfl
theorem Laws.Words.vli (o : VLiO) : Laws.Words.Statement (.vli o) := fun _ => rfl
theorem Laws.Words.mgclaim (o : GD) : Laws.Words.Statement (.mgclaim o) := fun _ => rfl
theorem Laws.Words.mgrel (o : GD) : Laws.Words.Statement (.mgrel o) := fun _ => rfl
theorem Laws.Words.mgfill (o : MgFillO) : Laws.Words.Statement (.mgfill o) := fun _ => rfl
theorem Laws.Words.mgspfill (o : MgSpO) : Laws.Words.Statement (.mgspfill o) := fun _ => rfl
theorem Laws.Words.mma (o : MmaO) : Laws.Words.Statement (.mma o) := fun _ => rfl
theorem Laws.Words.mmasp (o : MmaSpO) : Laws.Words.Statement (.mmasp o) := fun _ => rfl
theorem Laws.Words.mmac (o : MmacO) : Laws.Words.Statement (.mmac o) := fun _ => rfl
theorem Laws.Words.acz (o : GD) : Laws.Words.Statement (.acz o) := fun _ => rfl
theorem Laws.Words.acload (o : AcTileO) : Laws.Words.Statement (.acload o) := fun _ => rfl
theorem Laws.Words.acdrain (o : AcTileO) : Laws.Words.Statement (.acdrain o) := fun _ => rfl
theorem Laws.Words.acscale (o : AcTileO) : Laws.Words.Statement (.acscale o) := fun _ => rfl
theorem Laws.Words.acstain (o : AcRowO) : Laws.Words.Statement (.acstain o) := fun _ => rfl
theorem Laws.Words.acclean (o : AcRowO) : Laws.Words.Statement (.acclean o) := fun _ => rfl
theorem Laws.Words.esync (o : GO) : Laws.Words.Statement (.esync o) := fun _ => rfl
theorem Laws.Words.estatPress (o : GO) : Laws.Words.Statement (.estatPress o) := fun _ => rfl
theorem Laws.Words.estatSprinter (o : GO) : Laws.Words.Statement (.estatSprinter o) := fun _ => rfl
theorem Laws.Words.estatRelay (o : GO) : Laws.Words.Statement (.estatRelay o) := fun _ => rfl
theorem Laws.Words.lda (o : AgLdO) : Laws.Words.Statement (.lda o) := fun _ => rfl
theorem Laws.Words.ldaS (o : AgLdO) : Laws.Words.Statement (.ldaS o) := fun _ => rfl
theorem Laws.Words.ldst (o : AgLdStO) : Laws.Words.Statement (.ldst o) := fun _ => rfl
theorem Laws.Words.ldx (o : AgLdXO) : Laws.Words.Statement (.ldx o) := fun _ => rfl
theorem Laws.Words.sta (o : AgStO) : Laws.Words.Statement (.sta o) := fun _ => rfl
theorem Laws.Words.stst (o : AgStStO) : Laws.Words.Statement (.stst o) := fun _ => rfl
theorem Laws.Words.stx (o : AgStXO) : Laws.Words.Statement (.stx o) := fun _ => rfl
theorem Laws.Words.tld (o : GDSS) : Laws.Words.Statement (.tld o) := fun _ => rfl
theorem Laws.Words.tst (o : GDSS) : Laws.Words.Statement (.tst o) := fun _ => rfl
theorem Laws.Words.tmov (o : GSS) : Laws.Words.Statement (.tmov o) := fun _ => rfl
theorem Laws.Words.tcopy (o : GSS) : Laws.Words.Statement (.tcopy o) := fun _ => rfl
theorem Laws.Words.tfill (o : GSS) : Laws.Words.Statement (.tfill o) := fun _ => rfl
theorem Laws.Words.tzero (o : GS) : Laws.Words.Statement (.tzero o) := fun _ => rfl
theorem Laws.Words.twait (o : GS) : Laws.Words.Statement (.twait o) := fun _ => rfl
theorem Laws.Words.calr (o : ColO) : Laws.Words.Statement (.calr o) := fun _ => rfl
theorem Laws.Words.caga (o : GSS) : Laws.Words.Statement (.caga o) := fun _ => rfl
theorem Laws.Words.crsc (o : ColO) : Laws.Words.Statement (.crsc o) := fun _ => rfl
theorem Laws.Words.ca2a (o : GSS) : Laws.Words.Statement (.ca2a o) := fun _ => rfl
theorem Laws.Words.cbcs (o : GSS) : Laws.Words.Statement (.cbcs o) := fun _ => rfl
theorem Laws.Words.amo (o : AmoO) : Laws.Words.Statement (.amo o) := fun _ => rfl
theorem Laws.Words.amoVector (o : AmoVO) : Laws.Words.Statement (.amoVector o) := fun _ => rfl
theorem Laws.Words.lds (o : LdsO) : Laws.Words.Statement (.lds o) := fun _ => rfl
theorem Laws.Words.sts (o : StsO) : Laws.Words.Statement (.sts o) := fun _ => rfl
theorem Laws.Words.fence (o : FenceO) : Laws.Words.Statement (.fence o) := fun _ => rfl
theorem Laws.Words.bars (o : GO) : Laws.Words.Statement (.bars o) := fun _ => rfl
theorem Laws.Words.barinit (o : GSS) : Laws.Words.Statement (.barinit o) := fun _ => rfl
theorem Laws.Words.bararr (o : GS) : Laws.Words.Statement (.bararr o) := fun _ => rfl
theorem Laws.Words.barinv (o : GS) : Laws.Words.Statement (.barinv o) := fun _ => rfl
theorem Laws.Words.sig (o : SigO) : Laws.Words.Statement (.sig o) := fun _ => rfl
theorem Laws.Words.tdef (o : GSS) : Laws.Words.Statement (.tdef o) := fun _ => rfl
theorem Laws.Words.tfree (o : GS) : Laws.Words.Statement (.tfree o) := fun _ => rfl
theorem Laws.Words.seal (o : GSS) : Laws.Words.Statement (.seal o) := fun _ => rfl
theorem Laws.Words.unseal (o : GSS) : Laws.Words.Statement (.unseal o) := fun _ => rfl
theorem Laws.Words.scrub (o : GO) : Laws.Words.Statement (.scrub o) := fun _ => rfl
theorem Laws.Words.keyrot (o : GO) : Laws.Words.Statement (.keyrot o) := fun _ => rfl
theorem Laws.Words.keyld (o : GSS) : Laws.Words.Statement (.keyld o) := fun _ => rfl
theorem Laws.Words.pwquota (o : GSS) : Laws.Words.Statement (.pwquota o) := fun _ => rfl
theorem Laws.Words.pwpleat (o : GSS) : Laws.Words.Statement (.pwpleat o) := fun _ => rfl
theorem Laws.Words.pwlap (o : GSS) : Laws.Words.Statement (.pwlap o) := fun _ => rfl
theorem Laws.Words.pwlease (o : GSS) : Laws.Words.Statement (.pwlease o) := fun _ => rfl
theorem Laws.Words.pwgran (o : GSS) : Laws.Words.Statement (.pwgran o) := fun _ => rfl
theorem Laws.Words.pwweight (o : GSS) : Laws.Words.Statement (.pwweight o) := fun _ => rfl
theorem Laws.Words.tableWriteComplete (r : Nat) : Laws.Words.Statement (.tableWriteComplete r) := fun _ => rfl
theorem Laws.Words.resultLands (r : Nat) (sl : Slice) (n : Nat) : Laws.Words.Statement (.resultLands r sl n) := fun _ => rfl
theorem Laws.Words.ifqReinjection (r : Nat) (sl : Slice) (n : Nat) : Laws.Words.Statement (.ifqReinjection r sl n) := fun _ => rfl
theorem Laws.Words.waitElapsed (r : Nat) (sl : Slice) : Laws.Words.Statement (.waitElapsed r sl) := fun _ => rfl
theorem Laws.Words.queueEntryVisible (r : Nat) (q : QName) : Laws.Words.Statement (.queueEntryVisible r q) := fun _ => rfl
theorem Laws.Words.qdrainTakesEffect (r : Nat) : Laws.Words.Statement (.qdrainTakesEffect r) := fun _ => rfl
theorem Laws.Words.storeMatch (r : Nat) : Laws.Words.Statement (.storeMatch r) := fun _ => rfl
theorem Laws.Words.rewindReentry (r : Nat) : Laws.Words.Statement (.rewindReentry r) := fun _ => rfl
theorem Laws.Words.notPresentHoldRelease (r : Nat) : Laws.Words.Statement (.notPresentHoldRelease r) := fun _ => rfl
theorem Laws.Words.extentAcknowledge (r x : Nat) : Laws.Words.Statement (.extentAcknowledge r x) := fun _ => rfl
theorem Laws.Words.exchangePass (q : Nat) : Laws.Words.Statement (.exchangePass q) := fun _ => rfl
theorem Laws.Words.barsComplete (q : Nat) : Laws.Words.Statement (.barsComplete q) := fun _ => rfl
theorem Laws.Words.strongAccessPerform (r n : Nat) : Laws.Words.Statement (.strongAccessPerform r n) := fun _ => rfl
theorem Laws.Words.barrierArrival (r : Nat) : Laws.Words.Statement (.barrierArrival r) := fun _ => rfl
theorem Laws.Words.dataSlot (ch : Nat) : Laws.Words.Statement (.dataSlot ch) := fun _ => rfl
theorem Laws.Words.dataArrival (n : Nat) : Laws.Words.Statement (.dataArrival n) := fun _ => rfl
theorem Laws.Words.lapBoundary (ch : Nat) : Laws.Words.Statement (.lapBoundary ch) := fun _ => rfl
theorem Laws.Words.mendingSlot (ch : Nat) : Laws.Words.Statement (.mendingSlot ch) := fun _ => rfl
theorem Laws.Words.rowPrecharge (ch bank row : Nat) : Laws.Words.Statement (.rowPrecharge ch bank row) := fun _ => rfl
theorem Laws.Words.sweepComplete (o : Nat) : Laws.Words.Statement (.sweepComplete o) := fun _ => rfl
theorem Laws.Words.dataRateChange (k : Nat) : Laws.Words.Statement (.dataRateChange k) := fun _ => rfl
theorem Laws.Words.retrainingDone (k : Nat) : Laws.Words.Statement (.retrainingDone k) := fun _ => rfl
theorem Laws.Words.pressCommandStart (r : Nat) (q : PressQ) : Laws.Words.Statement (.pressCommandStart r q) := fun _ => rfl
theorem Laws.Words.kBlockCommit (r : Nat) : Laws.Words.Statement (.kBlockCommit r) := fun _ => rfl
theorem Laws.Words.pressCommandComplete (r : Nat) (q : PressQ) : Laws.Words.Statement (.pressCommandComplete r q) := fun _ => rfl
theorem Laws.Words.sprinterCommandStart (r : Nat) : Laws.Words.Statement (.sprinterCommandStart r) := fun _ => rfl
theorem Laws.Words.sprinterChunkCommit (r : Nat) : Laws.Words.Statement (.sprinterChunkCommit r) := fun _ => rfl
theorem Laws.Words.sprinterCommandComplete (r : Nat) : Laws.Words.Statement (.sprinterCommandComplete r) := fun _ => rfl
theorem Laws.Words.collectiveStart (q : Nat) (mask : Word) : Laws.Words.Statement (.collectiveStart q mask) := fun _ => rfl
theorem Laws.Words.collectiveStep (q : Nat) (mask : Word) : Laws.Words.Statement (.collectiveStep q mask) := fun _ => rfl
theorem Laws.Words.patchCopyComplete (r : Nat) (sl : Slice) : Laws.Words.Statement (.patchCopyComplete r sl) := fun _ => rfl
theorem Laws.Words.runnerFinish (r : Nat) : Laws.Words.Statement (.runnerFinish r) := fun _ => rfl
theorem Laws.Words.eventInterruptTimer (n : Nat) : Laws.Words.Statement (.eventInterruptTimer n) := fun _ => rfl
theorem Laws.Words.preemptAcknowledge (r : Nat) (it : AckItem) : Laws.Words.Statement (.preemptAcknowledge r it) := fun _ => rfl
theorem Laws.Words.contextSaveComplete (r : Nat) : Laws.Words.Statement (.contextSaveComplete r) := fun _ => rfl
theorem Laws.Words.runnerRelease (r : Nat) : Laws.Words.Statement (.runnerRelease r) := fun _ => rfl
theorem Laws.Words.pollingSlot (d k : Nat) : Laws.Words.Statement (.pollingSlot d k) := fun _ => rfl
theorem Laws.Words.backgroundStep (d : Nat) : Laws.Words.Statement (.backgroundStep d) := fun _ => rfl
theorem Laws.Words.waitFaultTimeout (n : Nat) : Laws.Words.Statement (.waitFaultTimeout n) := fun _ => rfl
theorem Laws.Words.schedulingRound : Laws.Words.Statement (.schedulingRound) := fun _ => rfl
theorem Laws.Words.fairnessWindow : Laws.Words.Statement (.fairnessWindow) := fun _ => rfl
theorem Laws.Words.leaseDeadline (i : Nat) : Laws.Words.Statement (.leaseDeadline i) := fun _ => rfl
theorem Laws.Words.nopPacket (p : Pkt) : Laws.Words.Statement (.nopPacket p) := fun _ => rfl
theorem Laws.Words.launch (p : Pkt) : Laws.Words.Statement (.launch p) := fun _ => rfl
theorem Laws.Words.waitPacket (p : Pkt) : Laws.Words.Statement (.waitPacket p) := fun _ => rfl
theorem Laws.Words.signal (p : Pkt) : Laws.Words.Statement (.signal p) := fun _ => rfl
theorem Laws.Words.barrierPkt (p : Pkt) : Laws.Words.Statement (.barrierPkt p) := fun _ => rfl
theorem Laws.Words.map (p : Pkt) : Laws.Words.Statement (.map p) := fun _ => rfl
theorem Laws.Words.unmap (p : Pkt) : Laws.Words.Statement (.unmap p) := fun _ => rfl
theorem Laws.Words.migrate (p : Pkt) : Laws.Words.Statement (.migrate p) := fun _ => rfl
theorem Laws.Words.lease (p : Pkt) : Laws.Words.Statement (.lease p) := fun _ => rfl
theorem Laws.Words.revoke (p : Pkt) : Laws.Words.Statement (.revoke p) := fun _ => rfl
theorem Laws.Words.resetq (p : Pkt) : Laws.Words.Statement (.resetq p) := fun _ => rfl
theorem Laws.Words.ctxsave (p : Pkt) : Laws.Words.Statement (.ctxsave p) := fun _ => rfl
theorem Laws.Words.ctxload (p : Pkt) : Laws.Words.Statement (.ctxload p) := fun _ => rfl
theorem Laws.Words.wsetload (p : Pkt) : Laws.Words.Statement (.wsetload p) := fun _ => rfl
theorem Laws.Words.wsetswitch (p : Pkt) : Laws.Words.Statement (.wsetswitch p) := fun _ => rfl
theorem Laws.Words.auditcfg (p : Pkt) : Laws.Words.Statement (.auditcfg p) := fun _ => rfl
theorem Laws.Words.meterread (p : Pkt) : Laws.Words.Statement (.meterread p) := fun _ => rfl
theorem Laws.Words.keywrap (p : Pkt) : Laws.Words.Statement (.keywrap p) := fun _ => rfl
theorem Laws.Words.qopen (p : Pkt) : Laws.Words.Statement (.qopen p) := fun _ => rfl
theorem Laws.Words.qclose (p : Pkt) : Laws.Words.Statement (.qclose p) := fun _ => rfl
theorem Laws.Words.lend (p : Pkt) : Laws.Words.Statement (.lend p) := fun _ => rfl
theorem Laws.Words.part (p : Pkt) : Laws.Words.Statement (.part p) := fun _ => rfl
theorem Laws.Words.vfstop (p : Pkt) : Laws.Words.Statement (.vfstop p) := fun _ => rfl
theorem Laws.Words.vfgo (p : Pkt) : Laws.Words.Statement (.vfgo p) := fun _ => rfl
theorem Laws.Words.commandComplete (n : Nat) : Laws.Words.Statement (.commandComplete n) := fun _ => rfl
theorem Laws.Words.doorbellWrite (f q : Nat) (v : BitVec 32) : Laws.Words.Statement (.doorbellWrite f q v) := fun _ => rfl
theorem Laws.Words.cqctlEnable (f : Nat) : Laws.Words.Statement (.cqctlEnable f) := fun _ => rfl
theorem Laws.Words.cqctlDisable (f : Nat) : Laws.Words.Statement (.cqctlDisable f) := fun _ => rfl
theorem Laws.Words.pcapWrite (v : Word) : Laws.Words.Statement (.pcapWrite v) := fun _ => rfl
theorem Laws.Words.hbmrateWrite (v : Word) : Laws.Words.Statement (.hbmrateWrite v) := fun _ => rfl
theorem Laws.Words.einjWrite (k : Nat) (v : Word) : Laws.Words.Statement (.einjWrite k v) := fun _ => rfl
theorem Laws.Words.registerWrite (f off : Nat) (v : List Byte) : Laws.Words.Statement (.registerWrite f off v) := fun _ => rfl
theorem Laws.Words.monitorSample (m : Readings) : Laws.Words.Statement (.monitorSample m) := fun _ => rfl
theorem Laws.Words.powerOverrun : Laws.Words.Statement (.powerOverrun) := fun _ => rfl
theorem Laws.Words.flowLoss : Laws.Words.Statement (.flowLoss) := fun _ => rfl
theorem Laws.Words.runnerPowerGate (r : Nat) : Laws.Words.Statement (.runnerPowerGate r) := fun _ => rfl
theorem Laws.Words.selfTestComplete (r : Nat) (pass : Bool) : Laws.Words.Statement (.selfTestComplete r pass) := fun _ => rfl
theorem Laws.Words.auditReplay (d k : Nat) : Laws.Words.Statement (.auditReplay d k) := fun _ => rfl
theorem Laws.Words.auditReplayComplete (d k : Nat) : Laws.Words.Statement (.auditReplayComplete d k) := fun _ => rfl
theorem Laws.Words.coldReset (b : BootImages) : Laws.Words.Statement (.coldReset b) := fun _ => rfl
theorem Laws.Words.firmwareRelease (flowOk : Bool) : Laws.Words.Statement (.firmwareRelease flowOk) := fun _ => rfl
theorem Laws.Words.hostCompletion (n : Nat) (ok : Bool) (data : List Byte) : Laws.Words.Statement (.hostCompletion n ok data) := fun _ => rfl
theorem Laws.Words.lockInterface (m : SpdmMsg) : Laws.Words.Statement (.lockInterface m) := fun _ => rfl
theorem Laws.Words.startInterface (m : SpdmMsg) : Laws.Words.Statement (.startInterface m) := fun _ => rfl
theorem Laws.Words.stopInterface (m : SpdmMsg) : Laws.Words.Statement (.stopInterface m) := fun _ => rfl
theorem Laws.Words.getDeviceInterfaceState (m : SpdmMsg) : Laws.Words.Statement (.getDeviceInterfaceState m) := fun _ => rfl
theorem Laws.Words.getDeviceInterfaceReport (m : SpdmMsg) : Laws.Words.Statement (.getDeviceInterfaceReport m) := fun _ => rfl
theorem Laws.Words.ideKeyManagement (k : IdeKm) : Laws.Words.Statement (.ideKeyManagement k) := fun _ => rfl
theorem Laws.Words.ideIntegrityFailure (n : Nat) : Laws.Words.Statement (.ideIntegrityFailure n) := fun _ => rfl
theorem Laws.Words.getVersion (m : SpdmMsg) : Laws.Words.Statement (.getVersion m) := fun _ => rfl
theorem Laws.Words.getCapabilities (m : SpdmMsg) : Laws.Words.Statement (.getCapabilities m) := fun _ => rfl
theorem Laws.Words.negotiateAlgorithms (m : SpdmMsg) : Laws.Words.Statement (.negotiateAlgorithms m) := fun _ => rfl
theorem Laws.Words.getDigests (m : SpdmMsg) : Laws.Words.Statement (.getDigests m) := fun _ => rfl
theorem Laws.Words.getCertificate (m : SpdmMsg) : Laws.Words.Statement (.getCertificate m) := fun _ => rfl
theorem Laws.Words.challenge (m : SpdmMsg) : Laws.Words.Statement (.challenge m) := fun _ => rfl
theorem Laws.Words.getMeasurements (m : SpdmMsg) : Laws.Words.Statement (.getMeasurements m) := fun _ => rfl
theorem Laws.Words.keyExchange (m : SpdmMsg) : Laws.Words.Statement (.keyExchange m) := fun _ => rfl
theorem Laws.Words.finish (m : SpdmMsg) : Laws.Words.Statement (.finish m) := fun _ => rfl
theorem Laws.Words.keyUpdate (m : SpdmMsg) : Laws.Words.Statement (.keyUpdate m) := fun _ => rfl
theorem Laws.Words.heartbeat (m : SpdmMsg) : Laws.Words.Statement (.heartbeat m) := fun _ => rfl
theorem Laws.Words.endSession (m : SpdmMsg) : Laws.Words.Statement (.endSession m) := fun _ => rfl
theorem Laws.Words.spdmUnsupportedRequest (m : SpdmMsg) : Laws.Words.Statement (.spdmUnsupportedRequest m) := fun _ => rfl
theorem Laws.Words.portTrained (n : Nat) (peer : Nat) : Laws.Words.Statement (.portTrained n peer) := fun _ => rfl
theorem Laws.Words.portDown (n : Nat) : Laws.Words.Statement (.portDown n) := fun _ => rfl
theorem Laws.Words.rigalIdentity (m : RigalMsg) : Laws.Words.Statement (.rigalIdentity m) := fun _ => rfl
theorem Laws.Words.rigalEncapsulationKey (m : RigalMsg) : Laws.Words.Statement (.rigalEncapsulationKey m) := fun _ => rfl
theorem Laws.Words.rigalCiphertext (m : RigalMsg) : Laws.Words.Statement (.rigalCiphertext m) := fun _ => rfl
theorem Laws.Words.rigalSignature (m : RigalMsg) : Laws.Words.Statement (.rigalSignature m) := fun _ => rfl
theorem Laws.Words.rigalRekey (m : RigalMsg) : Laws.Words.Statement (.rigalRekey m) := fun _ => rfl
theorem Laws.Words.leaseRequest (q : LeaseReq) : Laws.Words.Statement (.leaseRequest q) := fun _ => rfl
theorem Laws.Words.leaseReply (m : LeaseRep) (ok : Bool) : Laws.Words.Statement (.leaseReply m ok) := fun _ => rfl
theorem Laws.Words.softError (r : Nat) (replayOk : Bool) : Laws.Words.Statement (.softError r replayOk) := fun _ => rfl
theorem Laws.Words.peerNotice (q : PeerNote) : Laws.Words.Statement (.peerNotice q) := fun _ => rfl
theorem Laws.Words.functionEnable (f : Nat) (on : Bool) : Laws.Words.Statement (.functionEnable f on) := fun _ => rfl

end Sys2Proof
end

