-- ==== Sys2Proof/Tests/Slice0.lean ====
section
/-! SUPPORT. Tests: ill-formed terms, words written out from the encoding tables, single steps whose result the manual gives, and for
every statement with hypotheses a state and operands that meet them together. -/

/-! Each proof is checked before the next begins: with the whole package in one file, many proofs at once would each hold a thread's
stack while they wait for the kernel. -/
set_option Elab.async false

namespace Sys2Proof.Tests

open Sys2Proof
open Sys2Proof.Machine

/-! ### Helpers -/

/-- The guard that is always true. -/
def gt : Guard := { neg := false, p := 0 }
/-- Three register operands. -/
def r3 (sl : Slice) : R3 := { sl := sl, g := gt, d := 3, s1 := 1, s2 := 2 }
/-- Two register operands. -/
def r2 (sl : Slice) : R2 := { sl := sl, g := gt, d := 3, s1 := 1 }
/-- A running runner 0 of owner 3. -/
def w0 : Runner :=
  { Runner.reset 0 with
    owner := 3
    heatid := 7
    squad := some 1
    cx := { SliceX.reset with st := .run }
    ax := { SliceX.reset with st := .run } }
/-- A module of one running runner, in cycle 100. -/
def W : State := { State.reset with cycle := 100, seq := 5, runners := [w0] }
/-- The same with runner 0 changed. -/
def W.with (f : Runner → Runner) : State := { W with runners := [f w0] }
/-- With its leg's registers changed. -/
def legOf (s : State) (f : Leg → Leg) : State := { s with runners := s.runners.map fun x => { x with leg := f x.leg } }
def W.leg (f : Leg → Leg) : State := W.with fun x => { x with leg := f x.leg }
/-- With a register of the C slice changed. -/
def W.g (i : BitVec 5) (v : Word) : State := W.leg fun l => { l with g := vset l.g i v }
/-- With registers of the A slice changed. -/
def W.as (l : List (BitVec 5 × Word)) : State := W.leg fun z => { z with a := l.foldl (fun a p => vset a p.1 p.2) z.a }

/-- Some use makes the slot operation execute. -/
def Meets (i : Instr) (s : State) : Prop := ∃ u, Executes i s u
/-- The same without poison. -/
def MeetsClean (i : Instr) (s : State) : Prop := ∃ u, Executes i s u ∧ Unpoisoned s u
/-- The slot operation is reached with a false guard. -/
def MeetsFalse (i : Instr) (s : State) : Prop := ∃ u, Skipped i s u

def meetsB (i : Instr) (s : State) : Bool :=
  match instrUse s.me i with
  | some u => s.cur.st == .ok && u.bad.isNone && s.guardOf u && (s.earlyOf u true).isNone
  | none => false
def cleanB (i : Instr) (s : State) : Bool :=
  meetsB i s && match instrUse s.me i with
    | some u => u.reads.zipIdx.all fun p => !s.readPoison u.sl u.pos p.2 p.1
    | none => false
def falseB (i : Instr) (s : State) : Bool :=
  match instrUse s.me i with
  | some u => s.cur.st == .ok && u.bad.isNone && !s.guardOf u && (s.earlyOf u false).isNone
  | none => false

theorem meets_of {i : Instr} {s : State} (h : meetsB i s = true) : Meets i s := by
  unfold meetsB at h
  split at h
  · rename_i u hu
    simp only [Bool.and_eq_true, beq_iff_eq, Option.isNone_iff_eq_none] at h
    exact ⟨u, h.1.1.1, hu, h.1.1.2, h.1.2, h.2⟩
  · cases h
theorem clean_of {i : Instr} {s : State} (h : cleanB i s = true) : MeetsClean i s := by
  unfold cleanB at h
  obtain ⟨h1, h2⟩ := Bool.and_eq_true_iff.mp h
  obtain ⟨u, hu⟩ := meets_of h1
  refine ⟨u, hu, ?_⟩
  rw [hu.2.1] at h2
  intro p hp
  simpa using List.all_eq_true.mp h2 p hp
theorem false_of {i : Instr} {s : State} (h : falseB i s = true) : MeetsFalse i s := by
  unfold falseB at h
  split at h
  · rename_i u hu
    simp only [Bool.and_eq_true, beq_iff_eq, Option.isNone_iff_eq_none, Bool.not_eq_true'] at h
    exact ⟨u, h.1.1.1, hu, h.1.1.2, h.1.2, h.2⟩
  · cases h
theorem meets_all {l : List Instr} {s : State} (h : (l.all fun i => meetsB i s) = true) : ∀ i ∈ l, Meets i s :=
  fun i hi => meets_of (List.all_eq_true.mp h i hi)
theorem clean_all {l : List Instr} {s : State} (h : (l.all fun i => cleanB i s) = true) : ∀ i ∈ l, MeetsClean i s :=
  fun i hi => clean_of (List.all_eq_true.mp h i hi)
theorem false_all {l : List Instr} {s : State} (h : (l.all fun i => falseB i s) = true) : ∀ i ∈ l, MeetsFalse i s :=
  fun i hi => false_of (List.all_eq_true.mp h i hi)
/-- A next state was answered, and a property of it holds. -/
def nextIs (o : Out) (p : State → Bool) : Bool :=
  match o with
  | .next t => p t
  | _ => false
theorem wf_all {l : List Instr} {s : State} (h : (l.all fun i => i.wellFormed && meetsB i s) = true) :
    ∀ i ∈ l, i.wellFormed = true ∧ Meets i s := fun i hi =>
  have := Bool.and_eq_true_iff.mp (List.all_eq_true.mp h i hi)
  ⟨this.1, meets_of this.2⟩

/-- The operation executes, and the first register that it reads is poisoned. -/
def poisonedB (i : Instr) (s : State) : Bool :=
  meetsB i s && match instrUse s.me i with
    | some u => (u.reads[0]?).any fun d => s.readPoison u.sl u.pos 0 d
    | none => false
theorem poisoned_of {i : Instr} {s : State} (h : poisonedB i s = true) : ∃ u d, Executes i s u ∧ FirstPoisoned s u d := by
  unfold poisonedB at h
  obtain ⟨h1, h2⟩ := Bool.and_eq_true_iff.mp h
  obtain ⟨u, hu⟩ := meets_of h1
  rw [hu.2.1] at h2
  obtain ⟨d, hd, hp⟩ : ∃ d, u.reads[0]? = some d ∧ s.readPoison u.sl u.pos 0 d = true := by simpa [Option.any_eq_true] using h2
  exact ⟨u, d, hu, 0, hd, hp, fun k hk => absurd hk (Nat.not_lt_zero k)⟩
theorem poisoned_all {l : List Instr} {s : State} (h : (l.all fun i => poisonedB i s) = true) :
    ∀ i ∈ l, ∃ u d, Executes i s u ∧ FirstPoisoned s u d := fun i hi => poisoned_of (List.all_eq_true.mp h i hi)

/-! ### Well-formedness: a term that each check refuses -/

theorem test_ill_formed : ∀ i ∈ [
    Instr.extr { sl := .c, g := gt, d := 1, s1 := 2, pos := 60, len1 := 4 },
    .ins { sl := .a, g := gt, d := 1, s1 := 2, pos := 63, len1 := 1 },
    .lih { sl := .c, g := gt, d := 1, k := 6, imm := 0 },
    .lih { sl := .c, g := gt, d := 1, k := 5, imm := 16 },
    .csrr { g := gt, d := 1, n := 1 }, .csrw { g := gt, s1 := 1, n := 0x7FF }, .acsrr { g := gt, d := 1, n := 0 },
    .acsrw { g := gt, s1 := 1, n := 2 },
    .extrQ { g := gt, d := 1, s1 := 1, sel := 4 }, .shpr { g := gt, d := 1, s1 := 1, sel := 11 },
    .tstate { g := gt, d := 1, s1 := 1, sel := 10 }, .keyq { g := gt, d := 1, s1 := 1, sel := 8 },
    .vadd { v := .va, g := gt, d := 1, s1 := 2, s2 := 3, w := .w256, ty := .e4m3, rm := .rne },
    .vsub { v := .va, g := gt, d := 1, s1 := 2, s2 := 3, w := .w256, ty := .s8, rm := .rtz },
    .vaddsat { v := .va, g := gt, d := 1, s1 := 2, s2 := 3, w := .w256, ty := .f32, rm := .rne },
    .vmul { v := .va, g := gt, d := 1, s1 := 2, s2 := 3, w := .w256, ty := .s32, rm := .rne },
    .vmulhi { v := .va, g := gt, d := 1, s1 := 2, s2 := 3, w := .w256, ty := .z32, rm := .rne },
    .vmulhiz { v := .va, g := gt, d := 1, s1 := 2, s2 := 3, w := .w256, ty := .s32, rm := .rne },
    .vfma { v := .vb, g := gt, d := 1, s1 := 2, s2 := 3, t := 4, w := .w256, ty := .s32, rm := .rne },
    .vmin { v := .vb, g := gt, d := 1, s1 := 2, s2 := 3, w := .w256, ty := .f32, rm := .rup },
    .vcopysign { v := .vb, g := gt, d := 1, s1 := 2, s2 := 3, w := .w256, ty := .s32, rm := .rne },
    .vand { v := .vb, g := gt, d := 1, s1 := 2, s2 := 3, w := .w256, ty := .f32, rm := .rne },
    .vmov { v := .vb, g := gt, d := 1, s1 := 2, w := .w256, ty := .qs8, rm := .rne },
    .vabs { v := .vb, g := gt, d := 1, s1 := 2, w := .w256, ty := .z8, rm := .rne },
    .vnot { v := .vb, g := gt, d := 1, s1 := 2, w := .w256, ty := .f32, rm := .rne },
    .vsqrt { v := .vb, g := gt, d := 1, s1 := 2, w := .w256, ty := .s32, rm := .rne },
    .vmovFromLdq0 { v := .vb, g := gt, d := 1, w := .w256, ty := .qe4m3 },
    .vexp2 { v := .vb, g := gt, d := 1, s1 := 2, w := .w256, ty := .bf16, rm := .rne },
    .vcmp { v := .va, g := gt, d := 1, s1 := 2, t := 3, cc := .uno, w := .w256, ty := .s32 },
    .vsel { v := .va, g := gt, d := 1, s1 := 2, s2 := 3, t := 4, w := .w256, ty := .s32, rm := .sr },
    .vcvt { v := .va, g := gt, d := 1, s1 := 2, fmt := .qe4m3, w := .w256, ty := .f32, sat := false, rm := .rne },
    .vcvtef { v := .va, g := gt, d := 1, s1 := 2, t := 3, fmt := .s8, w := .w256, ty := .f32, rm := .rne },
    .vqnt { v := .va, g := gt, d := 1, s1 := 2, t := 3, fmt := .qe4m3, w := .w512, ty := .f32, rm := .rne },
    .vdqnt { v := .va, g := gt, d := 1, s1 := 2, t := 3, fmt := .qe4m3, w := .w1024, ty := .f32, rm := .sr },
    .vpacksp { v := .va, g := gt, d := 1, s1 := 2, t := 3, n := .n12, w := .w512, ty := .bf16 },
    .vred { v := .va, g := gt, d := 1, s1 := 2, t := 1, op := .and, w := .w512, ty := .f32, rm := .rne },
    .vscan { v := .va, g := gt, d := 1, s1 := 2, t := 2, op := .add, w := .w512, ty := .f32, rm := .rne },
    .vredr { v := .va, g := gt, d := 1, s1 := 2, t := 2, op := .add, w := .w512, ty := .f32, rm := .rup },
    .vperm { v := .va, g := gt, d := 1, s1 := 2, t := 2, w := .w512, ty := .e2m1 },
    .vli { v := .va, g := gt, d := 1, c := 0, w := .w512, ty := .e4m3 },
    .mma { g := gt, d := 0, s1 := 0, s2 := 1, fmt := .s16, hint := 0 },
    .mmasp { g := gt, d := 0, s1 := 0, s2 := 1, fmt := .f32, n := .n12 },
    .mmac { g := gt, d := 0, s1 := 0, s2 := 1, fmt := .z8, hint := 0, cseq := 0 },
    .acload { g := gt, ac := 0, tile := 0, rm := .rtz }, .acdrain { g := gt, ac := 0, tile := 0, rm := .sr },
    .acstain { g := gt, d := 0, all := true, row := 1 },
    .ldst { ag := .ag0, g := gt, d := 1, s1 := 2, s2 := 3, size := .w256, ldq1 := false, hint := 0 },
    .ldx { ag := .ag0, g := gt, s1 := 2, size := .w1024, ldq1 := false, hint := 0 },
    .stst { ag := .ag0, g := gt, d := 1, s1 := 2, s2 := 3, size := .w512 },
    .stx { ag := .ag0, g := gt, s1 := 2, size := .w256 },
    .amoVector { g := gt, w32 := false, scope := .die, res := false, s1 := 1, op := .cas, ord := .rlx },
    .lds { g := gt, w32 := false, scope := .die, res1 := false, s1 := 1, ord := .rel },
    .sts { g := gt, w32 := false, scope := .die, s1 := 1, s2 := 2, ord := .acq },
    .fence { g := gt, scope := .die, ord := .rlx }], i.wellFormed = false := by decide +kernel

/-! ### Words from the encoding tables (R41 to R52, R72 to R81) and from the manual's worked examples -/

/-- The words of R37 to R52 and of the worked examples of 02 to 09. -/
theorem test_words_x :
    decodeSlot .c 0 none 0x08061100 = .ok (.add (r3 .c)) ∧
    decodeSlot .c 0 none 0x70041110 = .ok (.cmp { sl := .c, g := gt, d := 2, s1 := 1, s2 := 2, cc := .ltS, w32 := false }) ∧
    decodeSlot .c 0 none 0x40084403 = .ok (.shri { sl := .c, g := gt, d := 4, s1 := 4, n := 3 }) ∧
    decodeSlot .c 0 none 0xB8007001 = .ok (.loopset { sl := .c, g := gt, s1 := 7, ds := 1 }) ∧
    decodeSlot .c 0 none 0xC80A3060 = .ok (.xtoa { g := gt, d := 5, s1 := 3 }) ∧
    decodeSlot .c 0 none 0xD00E0004 = .ok (.csrr { g := gt, d := 7, n := 4 }) ∧
    decodeSlot .c 0 none 0xF9000000 = .ok (.leg { sl := .c, e1 := 0, e2 := 0, e3 := 0 }) ∧
    decodeSlot .c 0 none 0 = .ok (.nop { sl := .c, pos := 0, g := gt }) := by decide +kernel
theorem test_words_vector :
    decodeSlot .c 1 (some 0x18) 0xC0041952 =
      .ok (.vqnt { v := .va, g := gt, d := 2, s1 := 1, t := 3, fmt := .qe4m3, w := .w1024, ty := .f32, rm := .rne }) ∧
    decodeSlot .c 1 none 0x880A53C0 = .ok (.vstain { v := .va, g := gt, d := 5, s1 := 5 }) ∧
    decodeSlot .c 1 none 0xE8047F52 = .ok (.vli { v := .va, g := gt, d := 2, c := 0xFE, w := .w1024, ty := .f32 }) := by decide +kernel
theorem test_words_press :
    decodeSlot .c 3 none 0x280400A8 = .ok (.mma { g := gt, d := 2, s1 := 0, s2 := 1, fmt := .bf16, hint := 0 }) ∧
    decodeSlot .c 3 none 0x08000000 = .ok (.mgclaim { g := gt, d := 0 }) ∧
    decodeSlot .c 3 none 0x18000004 = .ok (.mgfill { g := gt, d := 0, tile := 4 }) ∧
    decodeSlot .c 3 none 0x70000000 = .ok (.esync { g := gt }) := by decide +kernel
theorem test_words_a :
    decodeSlot .a 0 none 0xE8126002 = .ok (.qstat { g := gt, d := 9, q := .caq }) ∧
    decodeSlot .a 0 none 0xF00C4020 = .ok (.tstate { g := gt, d := 6, s1 := 4, sel := 0 }) ∧
    decodeSlot .a 1 none 0x080021B0 = .ok (.lda { ag := .ag0, g := gt, s1 := 2, s2 := 3, size := .z64, ldq1 := false, hint := 0 }) ∧
    decodeSlot .a 3 none 0x70004280 = .ok (.tdef { g := gt, s1 := 4, s2 := 5 }) ∧
    decodeSlot .a 3 none 0x88006382 = .ok (.pwlap { g := gt, s1 := 6, s2 := 7 }) := by decide +kernel
/-- Reserved encodings: MARK 110, an X major without a meaning, a width code 11, an AT major above 17, a format code above 22. -/
theorem test_reserved_words :
    decodeSlot .c 0 none 0xFE000000 = .error .mark ∧ decodeSlot .c 0 none 0xF0000000 = .error .major ∧
    decodeSlot .c 1 none 0x08000060 = .error .width ∧ decodeSlot .a 3 none 0x90000000 = .error .major ∧
    decodeSlot .c 3 none 0x2800005C = .error .format ∧ decodeSlot .c 0 none 0x00000001 = .error .unused := by decide +kernel
/-- The bytes of the bundle of R7: a header with MARK 001 and three NOPs. -/
theorem test_bundle_bytes :
    (bundleOfBytes [0, 0, 0, 0xF9, 0, 0, 0, 0, 0, 0, 0, 0, 0, 0, 0, 0]) = bundleOf 0xF9000000 0 0 0 := by decide +kernel

/-! ### Witnesses: the scalar slots -/

theorem wit_ScalarArithmetic : ∀ i ∈ [
    Instr.add (r3 .c), .add (r3 .a), .sub (r3 .c), .and (r3 .c), .or (r3 .c), .xor (r3 .c), .shl (r3 .c), .shr (r3 .c), .sar (r3 .c),
    .rol (r3 .c), .min (r3 .c), .max (r3 .a), .minz (r3 .c), .maxz (r3 .c), .mul (r3 .c), .mulh (r3 .c), .mulhz (r3 .c), .div (r3 .c),
    .divz (r3 .c), .rem (r3 .a), .remz (r3 .c), .mov (r2 .c), .not (r2 .c), .clz (r2 .c), .ctz (r2 .c), .popc (r2 .a), .bswap (r2 .c),
    .addi { sl := .c, g := gt, d := 3, s1 := 1, imm := 0xFFF }, .andi { sl := .c, g := gt, d := 3, s1 := 1, imm := 0xFFF },
    .ori { sl := .c, g := gt, d := 3, s1 := 1, imm := 0xFFF }, .xori { sl := .c, g := gt, d := 3, s1 := 1, imm := 0xFFF },
    .shli { sl := .c, g := gt, d := 3, s1 := 1, n := 63 }, .shri { sl := .c, g := gt, d := 3, s1 := 1, n := 63 },
    .sari { sl := .c, g := gt, d := 3, s1 := 1, n := 63 }, .extr { sl := .c, g := gt, d := 3, s1 := 1, pos := 0, len1 := 63 },
    .ins { sl := .c, g := gt, d := 3, s1 := 1, pos := 63, len1 := 0 }, .li { sl := .c, g := gt, d := 3, imm := 0x800 },
    .lih { sl := .c, g := gt, d := 3, k := 5, imm := 15 }, .sel { sl := .c, g := gt, d := 3, s1 := 1, s2 := 2, q := 4 },
    .pand (r3 .c), .por (r3 .c), .pxor (r3 .c), .pnot (r2 .c), .pmov (r2 .a)], i.wellFormed = true ∧ Meets i W := wf_all (by decide +kernel)
theorem wit_compares : ∀ i ∈ [
    Instr.cmp { sl := .c, g := gt, d := 2, s1 := 1, s2 := 2, cc := .geZ, w32 := true },
    .cmp { sl := .a, g := gt, d := 2, s1 := 1, s2 := 2, cc := .eq, w32 := false },
    .cmpi { sl := .c, g := gt, d := 2, s1 := 1, cc := .ltS, imm := 0x80 }], MeetsClean i W := clean_all (by decide +kernel)

/-- A register branch to an aligned target in g1, and an entry in CAQ for BRQ. -/
theorem wit_Branches :
    (∀ i ∈ [Instr.br { sl := .c, g := gt, off := 0x80000 }, .call { sl := .a, g := gt, off := 0x7FFFF },
      .chk { g := gt, file := .va, s1 := 31, off := 0x800 }], Meets i W) ∧
    MeetsClean (.brc { sl := .c, g := gt, cond := .lez, s1 := 1, off := 0x800 }) W ∧
    (∀ i ∈ [Instr.brr { sl := .c, g := gt, s1 := 1 }, .ret { sl := .c, g := gt, s1 := 1 }, .callr (r2 .c)], MeetsClean i (W.g 1 0x40)) ∧
    ((W.g 1 0x40).rd .c 0 0 1).toNat % 16 = 0 ∧
    Meets (.brq { g := gt, cond := .nez, off := 1 }) (W.leg fun l => { l with caq := [{ val := 9, due := 0, shown := true }] }) :=
  ⟨meets_all (by decide +kernel), clean_of (by decide +kernel), clean_all (by decide +kernel), by decide +kernel, meets_of (by decide +kernel)⟩
/-- LOOPSET, and LOOPB with lc = 0, lc = 1 and lc = 2. -/
theorem wit_Loops :
    MeetsClean (.loopset { sl := .c, g := gt, s1 := 7, ds := 7 }) W ∧
    Meets (.loopb { sl := .c, g := gt, off := 0xFFFFD }) W ∧ (W.me.st .c).lc = 0 ∧
    (let s := W.leg fun l => { l with c := { l.c with lc := 1 } }
     Meets (.loopb { sl := .c, g := gt, off := 0xFFFFD }) s ∧ (s.me.st .c).lc ≠ 0) ∧
    (let s := W.leg fun l => { l with s := { l.s with lc := 2 } }
     Meets (.loopb { sl := .a, g := gt, off := 0xFFFFD }) s ∧ (s.me.st .a).lc ≠ 0) :=
  ⟨clean_of (by decide +kernel), meets_of (by decide +kernel), by decide +kernel, ⟨meets_of (by decide +kernel), by decide +kernel⟩,
    ⟨meets_of (by decide +kernel), by decide +kernel⟩⟩
theorem wit_CopiesAndSystemRegisters :
    (∀ i ∈ [Instr.xtovVa { g := gt, d := 31, s1 := 1, e := 15 }, .xtovVb { g := gt, d := 0, s1 := 1, e := 0 },
      .vtoxVa { g := gt, d := 31, s1 := 1, e := 15 }, .vtoxVb { g := gt, d := 0, s1 := 1, e := 0 }, .vatovb { g := gt, d := 0, s1 := 1 },
      .vbtova { g := gt, d := 0, s1 := 1 }, .atox { g := gt, d := 31, s1 := 31 }, .csrr { g := gt, d := 7, n := 4 },
      .csrr { g := gt, d := 7, n := 0x011 }, .acsrr { g := gt, d := 7, n := 0x010 }, .acsrr { g := gt, d := 7, n := 0x011 }], Meets i W) ∧
    ∀ i ∈ [Instr.xtoa { g := gt, d := 5, s1 := 3 }, .csrw { g := gt, s1 := 1, n := 0 }, .acsrw { g := gt, s1 := 1, n := 1 }], MeetsClean i W :=
  ⟨meets_all (by decide +kernel), clean_all (by decide +kernel)⟩

/-! ### Witnesses: queues and control -/

/-- Every general and vector register poisoned. -/
def poisonS : State := W.leg fun l =>
  { l with gp := 0xFFFFFFFF, va := { l.va with poison := 0xFFFFFFFF }, vb := { l.vb with poison := 0xFFFFFFFF } }
/-- Each operation of a statement with a clause about POISON_USE, at a poisoned register. -/
theorem wit_poison : ∀ i ∈ [
    Instr.cmp { sl := .c, g := gt, d := 3, s1 := 1, s2 := 2, cc := .eq, w32 := false }, .cmpi { sl := .c, g := gt, d := 3, s1 := 1, cc := .ltZ, imm := 5 },
    .brc { sl := .c, g := gt, s1 := 1, cond := .eqz, off := 1 }, .loopset { sl := .c, g := gt, s1 := 1, ds := 1 },
    .brr { sl := .c, g := gt, s1 := 1 }, .ret { sl := .c, g := gt, s1 := 1 }, .callr { sl := .c, g := gt, d := 15, s1 := 1 },
    .xtoa { g := gt, d := 5, s1 := 3 }, .csrw { g := gt, s1 := 1, n := 0 }, .pushc { g := gt, s1 := 3 }, .vpushSdq { v := .va, g := gt, s1 := 3 },
    .vpushIxq { v := .vb, g := gt, s1 := 3 }, .vseedw { v := .va, g := gt, s1 := 1 },
    .vcmp { v := .va, g := gt, d := 3, s1 := 1, t := 2, cc := .eq, w := .w1024, ty := .f32 }],
    ∃ u d, Executes i poisonS u ∧ FirstPoisoned poisonS u d := poisoned_all (by decide +kernel)
/-- A register branch to an address one short of, and one past, a bundle. -/
theorem wit_misaligned : ∀ x ∈ [(15 : Word), 17], ∀ i ∈ [
    Instr.brr { sl := .c, g := gt, s1 := 1 }, .ret { sl := .c, g := gt, s1 := 1 }, .callr { sl := .c, g := gt, d := 15, s1 := 1 }],
    Meets i (W.g 1 x) ∧ ((W.g 1 x).rd .c 0 0 1).toNat % 16 ≠ 0 := fun x hx => by
  simp only [List.mem_cons, List.not_mem_nil, or_false] at hx
  rcases hx with rfl | rfl <;> exact fun i hi => ⟨meets_all (by decide +kernel) i hi, by decide +kernel⟩

/-- A filled entry. -/
def filledE : LdqE := { reserved 1 none false with st := .filled, data := 5 }
theorem wit_QueuePops :
    (let s := W.leg fun l => { l with ldq0 := [filledE] }
     s.me.leg.ldq0 = [filledE] ∧ filledE.st = .filled ∧ filledE.ue = false ∧ Meets (.movFromLdq0 { g := gt, d := 3 }) s ∧
       Meets (.vmovFromLdq0 { v := .va, g := gt, d := 3, w := .w512, ty := .f32 }) s) ∧
    (let s := W.leg fun l => { l with ldq1 := [filledE] }
     s.me.leg.ldq1 = [filledE] ∧ Meets (.movFromLdq1 { g := gt, d := 0 }) s ∧
       Meets (.vmovFromLdq1 { v := .vb, g := gt, d := 31, w := .w1024, ty := .s8 }) s) ∧
    (let s := W.leg fun l => { l with acq := [{ val := 1, due := 0, shown := true }] }
     s.me.leg.acq = [{ val := 1, due := 0, shown := true }] ∧ Meets (.popa { g := gt, d := 3 }) s) :=
  ⟨⟨by decide +kernel, rfl, rfl, meets_of (by decide +kernel), meets_of (by decide +kernel)⟩,
    ⟨by decide +kernel, meets_of (by decide +kernel), meets_of (by decide +kernel)⟩, ⟨by decide +kernel, meets_of (by decide +kernel)⟩⟩
/-- A head that failed with BOUNDS, one with MISALIGNED, and one with an uncorrectable error. -/
theorem wit_PopStops : ∀ e ∈ [{ filledE with st := .fault, cause := 0x20 }, { filledE with st := .fault, cause := 0x02 }, { filledE with ue := true }],
    let s := W.leg fun l => { l with ldq0 := [e], ldq1 := [e] }
    (∀ i ∈ [Instr.movFromLdq0 { g := gt, d := 3 }, .movFromLdq1 { g := gt, d := 3 }, .vmovFromLdq0 { v := .va, g := gt, d := 3, w := .w512, ty := .f32 },
      .vmovFromLdq1 { v := .vb, g := gt, d := 31, w := .w1024, ty := .s8 }], Meets i s) ∧ ∀ one, s.me.leg.ldq one = [e] := fun e he => by
  simp only [List.mem_cons, List.not_mem_nil, or_false] at he
  rcases he with rfl | rfl | rfl <;> exact ⟨meets_all (by decide +kernel), by decide +kernel⟩
/-- The pushes, QDRAIN of both queues, and QSTAT of each queue. -/
theorem wit_QueuePushes :
    (∀ i ∈ [Instr.pushc { g := gt, s1 := 3 }, .vpushSdq { v := .va, g := gt, s1 := 3 }, .vpushIxq { v := .vb, g := gt, s1 := 3 }], MeetsClean i W) ∧
    (∀ i ∈ [Instr.qpush { g := gt, s1 := 3 }, .qdrain { g := gt, ldq1 := false }, .qdrain { g := gt, ldq1 := true },
      .qstat { g := gt, d := 9, q := .laq }, .qstat { g := gt, d := 9, q := .ldq1 }, .qstat { g := gt, d := 9, q := .caq },
      .qstat { g := gt, d := 9, q := .acq }], Meets i W) ∧ ∀ q ∈ allQ, W.me.occPush q < 2 ^ 8 :=
  ⟨clean_all (by decide +kernel), meets_all (by decide +kernel), by decide +kernel⟩

def hd (sl : Slice) : HdrO := { sl := sl, e1 := 0, e2 := 0, e3 := 0 }
theorem wit_ControlAndMarks :
    (∀ i ∈ [Instr.nop { sl := .c, pos := 3, g := gt }, .header (hd .c), .hint (hd .a), .wait { sl := .c, g := gt, n := 0xFFF },
      .done { sl := .c, g := gt }, .done { sl := .a, g := gt }, .preemptAck { g := gt }, .exposed (hd .c), .interlocked (hd .a), .leg (hd .c),
      .exchange (hd .a), .patch (hd .c)], Meets i W) ∧ NoPressException W ∧ W.cur.reent = false ∧ (W.me.st .c).marked = false ∧
    (W.me.st .a).marked = false ∧ W.me.saq = [] ∧ W.me.exchAt = none ∧ W.me.settled = true ∧ W.me.hamper = [] ∧ W.squadSize W.me ≤ 1 :=
  ⟨meets_all (by decide +kernel), rfl, rfl, by decide +kernel, by decide +kernel, rfl, rfl, by decide +kernel, rfl, by decide +kernel⟩
/-- A store of one element. -/
def sta0 : SaqE :=
  { id := 1, op := .sta, size := .z64, base := 0, stride := 0, idx := 0, addrs := [0x1000], leg := 0, stamp := 0, issue := 90 }
/-- A squad of the heat of runner 0. -/
def sq (rs : List Nat) : Squad :=
  { id := 1, heat := 7, owner := 3, level := 0, sqn := 0, nrun := rs.length, runners := rs, state := .running, at_ := 0, quantum := 0,
    request := none, exch := none, hold := false, near := false, recalled := false, srs := 0, vatGen := false, vatSwept := 0 }
/-- Marks with a store unmatched, in a squad of two, and with a next patch. -/
theorem wit_ControlAndMarks2 :
    (let s := W.with fun x => { x with saq := [sta0] }
     Meets (.leg (hd .c)) s ∧ s.cur.reent = false ∧ (s.me.st .c).marked = false ∧ s.me.saq ≠ []) ∧
    (let s := { W with fw := { W.fw with squads := [sq [0, 1]] } }
     Meets (.exchange (hd .c)) s ∧ s.cur.reent = false ∧ (s.me.st .c).marked = false ∧ s.me.exchAt = none ∧ s.me.settled = true ∧
       s.me.hamper = [] ∧ 1 < s.squadSize s.me) ∧
    (let s := W.with fun x => x.modX .c fun y => { y with im := { y.im with tab := [(0, { len := 1, next := some 5 }), (5, { len := 4096, next := none })] } }
     Meets (.patch (hd .c)) s ∧ s.cur.reent = false ∧ (s.me.st .c).marked = false ∧
       aget (s.me.sx .c).im.tab (bits s.cur.pc.toNat 16 6) = some { len := 1, next := some 5 }) ∧
    (let s := W.leg fun l => { l with c := { l.c with sw := 4 } }
     Meets (.interlocked (hd .c)) s ∧ (s.me.st .c).exposed = true ∧ s.me.engineIdle .c = true) :=
  ⟨⟨meets_of (by decide +kernel), rfl, by decide +kernel, by decide +kernel⟩,
    ⟨meets_of (by decide +kernel), rfl, by decide +kernel, rfl, by decide +kernel, rfl, by decide +kernel⟩,
    ⟨meets_of (by decide +kernel), rfl, by decide +kernel, by decide +kernel⟩,
    ⟨meets_of (by decide +kernel), by decide +kernel, by decide +kernel⟩⟩

/-- TRAP, HALT, RWND, and RFT inside and outside a handler. -/
theorem wit_TrapHaltRewindReturn :
    (∀ i ∈ [Instr.trap { sl := .c, g := gt, code := 31 }, .trap { sl := .a, g := gt, code := 0 }, .halt { sl := .a, g := gt }, .rwnd { g := gt },
      .rft { sl := .c, g := gt }], Meets i W) ∧ W.me.saq = [] ∧ (W.me.st .c).hnd = false ∧
    (let s := W.leg fun l => { l with c := l.c.withHnd true }
     Meets (.rft { sl := .c, g := gt }) s ∧ (s.me.st .c).hnd = true ∧ (s.me.sx (otherSlice .c)).st ≠ .trapHeld) ∧
    (let s := W.with fun x => { x with
       leg := { x.leg with c := x.leg.c.withHnd true }
       ax := { x.ax with st := .trapHeld, vector := some 0x400,
                         trap := some { cause := 9, detail := 0, slot := 0, resume := 1, xaddr := 0, freeze := false } } }
     Meets (.rft { sl := .c, g := gt }) s ∧ (s.me.st .c).hnd = true ∧ (s.me.sx (otherSlice .c)).st = .trapHeld ∧
       (s.me.sx (otherSlice .c)).vector = some 0x400 ∧ (s.me.st (otherSlice .c)).done = false) :=
  ⟨meets_all (by decide +kernel), rfl, by decide +kernel, ⟨meets_of (by decide +kernel),
    by decide +kernel⟩, meets_of (by decide +kernel), by decide +kernel⟩

/-! ### Witnesses: the vector slots -/

def v3 (ty : Fmt) : V3 := { v := .va, g := gt, d := 3, s1 := 1, s2 := 2, w := .w1024, ty := ty, rm := .rne }
def v4 : V4 := { v := .vb, g := gt, d := 3, s1 := 1, s2 := 2, t := 4, w := .w256, ty := .f32, rm := .rne }
def v2 (ty : Fmt) : V2 := { v := .vb, g := gt, d := 3, s1 := 1, w := .w512, ty := ty, rm := .rne }
def vp (ty : Fmt) : VPermO := { v := .va, g := gt, d := 3, s1 := 1, t := 2, w := .w1024, ty := ty }
theorem fpQuiet_of {x : Runner} (h : NoFpTraps x) (n : Nat) (r : Nat → FRes) : FpQuiet x n r := by
  rcases h with h | ⟨h1, h2, h3⟩
  · exact .inl h
  · exact .inr fun k _ => by simp [h1, h2, h3]
/-- No class is enabled in `W`, and every vector operation executes there: the hypotheses of the statements about the vector slots. -/
theorem wit_Vector : NoFpTraps W.me ∧ ∀ i ∈ [
    Instr.vadd (v3 .s8), .vaddsat (v3 .z64), .vsub (v3 .s32), .vsubsat (v3 .s16), .vmullo (v3 .s64), .vmulhi (v3 .s32), .vmulhiz (v3 .z32),
    .vmin (v3 .z8), .vmax (v3 .s8), .vavg (v3 .s16), .vand (v3 .s8), .vor (v3 .s64), .vxor (v3 .z8), .vshl (v3 .s8), .vshr (v3 .z8),
    .vsar (v3 .s8), .vcopysign (v3 .f64), .vsel v4, .vabs (v2 .s8), .vabs (v2 .f32), .vneg (v2 .s8), .vneg (v2 .bf16), .vnot (v2 .z8),
    .vpopc (v2 .z64), .vclz (v2 .z64), .vmov (v2 .f32), .vli { v := .va, g := gt, d := 3, c := 0x200, w := .w256, ty := .s8 },
    .vstain { v := .va, g := gt, d := 3, s1 := 1 }, .vclean { v := .va, g := gt, d := 3, s1 := 1 }, .vstst { v := .vb, g := gt, d := 3, s1 := 1 },
    .vseedr { v := .vb, g := gt, d := 3 },
    .vadd (v3 .f64), .vadd { v3 .f32 with rm := .sr }, .vsub (v3 .bf16), .vmul (v3 .f16), .vdiv (v3 .f32), .vmin (v3 .f32), .vmax (v3 .f32),
    .vfma v4, .vfms v4, .vfnma v4, .vsqrt (v2 .f32), .vexp2 (v2 .f32), .vlog2 (v2 .f32), .vrcp (v2 .f32), .vrsq (v2 .f32), .vsin (v2 .f32),
    .vcos (v2 .f32), .vtanh (v2 .f32),
    .vcmpm { v := .va, g := gt, d := 3, s1 := 1, t := 2, cc := .uno, w := .w1024, ty := .f32 },
    .vperm (vp .s8), .vshuf (vp .s8), .vbcast (vp .s64), .vext (vp .s64), .vins (vp .s8), .vrot (vp .s16), .vcompress (vp .s32), .vexpand (vp .s8),
    .vzip (vp .s8), .vunzip (vp .s8),
    .vcvt { v := .va, g := gt, d := 3, s1 := 1, fmt := .e2m1, w := .w256, ty := .f32, sat := true, rm := .rne },
    .vcvtef { v := .va, g := gt, d := 3, s1 := 1, t := 4, fmt := .bf16, w := .w1024, ty := .f32, rm := .rne },
    .vqnt { v := .va, g := gt, d := 3, s1 := 1, t := 4, fmt := .qe4m3, w := .w1024, ty := .f32, rm := .rne },
    .vdqnt { v := .va, g := gt, d := 3, s1 := 1, t := 4, fmt := .qe2m1, w := .w1024, ty := .f32, rm := .rne },
    .vpacksp { v := .va, g := gt, d := 3, s1 := 1, t := 4, n := .n12, w := .w1024, ty := .bf16 },
    .vred { v := .va, g := gt, d := 3, s1 := 1, t := 3, op := .add, w := .w1024, ty := .f32, rm := .rne },
    .vscan { v := .va, g := gt, d := 3, s1 := 1, t := 3, op := .max, w := .w1024, ty := .s8, rm := .rne },
    .vredr { v := .va, g := gt, d := 3, s1 := 31, t := 31, op := .add, w := .w1024, ty := .f32, rm := .rne },
    .vredr { v := .va, g := gt, d := 30, s1 := 0, t := 31, op := .min, w := .w1024, ty := .f32, rm := .rne }],
    i.wellFormed = true ∧ Meets i W :=
  ⟨.inr (by decide +kernel), wf_all (by decide +kernel)⟩
theorem wit_VectorCompares : (Instr.vcmp { v := .va, g := gt, d := 3, s1 := 1, t := 2, cc := .eq, w := .w1024, ty := .f32 }).wellFormed = true ∧
    MeetsClean (.vcmp { v := .va, g := gt, d := 3, s1 := 1, t := 2, cc := .eq, w := .w1024, ty := .f32 }) W ∧
    MeetsClean (.vseedw { v := .va, g := gt, s1 := 1 }) W := ⟨by decide +kernel, clean_of (by decide +kernel), clean_of (by decide +kernel)⟩
/-- A finite number, and one nearest to it in f32. -/
theorem wit_ExactResultsRoundedOnce :
    isFloat .f32 = true ∧ 0 < 5 ∧ (roundTo .f32 .rne false 0 false 5 (-1)).ovf = false ∧ (0x40200000 : Nat) < 2 ^ fmtBits .f32 ∧
    (decodeF .f32 0x40200000).finite = true := by decide +kernel
theorem real_num {v : FV} {n : Bool} {m : Nat} {e : Int} {x : ℝ} (h : v = .num n m e) (hx : x = (if n then -1 else 1) * (m : ℝ) * 2 ^ e) :
    v.IsReal x := by
  subst h
  refine ⟨rfl, hx.trans ?_⟩
  cases n <;> simp [FV.toRat]
/-- The numbers 2, −2, 0 and 1/2 of f32 and of e4m3, and the integers 2 and −1 of s8: whole numbers, powers of two, of every sign. -/
theorem wit_realNumbers :
    (decodeF .f32 0x40000000).IsReal 2 ∧ (decodeF .f32 0xC0000000).IsReal (-2) ∧ (decodeF .f32 0).IsReal 0 ∧
      (decodeF .f32 0x3F000000).IsReal (1 / 2) ∧
    (valueOf .e4m3 0x40).IsReal 2 ∧ (valueOf .s8 2).IsReal 2 ∧ (valueOf .s8 0xFF).IsReal (-1) ∧ ((2 : ℝ) = (2 : Int)) ∧ ((2 : ℝ) = 2 ^ (1 : Int)) :=
  ⟨real_num (n := false) (m := 2 ^ 23) (e := -22) (by decide +kernel) (by norm_num),
    real_num (n := true) (m := 2 ^ 23) (e := -22) (by decide +kernel) (by norm_num),
    real_num (n := false) (m := 0) (e := -149) (by decide +kernel) (by norm_num),
    real_num (n := false) (m := 2 ^ 23) (e := -24) (by decide +kernel) (by norm_num),
    real_num (n := false) (m := 8) (e := -2) (by decide +kernel) (by norm_num),
    real_num (n := false) (m := 2) (e := 0) (by decide +kernel) (by norm_num),
    real_num (n := true) (m := 1) (e := 0) (by decide +kernel) (by norm_num), by norm_num, by norm_num⟩
/-- Two finite products; the formats and bounds of the other clauses. -/
theorem wit_exactBlocks :
    (let a : List FV := [.num false 3 0, .num true 1 (-1)]
     a.length = a.length ∧ (∀ v ∈ a ++ a, v.finite = true) ∧ a ≠ []) ∧ isFloat (tagFmt .f32) = true ∧ isFloat .bf16 = true ∧ Fmt.isI .s8 = true ∧
    (255 : Nat) < 2 ^ fmtBits .s8 ∧ (2 ^ 32 - 1 : Nat) < 2 ^ 32 := by decide +kernel
/-- Elements 3 of f32 registers 1 and 2 of VA; the three classes enabled and quarantine off. -/
def F (x y : Nat) : State := W.leg fun l =>
  { l with
    c := { l.c with sw := 0x704 }
    va := { l.va with d := vset (vset l.va.d 1 (BitVec.ofNat 1024 (x * 2 ^ 96))) 2 (BitVec.ofNat 1024 (y * 2 ^ 96)) } }
def fAt (f : Fmt → Rm → Nat → Nat → Nat → FRes) (s : State) (k : Nat) : FRes :=
  f .f32 .rne 0 (elemAt (s.vsrc .va 0 1) 32 k) (elemAt (s.vsrc .va 1 2) 32 k)
/-- +∞ + −∞ and 2^127 + 2^127 as element 3: INVALID and OVERFLOW; the other elements are 0 + 0. -/
theorem wit_FloatTraps :
    (let s := F 0x7F800000 0xFF800000
     Meets (.vadd (v3 .f32)) s ∧ s.me.quar = false ∧ s.me.fei = true ∧ (fAt fAdd s 3).inv = true ∧ ∀ j < 3, (fAt fAdd s j).inv = false) ∧
    (let s := F 0x7F000000 0x7F000000
     Meets (.vadd (v3 .f32)) s ∧ s.me.quar = false ∧ s.me.feo = true ∧ (fAt fAdd s 3).ovf = true ∧ (∀ j < 32, (fAt fAdd s j).inv = false) ∧
       (∀ j < 32, (fAt fAdd s j).dz = false) ∧ ∀ j < 3, (fAt fAdd s j).ovf = false) :=
  ⟨⟨meets_of (by decide +kernel), by decide +kernel⟩, meets_of (by decide +kernel), by decide +kernel⟩
/-- Products: 0 × ∞ and 2^127 × 2^127 as element 3. -/
theorem wit_FloatTraps_mul :
    (let s := F 0 0x7F800000
     Meets (.vmul (v3 .f32)) s ∧ s.me.quar = false ∧ s.me.fei = true ∧ (fAt fMul s 3).inv = true ∧ ∀ j < 3, (fAt fMul s j).inv = false) ∧
    (let s := F 0x7F000000 0x7F000000
     Meets (.vmul (v3 .f32)) s ∧ s.me.feo = true ∧ (fAt fMul s 3).ovf = true ∧ (∀ j < 32, (fAt fMul s j).inv = false) ∧
       (∀ j < 32, (fAt fMul s j).dz = false) ∧ ∀ j < 3, (fAt fMul s j).ovf = false) :=
  ⟨⟨meets_of (by decide +kernel), by decide +kernel⟩, meets_of (by decide +kernel), by decide +kernel⟩
/-- A quotient: every element is 0 ÷ 0 but with FEI clear and FEZ set, 1 ÷ 0 as element 3 meets DIVZERO first there. -/
theorem wit_FloatTraps_div :
    (let s := legOf (F 0x3F800000 0) fun l => { l with c := { l.c with sw := 0x204 } }
     Meets (.vdiv (v3 .f32)) s ∧ s.me.quar = false ∧ s.me.fei = false ∧ s.me.fez = true ∧ (fAt fDiv s 3).dz = true ∧
       ∀ j < 3, (fAt fDiv s j).dz = false) ∧
    (let s := F 0x3F800000 0
     Meets (.vdiv (v3 .f32)) s ∧ s.me.fei = true ∧ (fAt fDiv s 0).inv = true) :=
  ⟨⟨meets_of (by decide +kernel), by decide +kernel⟩, meets_of (by decide +kernel), by decide +kernel⟩

/-! ### Witnesses: tables, the Press and the address slots -/

def tl (f : Fmt) (rows pitch : Nat) (st : TState) : Tile :=
  { stain := 0, base := 0, pitch := pitch, rows := rows, fmt := f, rmap := false, state := st, rdr := 0, resv := false }
def ex (v : Nat) (so p : Bool) : Extent := { pbase := v + 0x100000, len := 0x4000, vbase := v, p := p, so := so, w := true, r := true }
def mg (f : Fmt) (st : MgState) : MgSlot := { MgSlot.reset with st := st, fmt := f, k := 64, rows := 32 }
/-- Runner 0 with extents at 0x10000 (plain), 0x20000 (strong) and 0x30000 (not present), tiles and Mangle slots. -/
def w1 : Runner :=
  { w0 with
    extents := [(0, ex 0x10000 false true), (1, ex 0x20000 true true), (2, ex 0x30000 false false)]
    tiles := [(0, tl .f32 32 128 .empty), (1, tl .f32 32 128 .ready), (2, tl .s8 32 64 .ready), (3, tl .bf16 4 24 .ready),
      (4, tl .z8 4 6 .ready), (5, tl .f64 32 256 .ready), (6, tl .f32 2 128 .ready), (7, tl .s32 32 128 .ready)]
    tubWin := { first := 0, count := 1, base := 0, size := 4096 }
    shapes := [(5, (List.replicate 80 0).set 11 1)]
    press := ((Press.reset.modSlot 1 fun _ => mg .s8 .empty).modSlot 2 fun _ => mg .s8 .ready).modSlot 3 fun _ => mg .s8 .ready }
/-- Registers of the A slice set, beside a state of runner 0. -/
def X (l : List (BitVec 5 × Word)) : State := { W with runners := [{ w1 with leg := { w1.leg with a := l.foldl (fun a p => vset a p.1 p.2) w1.leg.a } }] }
def tw (n : Nat) : TileId := { lvl := .basin, idx := n }
/-- An entry as HasBtile and NamesTile ask for it. -/
theorem names {s : State} {n : Nat} {i : RegIx} {w : TileId} {e : Tile}
    (h : (s.me.tileId (s.atOp n i) == some w && s.tileSeen s.cur.run w == some e && s.tile s.cur.run w == some e && !e.resv) = true) :
    NamesTile s n i w e := by
  simpa [NamesTile, and_assoc] using h
theorem hasRunner_X (l : List (BitVec 5 × Word)) : HasRunner (X l) 0 := ⟨_, List.mem_singleton.mpr rfl, rfl⟩

theorem noPress {s : State} (h : s.me.press.pend = false) : NoPressException s := h

def qo (n : BitVec 4) : QueryO := { g := gt, d := 3, s1 := 1, sel := n }
theorem wit_TableQueries :
    (∀ n ∈ [0, 7], Meets (.tstate (qo n)) (X [(1, 255)])) ∧ (X [(1, 255)]).me.tileId ((X [(1, 255)]).rd .a 0 0 1) = some (tw 255) ∧
    Meets (.tstate (qo 7)) (X [(1, 1)]) ∧ (X [(1, 1)]).tileSeen (X [(1, 1)]).cur.run (tw 1) = some (tl .f32 32 128 .ready) ∧
    (∀ n ∈ [8, 9], Meets (.tstate (qo n)) (X [])) ∧ (∀ n ∈ [0, 10], Meets (.shpr (qo n)) (X [(1, 5)])) ∧
    (∀ n ∈ [1, 3], Meets (.extrQ (qo n)) (X [(1, 15)]) ∧ Meets (.extrQ (qo n)) (X [(1, 0)])) ∧
    (let s := X [(1, 0x13FFF)]
     Meets (.extrQ (qo 0)) s ∧ (s.rd .a 0 0 1).toNat = 0x13FFF ∧ aget s.me.extents 0 = some (ex 0x10000 false true)) ∧
    (∀ n ∈ [0, 1, 2, 4, 7], Meets (.keyq (qo n)) (X [])) ∧ (X []).me.atH = false ∧ (X []).me.owner ≤ 1024 :=
  ⟨fun n h => meets_of (List.all_eq_true.mp (by decide +kernel : ([0, 7].all fun n => meetsB (.tstate (qo n)) (X [(1, 255)])) = true) n h),
    by decide +kernel, meets_of (by decide +kernel), by decide +kernel,
    fun n h => meets_of (List.all_eq_true.mp (by decide +kernel : ([8, 9].all fun n => meetsB (.tstate (qo n)) (X [])) = true) n h),
    fun n h => meets_of (List.all_eq_true.mp (by decide +kernel : ([0, 10].all fun n => meetsB (.shpr (qo n)) (X [(1, 5)])) = true) n h),
    fun n h => ⟨meets_of (List.all_eq_true.mp (by decide +kernel : ([1, 3].all fun n => meetsB (.extrQ (qo n)) (X [(1, 15)])) = true) n h),
      meets_of (List.all_eq_true.mp (by decide +kernel : ([1, 3].all fun n => meetsB (.extrQ (qo n)) (X [(1, 0)])) = true) n h)⟩,
    ⟨meets_of (by decide +kernel), by decide +kernel, by decide +kernel⟩,
    fun n h => meets_of (List.all_eq_true.mp (by decide +kernel : ([0, 1, 2, 4, 7].all fun n => meetsB (.keyq (qo n)) (X [])) = true) n h),
    by decide +kernel, by decide +kernel⟩
theorem wit_MangleSlots :
    (∀ i ∈ [Instr.mgclaim { g := gt, d := 0 }, .mgrel { g := gt, d := 1 }, .mgrel { g := gt, d := 2 }, .mgfill { g := gt, d := 1, tile := 2 },
      .mgspfill { g := gt, d := 2, tile := 3, mask := 4, n := .n12 }], Meets i (X [])) ∧
    NoPressException (X []) ∧ (X []).me.saq = [] ∧ ((X []).me.press.slot 0).st = .free ∧ ((X []).me.press.slot 1).st = .empty ∧
    ((X []).me.press.slot 2).st = .ready ∧ ((X []).me.press.slot 2).rd = 0 ∧
    kOf .s8 64 ≠ 0 ∧ (X []).me.press.fq.length < 4 ∧
    spBad (tl .bf16 4 24 .ready) (tl .z8 4 6 .ready) .n12 = false ∧ (X []).HasBtile 2 (tl .s8 32 64 .ready) ∧
    (X []).HasBtile 3 (tl .bf16 4 24 .ready) ∧ (X []).HasBtile 4 (tl .z8 4 6 .ready) :=
  ⟨meets_all (by decide +kernel), noPress (by decide +kernel), by decide +kernel, by decide +kernel, by decide +kernel,
    by decide +kernel, by decide +kernel,
    by decide +kernel, by decide +kernel, by decide +kernel, ⟨by decide +kernel, by decide +kernel⟩, ⟨by decide +kernel, by decide +kernel⟩,
    ⟨by decide +kernel, by decide +kernel⟩⟩
/-- MMA, MMASP and MMAC on slots 2 and 3, and the accumulator operations; the banks are ZERO. -/
theorem wit_PressIssue :
    (∀ i ∈ [Instr.mma { g := gt, d := 7, s1 := 2, s2 := 3, fmt := .s8, hint := 3 }, .mmac { g := gt, d := 7, s1 := 2, s2 := 3, fmt := .s8, hint := 0, cseq := 0x1B },
      .acz { g := gt, d := 7 }, .acload { g := gt, ac := 3, tile := 5, rm := .rne }, .acload { g := gt, ac := 7, tile := 1, rm := .rne },
      .acdrain { g := gt, ac := 7, tile := 0, rm := .rne }, .acscale { g := gt, ac := 7, tile := 6, rm := .rne },
      .acstain { g := gt, d := 7, all := false, row := 31 }, .acclean { g := gt, d := 0, all := true, row := 0 }], Meets i (X [])) ∧
    NoPressException (X []) ∧ (X []).me.press.cq.length < 8 ∧
    (let a := (X []).me.press.slot 2
     a.st = .ready ∧ a.fmt = .s8 ∧ a.spn = none ∧ a.k = 64 ∧ (X []).me.press.slot 3 = a) ∧
    (∀ b ∈ banksOf (accTag .s8) 7, ((X []).me.press.bank b).tag = .zero) ∧ loadTag .f64 = some .f64 ∧ loadTag .f32 = some .f32 ∧
    rowBytes .f64 32 ≤ 256 ∧ rowBytes .f32 32 ≤ 128 ∧ (X []).me.press.tagOk .f64 3 = true ∧ (X []).me.press.tagOk .f32 7 = true ∧
    (X []).me.press.drainTag .f32 7 = some .zero ∧ (X []).me.press.scaleTag .f32 7 = some .zero :=
  ⟨meets_all (by decide +kernel), noPress (by decide +kernel), by decide +kernel⟩
/-- MMASP: its right slot holds a sparse fill. -/
def XS : State := { W with runners := [{ w1 with press := w1.press.modSlot 3 fun m => { m with spn := some .n16 } }] }
theorem wit_PressIssue_sparse :
    Meets (.mmasp { g := gt, d := 0, s1 := 2, s2 := 3, fmt := .s8, n := .n16 }) XS ∧ (XS.me.press.slot 3).spn = some .n16 ∧
      (XS.me.press.slot 2).spn = none ∧ (XS.me.press.slot 3).k = (XS.me.press.slot 2).k := ⟨meets_of (by decide +kernel), by decide +kernel⟩
theorem wit_EngineSyncAndStatus :
    (∀ i ∈ [Instr.esync { g := gt }, .estatPress { g := gt }, .estatSprinter { g := gt }, .estatRelay { g := gt }], Meets i W) ∧
    NoPressException W ∧ W.me.press.fq.length < 8 ∧ W.me.press.cq.length < 16 ∧ HasRunner W 0 :=
  ⟨meets_all (by decide +kernel), rfl, by decide +kernel, by decide +kernel, ⟨_, List.mem_singleton.mpr rfl, rfl⟩⟩

/-! Loads and stores: an access that passes, a misaligned one, one past its extent, one not present; counts 0, 1, 16 and 17. -/

def lo : AgLdO := { ag := .ag0, g := gt, s1 := 1, s2 := 2, size := .z64, ldq1 := true, hint := 7 }
def lst : AgLdStO := { ag := .ag1, g := gt, d := 3, s1 := 1, s2 := 2, size := .z64, ldq1 := false, hint := 0 }
def sto : AgStO := { ag := .ag0, g := gt, s1 := 1, s2 := 2, size := .z64 }
def sst : AgStStO := { ag := .ag1, g := gt, d := 3, s1 := 1, s2 := 2, size := .z64 }
/-- A runner with one index entry: elements 0, 1, 2, ... -/
def XI : State := legOf (X [(1, 0x10000)]) fun l =>
  { l with ixq := [{ data := BitVec.ofNat 1024 ((List.range 32).foldl (fun n k => n + k * 2 ^ (32 * k)) 0), stain := false, due := 0, shown := true }] }
theorem wit_LoadIssue :
    (∀ a ∈ [(0x10000 : Word), 0x13FF8, 0x10004, 0x14000, 0x30000],
      Meets (.lda lo) (X [(1, a)]) ∧ Meets (.ldaS lo) (X [(1, a)]) ∧ Meets (.sta sto) (X [(1, a)])) ∧
    w1.elemFail 64 false 0x13FF8 = none ∧ w1.elemFail 64 false 0x10004 = some (.misaligned 0x10004) ∧
    w1.elemFail 64 false 0x14000 = some (.bounds 0x14000) ∧ w1.elemFail 64 true 0x30000 = some (.notPresent 2) ∧
    (∀ n ∈ [(0 : Word), 1, 16, 17], Meets (.ldst lst) (X [(1, 0x10000), (2, 8), (3, n)]) ∧ Meets (.stst sst) (X [(1, 0x10000), (2, 8), (3, n)])) ∧
    Meets (.ldx { ag := .ag0, g := gt, s1 := 1, size := .z32, ldq1 := true, hint := 0 }) XI ∧
    Meets (.stx { ag := .ag0, g := gt, s1 := 1, size := .z32 }) XI ∧ XI.me.leg.ixq ≠ [] ∧
    XI.me.firstFail 32 false (indexed 0x10000 (XI.me.leg.ixq.headD { data := 0, stain := false, due := 0, shown := true }).data .z32) = none ∧
    (X [(1, 0x10000)]).meetsGated [0x10000] 8 = false :=
  ⟨fun a h =>
      have := List.all_eq_true.mp (by decide +kernel : ([(0x10000 : Word), 0x13FF8, 0x10004, 0x14000, 0x30000].all fun a =>
        meetsB (.lda lo) (X [(1, a)]) && meetsB (.ldaS lo) (X [(1, a)]) && meetsB (.sta sto) (X [(1, a)])) = true) a h
      have h3 := Bool.and_eq_true_iff.mp this
      have h2 := Bool.and_eq_true_iff.mp h3.1
      ⟨meets_of h2.1, meets_of h2.2, meets_of h3.2⟩,
    by decide +kernel, by decide +kernel, by decide +kernel, by decide +kernel,
    fun n h =>
      have := Bool.and_eq_true_iff.mp (List.all_eq_true.mp (by decide +kernel : ([(0 : Word), 1, 16, 17].all fun n =>
        meetsB (.ldst lst) (X [(1, 0x10000), (2, 8), (3, n)]) && meetsB (.stst sst) (X [(1, 0x10000), (2, 8), (3, n)])) = true) n h)
      ⟨meets_of this.1, meets_of this.2⟩,
    meets_of (by decide +kernel), meets_of (by decide +kernel), by decide +kernel, by decide +kernel, by decide +kernel⟩

/-! ### Witnesses: the Sprinter, the Relay, the strong path and the table operations -/

def gss : GSS := { g := gt, s1 := 1, s2 := 2 }
def gs : GS := { g := gt, s1 := 1 }
def gdss : GDSS := { g := gt, d := 0, s1 := 1, s2 := 2 }
theorem wit_TileCommands :
    (let s := X [(1, 0), (2, 0x11000)]
     Meets (.tld gdss) s ∧ NamesTile s 0 1 (tw 0) (tl .f32 32 128 .empty) ∧ FreeTile (tl .f32 32 128 .empty) ∧ SprRoom s ∧ s.me.hamper = [] ∧
       (tileSpans s.me (tl .f32 32 128 .empty) (.tld gdss) (s.atOp 1 2) ((s.atOp 2 0).toNat % 2 ^ 16)).all
         (fun p => checkExt s.me.extents p.1 p.2 true false false == .ok 0 0x111000) = true) ∧
    (let s := X [(1, 1), (2, 0x13000)]
     Meets (.tst gdss) s ∧ NamesTile s 0 1 (tw 1) (tl .f32 32 128 .ready) ∧ OutTile (tl .f32 32 128 .ready) ∧ s.me.hamper.length < 64 ∧
       (tileSpans s.me (tl .f32 32 128 .ready) (.tst gdss) (s.atOp 1 2) ((s.atOp 2 0).toNat % 2 ^ 16)).all
         (fun p => checkExt s.me.extents p.1 p.2 false true false == .ok 0 0x113000) = true) ∧
    (let s := X [(1, 0), (2, 1)]
     Meets (.tmov gss) s ∧ Meets (.tcopy gss) s ∧ Meets (.tfill gss) s ∧ Meets (.tzero gs) s ∧ Meets (.twait gs) s ∧ SprRoom s ∧
       NamesTile s 0 1 (tw 0) (tl .f32 32 128 .empty) ∧ NamesTile s 1 2 (tw 1) (tl .f32 32 128 .ready)) :=
  ⟨⟨meets_of (by decide +kernel), names (by decide +kernel), .inl rfl, (by decide +kernel : _ < 16), by decide +kernel, by decide +kernel⟩,
    ⟨meets_of (by decide +kernel), names (by decide +kernel), ⟨.inl rfl, by decide⟩, by decide +kernel, by decide +kernel⟩,
    meets_of (by decide +kernel), meets_of (by decide +kernel), meets_of (by decide +kernel), meets_of (by decide +kernel), meets_of (by decide +kernel),
    (by decide +kernel : _ < 16), names (by decide +kernel), names (by decide +kernel)⟩
/-- Tile names: above the level's count (Tub index 1 of 1), and an entry not defined (Basin 255). -/
theorem wit_TileCommands_refused :
    (X [(1, 0x1001)]).me.tileId ((X [(1, 0x1001)]).atOp 0 1) = none ∧
    (X [(1, 255)]).me.tileId ((X [(1, 255)]).atOp 0 1) = some (tw 255) ∧ (X [(1, 255)]).tile (X [(1, 255)]).cur.run (tw 255) = none ∧
    (∀ s ∈ [X [(1, 0x1001)], X [(1, 255)]], Meets (.tld gdss) s ∧ Meets (.tst gdss) s ∧ Meets (.tfill gss) s ∧ Meets (.tzero gs) s ∧
      Meets (.twait gs) s) :=
  ⟨by decide +kernel, by decide +kernel, by decide +kernel, fun s h => by
    simp only [List.mem_cons, List.not_mem_nil, or_false] at h
    rcases h with rfl | rfl
    · exact ⟨meets_of (by decide +kernel), meets_of (by decide +kernel), meets_of (by decide +kernel), meets_of (by decide +kernel), meets_of (by decide +kernel)⟩
    · exact ⟨meets_of (by decide +kernel), meets_of (by decide +kernel), meets_of (by decide +kernel), meets_of (by decide +kernel), meets_of (by decide +kernel)⟩⟩
/-- TWAIT at a tile being filled, and at one that a TST of the leg holds. -/
def tstHam : HamE :=
  { id := 1, kind := .tst, size := .z8, base := 0, stride := 0, idx := 0, addrs := [], data := 0, i := .tst gdss, tile := tw 1, addr := 0x13000,
    row0 := 0, nonce := 0, committed := false, left := none, held := false, quar := false, stamp := 0, leg := 0, issue := 90, cno := 0, key := 0 }
theorem wit_TileCommands_wait :
    (let s := { X [(1, 0)] with runners := (X [(1, 0)]).runners.map fun x => { x with tiles := [(0, tl .f32 32 128 .filling)] } }
     Meets (.twait gs) s ∧ NamesTile s 0 1 (tw 0) (tl .f32 32 128 .filling)) ∧
    (let s := { X [(1, 1)] with runners := (X [(1, 1)]).runners.map fun x => { x with tiles := [(1, tl .f32 32 128 .draining)], hamper := [tstHam] } }
     Meets (.twait gs) s ∧ NamesTile s 0 1 (tw 1) (tl .f32 32 128 .draining) ∧ s.gated (tw 1) = true ∧ s.me.saq = []) :=
  ⟨⟨meets_of (by decide +kernel), names (by decide +kernel)⟩,
    meets_of (by decide +kernel), names (by decide +kernel), by decide +kernel, by decide +kernel⟩
/-- A seal key of owner 3, the counter at its start and at its end; an address off 64 bytes. -/
def XK (n : Nat) (l : List (BitVec 5 × Word)) : State :=
  { X l with tabs := { Tables.reset with tkeys := [(3, { curgen := false, sweep := false, mem0 := none, mem1 := none, sealIx := some 9, rotcnt := 0, sealctr := n, ctxn := 0 })] } }
theorem wit_SealAndUnseal :
    (let s := XK 0 [(1, 1), (2, 0x10040)]
     Meets (.seal gss) s ∧ NamesTile s 0 1 (tw 1) (tl .f32 32 128 .ready) ∧ (s.atOp 1 2).toNat % 64 = 0 ∧ OutTile (tl .f32 32 128 .ready) ∧
       (s.tabs.tkey s.me.owner).sealIx = some 9 ∧ SpansOk s.me [((s.atOp 1 2).toNat, 128 + 32 * 128)] true) ∧
    (let s := XK (2 ^ 64 - 1) [(1, 1), (2, 0x10040)]
     Meets (.seal gss) s ∧ 2 ^ 64 - 1 ≤ (s.tabs.tkey s.me.owner).sealctr) ∧
    (let s := X [(1, 1), (2, 0x10040)]
     Meets (.seal gss) s ∧ (s.tabs.tkey s.me.owner).sealIx = none) ∧
    (let s := X [(1, 1), (2, 0x10044)]
     Meets (.seal gss) s ∧ Meets (.unseal gss) s ∧ (s.atOp 1 2).toNat % 64 ≠ 0) ∧
    (let s := X [(1, 0), (2, 0x10040)]
     Meets (.unseal gss) s ∧ NamesTile s 0 1 (tw 0) (tl .f32 32 128 .empty) ∧ FreeTile (tl .f32 32 128 .empty) ∧ SprRoom s ∧ s.me.hamper = [] ∧
       SpansOk s.me [((s.atOp 1 2).toNat, 128 + 32 * 128)] false) :=
  ⟨⟨meets_of (by decide +kernel), names (by decide +kernel), by decide +kernel, ⟨.inl rfl, by decide⟩, by decide +kernel,
      fun p hp => ⟨0, 0x110040, by rw [List.mem_singleton.mp hp]; decide +kernel⟩⟩,
    ⟨meets_of (by decide +kernel), by decide +kernel⟩, ⟨meets_of (by decide +kernel), by decide +kernel⟩,
    ⟨meets_of (by decide +kernel), meets_of (by decide +kernel), by decide +kernel⟩,
    meets_of (by decide +kernel), names (by decide +kernel), .inl rfl, (by decide +kernel : _ < 16), by decide +kernel,
    fun p hp => ⟨0, 0x110040, by rw [List.mem_singleton.mp hp]; decide +kernel⟩⟩
/-- A squad of one, whose only mask is 1. -/
theorem wit_CollectiveIssue :
    let s := X [(1, 0), (2, 1)]
    (∀ i ∈ [Instr.calr { g := gt, s1 := 1, s2 := 2, red := .add }, .crsc { g := gt, s1 := 1, s2 := 2, red := .max }, .caga gss, .ca2a gss, .cbcs gss],
      Meets i s) ∧ NamesTile s 0 1 (tw 0) (tl .f32 32 128 .empty) ∧ colFmt .f32 = true ∧ s.atOp 1 2 ≠ 0 ∧ (s.atOp 1 2).toNat < 2 ^ s.squadSize s.me ∧
      (s.atOp 1 2).getLsbD s.me.idx = true ∧ s.me.relay.q.length < 4 ∧ StoresMatched s :=
  ⟨meets_all (by decide +kernel), names (by decide +kernel), rfl, by decide +kernel, by decide +kernel, by decide +kernel,
    by decide +kernel, fun e h => absurd h (by rw [show (X [(1, 0), (2, 1)]).me.saq = [] from by decide +kernel]; exact List.not_mem_nil)⟩
/-- The strong operations at an address of the strong extent, at a misaligned one, past the end, and of one not present; thread counts 0, 1,
65535 and 65536 of BARINIT. -/
def strongOps : List Instr :=
  [.lds { g := gt, w32 := true, scope := .run, res1 := false, s1 := 1, ord := .acq }, .lds { g := gt, w32 := false, scope := .sys, res1 := true, s1 := 1, ord := .sc },
   .sts { g := gt, w32 := true, scope := .sqd, s1 := 1, s2 := 2, ord := .rel }, .sts { g := gt, w32 := false, scope := .die, s1 := 1, s2 := 2, ord := .rlx },
   .amo { g := gt, w32 := false, scope := .die, res1 := false, s1 := 1, s2 := 2, op := .cas, ord := .ar },
   .amo { g := gt, w32 := true, scope := .die, res1 := true, s1 := 1, s2 := 2, op := .minz, ord := .rlx },
   .sig { g := gt, scope := .die, s1 := 1, s2 := 2, add := true }, .sig { g := gt, scope := .die, s1 := 1, s2 := 2, add := false },
   .fence { g := gt, scope := .run, ord := .sc }, .bars { g := gt }, .barinv gs, .bararr gs]
theorem wit_StrongIssue :
    (∀ i ∈ strongOps, Meets i (X [(1, 0x20000)]) ∧ Meets i (X [(1, 0x20002)]) ∧ Meets i (X [(1, 0x40000)]) ∧ Meets i (X [(1, 0x30000)])) ∧
    w1.strongFail true true 16 16 0x20000 = none ∧ w1.strongFail true false 4 4 0x20002 = some (.misaligned 0x20002) ∧
    w1.strongFail true true 8 8 0x40000 = some (.bounds 0x40000) ∧ w1.strongFail true true 8 8 0x30000 = some (.notPresent 2) ∧
    (∀ n ∈ [(0 : Word), 1, 65535, 65536], Meets (.barinit gss) (X [(1, 0x20000), (2, n)])) ∧
    (X [(1, 0x20000)]).me.strong = [] ∧ (X [(1, 0x20000)]).me.saq = [] ∧ SprRoom (X [(1, 0x20000)]) :=
  ⟨fun i h =>
      have h0 := List.all_eq_true.mp (by decide +kernel : (strongOps.all fun i => (meetsB i (X [(1, 0x20000)]) && meetsB i (X [(1, 0x20002)])) &&
        (meetsB i (X [(1, 0x40000)]) && meetsB i (X [(1, 0x30000)]))) = true) i h
      have h1 := Bool.and_eq_true_iff.mp h0
      have h2 := Bool.and_eq_true_iff.mp h1.1
      have h3 := Bool.and_eq_true_iff.mp h1.2
      ⟨meets_of h2.1, meets_of h2.2, meets_of h3.1, meets_of h3.2⟩,
    by decide +kernel, by decide +kernel, by decide +kernel, by decide +kernel,
    fun n h => meets_of (List.all_eq_true.mp (by decide +kernel : ([(0 : Word), 1, 65535, 65536].all fun n =>
      meetsB (.barinit gss) (X [(1, 0x20000), (2, n)])) = true) n h),
    by decide +kernel, by decide +kernel, (by decide +kernel : _ < 16)⟩
/-- A vector AMO with its index and data entries. -/
theorem wit_StrongIssue_vector :
    let s := legOf (X [(1, 0x20000)]) fun l =>
      { l with ixq := [{ data := 0, stain := false, due := 0, shown := true }], sdq := [{ data := 7, stain := true, due := 0, shown := true }] }
    Meets (.amoVector { g := gt, w32 := true, scope := .die, res := true, s1 := 1, op := .add, ord := .rlx }) s ∧ s.me.strong = [] ∧ s.me.saq = [] ∧
      s.me.leg.ixq = [{ data := 0, stain := false, due := 0, shown := true }] ∧
      s.me.leg.sdq[s.me.saq.length]? = some { data := 7, stain := true, due := 0, shown := true } :=
  ⟨meets_of (by decide +kernel), by decide +kernel⟩
theorem wit_TableOperationIssue :
    (let s := X [(1, 99), (2, 0x10000)]
     (∀ i ∈ [Instr.tdef gss, .keyld gss, .pwquota gss, .pwpleat gss, .pwlap gss, .pwlease gss, .pwgran gss, .pwweight gss, .keyrot { g := gt },
        .scrub { g := gt }], Meets i s) ∧ s.me.tileId (s.atOp 0 1) = some (tw 99) ∧ s.tile s.cur.run (tw 99) = none ∧ s.me.saq = [] ∧
       ImageOk s.me (s.atOp 1 2) 64) ∧
    (let s := X [(1, 0), (2, 0x10000)]
     Meets (.tdef gss) s ∧ Meets (.tfree gs) s ∧ NamesTile s 0 1 (tw 0) (tl .f32 32 128 .empty)) :=
  ⟨⟨meets_all (by decide +kernel), by decide +kernel, by decide +kernel, by decide +kernel, by decide +kernel, 0, 0x110000, by decide +kernel⟩,
    meets_of (by decide +kernel), meets_of (by decide +kernel), names (by decide +kernel)⟩

/-! ### Witnesses: events of runners, of the memory and of the engines -/

/-- Runner 0 with tiles and extents, changed. -/
def Y (f : Runner → Runner) : State := { W with runners := [f w1] }
theorem hr {s : State} {r : Nat} (h : (s.runners.any fun x => x.num == r) = true) : HasRunner s r := by
  obtain ⟨x, hx, he⟩ := List.any_eq_true.mp h
  exact ⟨x, hx, by simpa using he⟩
/-- A result of g31 due at some cycle, re-injected or not. -/
def gp (land : Nat) (re : Bool) : Pend := { Pend.of (.g 31) 9 with land := land, seq := 4, reinj := re }
def inflight (land : Nat) (re : Bool) : State := W.with fun x => { x with cx := { x.cx with pend := [gp land re] } }
theorem wit_ResultsLand :
    (∀ re ∈ [false, true], ∀ c ∈ [100, 101], HasRunner (inflight c re) 0 ∧ (inflight c re).toLand 0 .c 4 re = some (gp c re) ∧
      (inflight c re).cycle = 100 ∧ ((inflight c re).rn 0).rewind = none) ∧
    (∀ d ∈ [Dst.g 31, .a 31, .g 0, .a 0, .p 0, .ap 0, .va 31, .vb 0, .p 15, .ap 15, .sys 0x000, .sys 0x001, .sys 0x002, .sys 0x003, .sys 0x004,
      .sys 0x006, .sys 0x007, .sys 0x008, .sys 0x009, .sys 0x00A, .sys 0x00B, .sys 0x00C, .sys 0x00D, .sys 0x00E, .sys 0x010, .sys 0x012, .sys 0x7FF,
      .loop .c, .loop .a, .sda, .sdb, .esnapP, .esnapS, .esnapL], (Pend.of d 5).dst = d) ∧
    (∀ d, (Pend.of d (loopVal (2 ^ 32 - 1) (2 ^ 32 - 1) 15 7 255 255)).val = loopVal (2 ^ 32 - 1) (2 ^ 32 - 1) 15 7 255 255) :=
  ⟨fun re hre c hc => by
      simp only [List.mem_cons, List.not_mem_nil, or_false] at hre hc
      rcases hre with rfl | rfl <;> rcases hc with rfl | rfl <;> exact ⟨hr (by decide +kernel), by decide +kernel⟩,
    fun _ _ => rfl, fun _ => rfl⟩
def waiting : State := W.leg fun l => { l with c := { l.c with wait := 100 } }
def copying (one : Bool) (fin : Nat) : State := W.with fun x => x.modX .c fun y => { y with im := { y.im with copy := some { patch := 2, fin := fin, half1 := one }, code := [(2, [(0, 1)])] } }
theorem wit_RunnerEvents :
    (0 < ((waiting.rn 0).st .c).wait ∧ ((waiting.rn 0).st .c).wait ≤ waiting.cycle ∧ (waiting.rn 0).preempt = false ∧ (waiting.rn 0).rewind = none) ∧
    (let s := W.with fun x => { x with qdrain := some (true, 90), leg := { x.leg with ldq1 := [filledE] } }
     (s.rn 0).qdrain = some (true, 90) ∧ ∀ e ∈ (s.rn 0).leg.ldq true, e.st = .reserved → 90 ≤ e.id) ∧
    (let s := W.with fun x => { x with qdrain := some (false, 90), leg := { x.leg with ldq0 := [reserved 1 none false] } }
     (s.rn 0).qdrain = some (false, 90) ∧ ∃ e ∈ (s.rn 0).leg.ldq false, e.st = .reserved ∧ e.id < 90) ∧
    (∀ one ∈ [false, true], ∀ f ∈ [100, 101], (((copying one f).rn 0).sx .c).im.copy = some { patch := 2, fin := f, half1 := one }) ∧
    (let s := W.with fun x => { x with rewind := some { cause := 1, at_ := 100, redo := [1] } }
     HasRunner s 0 ∧ (s.rn 0).rewind = some { cause := 1, at_ := 100, redo := [1] } ∧ s.cycle = 100 ∧ (s.rn 0).holdNp = [] ∧ (s.rn 0).ackm = 0 ∧
       (s.rn 0).stopReq = false ∧ (s.rn 0).laq = [] ∧ s.squadOf (s.rn 0) = none) ∧
    (∀ n ∈ [0, 2], HasRunner (Y fun x => { x with holdNp := [n] }) 0) ∧
    ((W.rn 0).active = true ∧ (W.rn 0).stopReq = false ∧ (W.rn 0).rewind = none) :=
  ⟨by decide +kernel, by decide +kernel, by decide +kernel, by decide +kernel, ⟨hr (by decide +kernel), by decide +kernel⟩,
    fun n hn => by
      simp only [List.mem_cons, List.not_mem_nil, or_false] at hn
      rcases hn with rfl | rfl <;> exact hr (by decide +kernel), by decide +kernel⟩
def pkt0 : Pkt := { queue := 0, func := 0, qid := 0, serial := 0, acc := 0, die := 0, opc := 0, flags := 0, tag := 0, cwaddr := 0, cwval := 0, body := [] }
def cmd0 (acks : List Nat) : Cmd :=
  { id := 1, pkt := pkt0, pages := [], img := [], key := 0, due := 0, status := 0, detail := 0, acks := acks, steps := 0, queued := false, saves := [] }
def vq (shown : Bool) : VqE := { data := 3, stain := false, due := 99, shown := shown }
/-- Two runners of one squad. -/
def two (f : Runner → Runner) (z : Squad → Squad) : State :=
  { W with runners := [f w0, f { w0 with num := 1 }], fw := { W.fw with squads := [z (sq [0, 1])] } }
def barsE : StrongE :=
  { id := 1, i := .bars { g := gt }, s1 := 0, s2 := 0, s3 := 0, ix := 0, dat := 0, stain := false, stamp := 0, issue := 90, elig := none, tries := 0,
    lane := 0, acc := 0, held := false, barsNo := 1, due := 0, rel := none, cas := none }
theorem wit_SquadEvents :
    (let s := Y fun x => { x with saq := [sta0], leg := { x.leg with sdq := [vq true] } }
     HasRunner s 0 ∧ (s.rn 0).saq = [sta0] ∧ (s.rn 0).leg.sdq = [vq true] ∧ (s.rn 0).rewind = none ∧ (s.rn 0).hamper.length < 64 ∧
       (s.rn 0).hamFull = false ∧ s.queuesSound 0 = true) ∧
    (let s := { (Y id) with fw := { W.fw with cmds := [cmd0 [2]] } }
     (∃ c ∈ s.fw.cmds, 16 * 0 + 2 ∈ c.acks) ∧ aget (s.rn 0).extents 2 = some (ex 0x30000 false false) ∧
       s.extentBusy (s.rn 0) (ex 0x30000 false false) = false ∧ s.hamIn (s.rn 0) (ex 0x30000 false false) = false) ∧
    (let s := { (Y fun x => { x with hamper := [storeHam x { sta0 with addrs := [0x30000] } (vq true)] }) with fw := { W.fw with cmds := [cmd0 [2]] } }
     (∃ c ∈ s.fw.cmds, 16 * 0 + 2 ∈ c.acks) ∧ aget (s.rn 0).extents 2 = some (ex 0x30000 false false) ∧ (s.rn 0).squad ≠ none ∧
       s.hamIn (s.rn 0) (ex 0x30000 false false) = true ∧ (s.rn 0).rewind = none ∧ (s.rn 0).stopReq = false) ∧
    (let s := { (Y fun x => { x with saq := [{ sta0 with addrs := [0x33FF8] }] }) with fw := { W.fw with cmds := [cmd0 [2]] } }
     (∃ c ∈ s.fw.cmds, 16 * 0 + 2 ∈ c.acks) ∧ aget (s.rn 0).extents 2 = some (ex 0x30000 false false) ∧ (s.rn 0).squad ≠ none ∧
       s.hamIn (s.rn 0) (ex 0x30000 false false) = false ∧ s.extentBusy (s.rn 0) (ex 0x30000 false false) = true) ∧
    (∀ e ∈ [none, some 100],
      let s := two (fun x => { x with exchAt := some (.c, 92) }) fun z => { z with exch := e }
      s.squadNo 1 = some { sq [0, 1] with exch := e } ∧ (sq [0, 1]).state = .running ∧ ∀ r ∈ [0, 1], (s.rn r).exchAt ≠ none) ∧
    (let s := two (fun x => { x with strong := [barsE] }) id
     s.squadNo 1 = some (sq [0, 1]) ∧ ∀ r ∈ [0, 1], HasRunner s r ∧ s.barsReady r = some 1) ∧
    (let s := W.leg fun l => { l with c := { l.c with done := true }, s := { l.s with done := true } }
     (s.rn 0).squad ≠ none ∧ (s.rn 0).stopReq = false ∧ (s.rn 0).complete = true ∧ (s.rn 0).hamper = []) ∧
    ((W.rn 0).squad ≠ none ∧ (W.rn 0).stopReq = false ∧ (W.rn 0).complete = false) :=
  ⟨⟨hr (by decide +kernel), by decide +kernel⟩, by decide +kernel, by decide +kernel, by decide +kernel,
    by decide +kernel, ⟨by decide +kernel, fun r h => by
      simp only [List.mem_cons, List.not_mem_nil, or_false] at h
      rcases h with rfl | rfl <;> exact ⟨hr (by decide +kernel), by decide +kernel⟩⟩, by decide +kernel, by decide +kernel⟩

/-- A strong access at the first bytes of the strong extent, its slots had. -/
def strE (i : Instr) : StrongE := { barsE with i := i, s1 := 0x20000, s2 := 7, s3 := 0, elig := some 95, barsNo := 0 }
def strS (i : Instr) : State := Y fun x => { x with strong := [strE i], leg := { x.leg with ldq0 := [reserved 1 none false] } }
def arrC (st : Option Nat) : SprCmd :=
  { id := 1, i := .bararr gs, s1 := 0x20000, s2 := 0, sd := 0, tile := none, src := none, leg := 0, quar := false, start := st, chunk := 0, from0 := 0,
    issued := 0, written := [], gen := none, relays := [], held := false, stop := false, stamp := 0, nonce := 0, ok := true, buf := [], bad := [], after := 0, key := 0 }
theorem due_of {s : State} {e : StrongE} (h : ((s.rn 0).strong.find? (fun z => z.id == e.id) == some e && !e.held && e.elig.isSome && e.lane == 0 && s.mem.reqs.isEmpty) = true) :
    StrongDue s 0 e := by
  simp only [Bool.and_eq_true, beq_iff_eq, Bool.not_eq_true', List.isEmpty_iff] at h
  exact ⟨h.1.1.1.1, h.1.1.1.2, fun h' => by rw [h'] at h; simp at h, h.1.2, fun q hq => by rw [h.2] at hq; simp at hq⟩
/-- Its Sprinter queue holds one arrival; the strong extent begins with the bytes given. -/
def arrS (c : SprCmd) (b : List Byte) : State :=
  { (Y fun x => { x with spr := { x.spr with q := [c] } }) with mem := { MemSys.reset with phys := Memory.write [] 0x120000 b } }
/-- A barrier object: GEN 7, two expected, so many arrived, its flags. -/
def barObj (n flags : Nat) : List Byte := natLe 4 7 ++ natLe 4 2 ++ natLe 4 n ++ natLe 4 flags
theorem wit_StrongAccessesPerform :
    (∀ i ∈ [Instr.sts { g := gt, w32 := true, scope := .die, s1 := 1, s2 := 2, ord := .rlx }, .sig { g := gt, scope := .die, s1 := 1, s2 := 2, add := true },
      .lds { g := gt, w32 := false, scope := .die, res1 := false, s1 := 1, ord := .rlx },
      .amo { g := gt, w32 := true, scope := .die, res1 := false, s1 := 1, s2 := 2, op := .add, ord := .rlx }],
      HasRunner (strS i) 0 ∧ StrongDue (strS i) 0 (strE i) ∧ (strS i).strongRace 0 (strE i) true = none ∧
        (strS i).strongRace 0 (strE i) false = none ∧
        ReadsWell (strS i) 0 0x20000 8 ∧ ReadsWell (strS i) 0 0x20000 4 ∧ (strS i).casNext 0 (strE i) = none) ∧
    (∀ st ∈ [none, some 95],
      let s := arrS (arrC st) []
      (s.rn 0).spr.q = [arrC st] ∧ isArrival (arrC st) = true ∧ s.arrivalReady 0 (arrC st) = true ∧ (s.rn 0).preempt = false ∧ s.mem.reqs = [] ∧
        s.arrivalRace 0 (arrC st) = none ∧ (s.physRead (strongPa (s.rn 0) 0x20000 16) 16).2 = false) :=
  ⟨fun i h => by
      simp only [List.mem_cons, List.not_mem_nil, or_false] at h
      rcases h with rfl | rfl | rfl | rfl <;>
        exact ⟨hr (by decide +kernel), due_of (by decide +kernel), by decide +kernel, by decide +kernel, (by decide +kernel : (_ : Bool) = false),
          (by decide +kernel : (_ : Bool) = false), by decide +kernel⟩,
    by decide +kernel⟩
/-- An AMO of the host window that no AtomicOp carries: a maximum, before its first CAS and after one that found another value. -/
theorem wit_casLoop : ∀ c ∈ [none, some 6],
    let e := { strE (.amo { g := gt, w32 := false, scope := .sys, res1 := false, s1 := 1, s2 := 2, op := .max, ord := .rlx }) with cas := c }
    let s := { (Y fun x => { x with extents := [(1, { ex 0x20000 true true with pbase := hostBase })], strong := [e] }) with
      mem := { MemSys.reset with phys := Memory.write [] hostBase [5] } }
    HasRunner s 0 ∧ StrongDue s 0 e ∧ s.strongRace 0 e true = none ∧ s.strongRace 0 e false = none ∧ s.casNext 0 e = some 5 := fun c hc => by
  simp only [List.mem_cons, List.not_mem_nil, or_false] at hc
  rcases hc with rfl | rfl <;> exact ⟨hr (by decide +kernel), due_of (by decide +kernel), by decide +kernel⟩

/-- A barrier of two at the first bytes of the strong extent, GEN 7, with none and with one arrived: an arrival that captured 7 is counted
in it; one that captured 8 or nothing, or finds it invalid, or is stopped, is stale. -/
theorem wit_barrierArrival :
    HasRunner (arrS (arrC (some 95)) []) 0 ∧
    (∀ n ∈ [0, 1],
      let c := { arrC (some 95) with gen := some 7 }
      let s := arrS c (barObj n 1)
      let b := (s.physRead (strongPa (s.rn 0) c.s1 16) 16).1
      (s.rn 0).spr.q = [c] ∧ s.arrivalReady 0 c = true ∧ s.arrivalRace 0 c = none ∧ fieldLe b 12 4 % 2 = 1 ∧ fieldLe b 0 4 = 7) ∧
    (∀ c ∈ [({ arrC (some 95) with gen := some 8 } : SprCmd), arrC (some 95), { arrC (some 95) with gen := some 7, stop := true }],
      let s := arrS c (barObj 0 1)
      let b := (s.physRead (strongPa (s.rn 0) c.s1 16) 16).1
      s.arrivalReady 0 c = true ∧ s.arrivalRace 0 c = none ∧ (c.stop = true ∨ c.gen = none ∨ c.gen ≠ some (BitVec.ofNat 32 (fieldLe b 0 4)))) ∧
    (let c := { arrC (some 95) with gen := some 7 }
     let s := arrS c (barObj 0 0)
     fieldLe (s.physRead (strongPa (s.rn 0) c.s1 16) 16).1 12 4 % 2 = 0) :=
  ⟨hr (by decide +kernel), by decide +kernel, by decide +kernel, by decide +kernel⟩
/-- A table operation of runner 0 whose image has come. -/
def to0 (i : Instr) (s1 : Word) (img : List Byte) (dn : Option Nat) : TabOp :=
  { id := 1, i := i, s1 := s1, s2 := 0x10000, pc := 0, issue := 90, guards := 0, br := none, marked := false, img := img, need := img.length,
    applied := false, tries := 0, bad := false, done := dn, stamp := 0, saves := [] }
def toS (t : TabOp) : State := Y fun x => { x with tabop := some t }

/-- A request of channel 3. -/
def rq (use : ReqFor) (arrive : Option Nat) : Req :=
  { id := 2, run := 0, chan := some 3, pa := 0x110000, va := 0, len := 32, els := [(0x110000, 8)], write := false, data := [5, 0, 0, 0, 0, 0, 0, 0], elig := 0, order := 0,
    use := use, start := arrive.map fun _ => 50, arrive := arrive, reply := none, fail := false, mend := false }
/-- A load of one element waiting for its data. -/
def ld0 : LaqE :=
  { id := 1, op := .lda, tgt1 := false, size := .z64, ag1 := false, base := 0x10000, stride := 0, idx := 0, addrs := [0x10000], taken := 1, held := 0, arrived := 0,
    data := 0, stain := false, ue := false, elig := 0, leg := 0, stamp := 0 }
def memS (now : Nat) (q : Option Req) (f : Chan → Chan) : State :=
  { (Y fun x => { x with tabop := some (to0 (.pwgran gss) 3 [] none), laq := [ld0], leg := { x.leg with ldq0 := [reserved 1 (some ld0) false] } }) with
    cycle := now
    mem := { MemSys.reset with reqs := q.toList, chans := [(3, f ((W.chan 3)))] } }
theorem wit_MemoryEvents :
    (let s := memS 256 (some (rq (.table 0) none)) id
     (s.chan 3).dataOpen s.cycle = true ∧ s.slotChoice 3 = some (rq (.table 0) none) ∧ s.tableReadRace 0 (rq (.table 0) none) = none ∧
       (s.rn 0).tabop = some (to0 (.pwgran gss) 3 [] none)) ∧
    (let q := { rq (.fw 9 3) none with write := true, data := [1, 2], els := [(0x110000, 2)], len := 2 }
     let s := memS 256 (some q) id
     (s.chan 3).dataOpen s.cycle = true ∧ s.slotChoice 3 = some q ∧ q.data ≠ []) ∧
    ((memS 257 none id).chan 3).dataOpen 257 = false ∧ ((memS 284 none id).chan 3).dataOpen 284 = false ∧ (memS 256 none id).slotChoice 3 = none ∧
    (let s := memS 256 (some (rq (.load 0 1 [0]) (some 256))) id
     HasRunner s 0 ∧ s.mem.reqs.find? (fun z => z.id == 2) = some (rq (.load 0 1 [0]) (some 256)) ∧ (s.rn 0).laqE 1 = some ld0 ∧
       isScratch (rq (.load 0 1 [0]) (some 256)).va = false ∧ (rq (.load 0 1 [0]) (some 256)).data.length = sizeBits ld0.size / 8 ∧
         s.queuesSound 0 = true) ∧
    (∀ n ∈ [6, 7], (memS 512 none fun c => { c with mitq := (List.range n).map fun k => (0, k), due := [(1, 3)] }).cycle % 256 = 0) ∧
    (let s := memS 316 none fun c => { c with mitq := [(0, 9)] }
     s.cycle % 4 = 0 ∧ s.position % 8 = 7 ∧ s.position ≠ 7 ∧ s.position ≠ 39 ∧ (s.chan 3).stop = false ∧ (s.chan 3).mitq = [(0, 9)]) ∧
    (let s := memS 316 none fun c => { c with act := [((0, 9), 255)] }
     (s.chan 3).mitq.length < 4096 ∧ (0, 9) ∉ (s.chan 3).stalled ∧ (0, 9) ∉ (s.chan 3).badpar ∧ (0, 9) ∉ (s.chan 3).mitq ∧ s.bnd.actth = 256) ∧
    (let s := memS 316 none fun c => { c with stalled := [(0, 9)] }
     (0, 9) ∈ (s.chan 3).stalled) ∧
    (let s := { memS 316 none id with mem := { MemSys.reset with reenc := [(0, 3)] } }
     s.cycle % 4 = 0 ∧ s.position % 8 = 7 ∧ s.position ≠ 7 ∧ s.position ≠ 39 ∧ (s.chan (leafChan (0, 3))).stop = false ∧
       (s.chan (leafChan (0, 3))).mitq = [] ∧ s.mem.reenc.find? (fun k => leafChan k == leafChan (0, 3)) = some (0, 3)) ∧
    (∀ g ∈ [false, true],
      let s := { W with tabs := { Tables.reset with tkeys := [(3, { curgen := g, sweep := true, mem0 := some 1, mem1 := some 2, sealIx := none, rotcnt := 0, sealctr := 0, ctxn := 0 })] } }
      (s.tabs.tkey 3).sweep = true ∧ s.remain 3 = 0) ∧
    (∀ k ∈ [0, 11],
      let s := { W with mem := { MemSys.reset with trip := 0x801 } }
      s.mem.trip.getLsbD k = true ∧ s.mem.low.getLsbD k = false ∧ s.mem.retrain = [] ∧ s.mem.rateDue = []) ∧
    (let s := { W with mem := { MemSys.reset with retrain := [(11, 100)] } }
     s.mem.retrain.find? (fun p => p.1 == 11) = some (11, 100) ∧ 100 ≤ s.cycle) :=
  ⟨by decide +kernel, by decide +kernel, by decide +kernel, by decide +kernel, by decide +kernel, ⟨hr (by decide +kernel), by decide +kernel⟩,
    by decide +kernel, by decide +kernel, by decide +kernel, by decide +kernel, by decide +kernel, by decide +kernel, by decide +kernel,
      by decide +kernel,
    by decide +kernel⟩

/-! ### Witnesses: the engines at work, table operations, rounds -/

def pc0 (i : Instr) (st : Option Nat) : PressCmd :=
  { id := 1, i := i, src := .zero, pc := 0, leg := 0, quar := false, fei := true, fez := true, feo := true, start := st, from0 := 0, spoilt := false }
def mmaI : Instr := .mma { g := gt, d := 7, s1 := 2, s2 := 3, fmt := .s8, hint := 0 }
def mma0 : MatOp := { fmt := .s8, a := 2, w := 3, d := 7, n := none, cseq := 0 }
/-- The slots of `w1` with one row each, and a command in the compute queue. -/
def cqS (st : Option Nat) (step : Nat) : State := Y fun x =>
  { x with press := { ((x.press.modSlot 2 fun m => { m with rows := 1 }).modSlot 3 fun m => { m with rows := 1 }) with cq := [pc0 mmaI st], step := step } }
def fqS (st : Option Nat) : State := Y fun x => { x with press := { x.press with fq := [pc0 (.mgfill { g := gt, d := 1, tile := 2 }) st] } }
theorem wit_PressCommandsRun :
    (HasRunner (fqS none) 0 ∧ ((fqS none).rn 0).press.fq = [pc0 (.mgfill { g := gt, d := 1, tile := 2 }) none] ∧ ((fqS none).rn 0).preempt = false ∧
      ((fqS none).rn 0).press.fqFree ≤ (fqS none).cycle ∧ ((fqS none).rn 0).legEnd = none) ∧
    (HasRunner (cqS none 0) 0 ∧ ((cqS none 0).rn 0).press.cq = [pc0 mmaI none] ∧ ((cqS none 0).rn 0).press.cqFree ≤ (cqS none 0).cycle ∧
      ((cqS none 0).rn 0).press.held = none) ∧
    (let s := cqS (some 10) 1
     let p := (s.rn 0).press
     HasRunner s 0 ∧ (p.cq.head? = some (pc0 mmaI (some 10)) ∧ matOf mmaI = some mma0) ∧ 1 * kBlock .s8 < (p.slot 2).k ∧
       10 + 5 + mma0.cycles (min 64 (2 * kBlock .s8)) ≤ s.cycle ∧ s.mem.failed = [] ∧ (∀ k ∈ banksOf (accTag .s8) 7, k < 8) ∧
       ∀ i < 1, ∀ j < 1, let z := p.blockElem mma0 1 i j; z.inv = false ∧ z.dz = false ∧ z.ovf = false) ∧
    (let s := cqS (some 10) 2
     HasRunner s 0 ∧ (s.rn 0).press.allBlocks (pc0 mmaI (some 10)) = true ∧ 10 + s.pressTime 0 (pc0 mmaI (some 10)) ≤ s.cycle) ∧
    (let s := fqS (some 10)
     HasRunner s 0 ∧ 10 + s.pressTime 0 (pc0 (.mgfill { g := gt, d := 1, tile := 2 }) (some 10)) ≤ s.cycle ∧ s.mem.failed = [] ∧
       s.tile 0 (btile 2) = some (tl .s8 32 64 .ready)) :=
  ⟨⟨hr (by decide +kernel), by decide +kernel⟩, ⟨hr (by decide +kernel), by decide +kernel⟩, ⟨hr (by decide +kernel), by decide +kernel⟩,
    ⟨hr (by decide +kernel), by decide +kernel⟩, hr (by decide +kernel), by decide +kernel⟩
/-- TZERO of tile 0. -/
def sc (st : Option Nat) (chunk : Nat) : SprCmd :=
  { arrC st with i := .tzero gs, s1 := 0, tile := some (tw 0), chunk := chunk }
def spS (st : Option Nat) (chunk : Nat) : State := Y fun x => { x with spr := { x.spr with q := [sc st chunk] } }
theorem wit_SprinterCommandsRun :
    (HasRunner (spS none 0) 0 ∧ ((spS none 0).rn 0).spr.q = [sc none 0] ∧ isArrival (sc none 0) = false ∧
      (spS none 0).sprBlocked 0 (sc none 0) (tw 0) (tl .f32 32 128 .empty) = false ∧
      (spS none 0).tile 0 (tw 0) = some (tl .f32 32 128 .empty) ∧ ((spS none 0).rn 0).preempt = false ∧ acqGate ((spS none 0).rn 0) 1 = false) ∧
    (let s := spS (some 10) 0
     HasRunner s 0 ∧ (s.rn 0).spr.q = [sc (some 10) 0] ∧ 32 * 128 ≤ 4096 ∧ 10 + s.sprTime 0 (sc (some 10) 0) ≤ s.cycle + 1 ∧
       (s.rn 0).preempt = false ∧ (s.rn 0).basin.wf = true ∧ s.tileRace 0 (tw 0) (tl .f32 32 128 .empty) (List.range 32) true = none) ∧
    (let s := spS (some 10) 1
     HasRunner s 0 ∧ (s.rn 0).spr.q = [sc (some 10) 1] ∧ s.sprChunks 0 (sc (some 10) 1) ≤ 1 ∧ sprWrites (sc (some 10) 1).i = false) :=
  ⟨⟨hr (by decide +kernel), by decide +kernel⟩, ⟨hr (by decide +kernel), by decide +kernel⟩, hr (by decide +kernel), by decide +kernel⟩
/-- One all-reduce of both runners of a squad. -/
def rc (started : Bool) (due : Nat) : RelCmd :=
  { id := 1, i := .calr { g := gt, s1 := 1, s2 := 2, red := .add }, tile := tw 0, mask := 3, seqNo := 0, quar := false, started := started, due := due, rows := [] }
def relS (started : Bool) (due : Nat) (step : Nat) : State :=
  two (fun x => { x with tiles := w1.tiles, relay := { x.relay with q := [rc started due], step := step } }) id
def mem2 (started : Bool) (due : Nat) : List Member := [{ r := 0, c := rc started due, e := tl .f32 32 128 .empty }, { r := 1, c := rc started due, e := tl .f32 32 128 .empty }]
theorem wit_CollectivesRun :
    ((relS false 0 0).members 1 3 = some (mem2 false 0) ∧ (mem2 false 0).map (·.r) = [0, 1] ∧ HasRunner (relS false 0 0) 0 ∧
      HasRunner (relS false 0 0) 1 ∧
      (relS false 0 0).mem.failed = [] ∧
      ∀ m ∈ mem2 false 0, m.c.started = false ∧ ((relS false 0 0).rn m.r).preempt = false ∧ m.c.due ≤ (relS false 0 0).cycle) ∧
    (let s := relS true 99 (colSteps (tl .f32 32 128 .empty) - 1)
     s.members 1 3 = some (mem2 true 99) ∧ HasRunner s 0 ∧ HasRunner s 1 ∧ (∀ z ∈ mem2 true 99, z.c.started = true ∧ z.c.due < s.cycle) ∧
       (if colErr (mem2 true 99) = 0 then colSteps (tl .f32 32 128 .empty) else 1) ≤ (s.rn 0).relay.step + 1) :=
  ⟨⟨by decide +kernel, by decide +kernel, hr (by decide +kernel), hr (by decide +kernel), by decide +kernel⟩,
    by decide +kernel, hr (by decide +kernel), hr (by decide +kernel), by decide +kernel⟩
/-- The same with what both gave, 32 rows of 128 bytes each. -/
def rcF : RelCmd := { rc true 99 with rows := List.replicate 32 (List.replicate 128 1, false) }
def memF : List Member := [{ r := 0, c := rcF, e := tl .f32 32 128 .empty }, { r := 1, c := rcF, e := tl .f32 32 128 .empty }]
theorem wit_collectiveRows :
    let s := two (fun x => { x with tiles := w1.tiles, relay := { x.relay with q := [rcF] } }) id
    s.members 1 3 = some memF ∧ memF.map (·.r) = [0, 1] ∧ colErr memF = 0 ∧ (∃ m ∈ memF, m.c.started = true) ∧
      (∀ r ∈ [0, 1], HasRunner s r) ∧ ∀ z ∈ memF, z.c.started = true ∧ z.c.due < s.cycle ∧ z.c.tile.lvl = .basin ∧ (s.rn z.r).basin.wf = true ∧
        z.e.rows ≤ 256 ∧ z.c.rows.length = z.e.rows ∧ ∀ p ∈ z.c.rows, p.1.length = z.e.pitch :=
  ⟨by decide +kernel, by decide +kernel, by decide +kernel, by decide +kernel, fun r h => by
      simp only [List.mem_cons, List.not_mem_nil, or_false] at h
      rcases h with rfl | rfl <;> exact hr (by decide +kernel), by decide +kernel⟩
theorem ready_of {t : TabOp} (h : t.applied = false) (h2 : (toS t).tableBlocked ((toS t).rn 0) t = false) (h3 : t.need ≤ t.img.length)
    (h4 : t.bad = false) : TableReady (toS t) 0 t :=
  ⟨⟨_, List.mem_singleton.mpr rfl, rfl⟩, rfl, fun _ hq => absurd hq List.not_mem_nil, rfl, h3, h4, h, h2⟩
def okB {ε α : Type} : Except ε α → Bool | .ok _ => true | .error _ => false
theorem ok_of {ε α : Type} {e : Except ε α} (h : okB e = true) : ∃ u, e = .ok u := by cases e <;> first | exact ⟨_, rfl⟩ | cases h
def isErr {α : Type} (n : Nat) : Except Nat α → Bool | .ok _ => false | .error m => m == n
theorem err_of {α : Type} {n : Nat} {e : Except Nat α} (h : isErr n e = true) : e = .error n := by
  cases e with
  | ok _ => cases h
  | error m => rw [beq_iff_eq.mp h]
/-- PWWEIGHT of owner 3 with weight 5, and of owner 1025; PWQUOTA; TDEF of a Basin tile of f32, and of an unknown format. -/
def wImg : List Byte := [0, 0, 0, 0, 0, 0, 0, 0, 0, 0, 0, 0, 0, 0, 0, 0]
def wI (v : Byte) : List Byte := wImg.set 0 v
theorem wit_TableOperationsComplete :
    TableReady (toS (to0 (.pwweight gss) 3 (wI 5) none)) 0 (to0 (.pwweight gss) 3 (wI 5) none) ∧
    (toS (to0 (.pwweight gss) 3 (wI 5) none)).tableAsks (to0 (.pwweight gss) 3 (wI 5) none) = false ∧
    (∃ u, (toS (to0 (.pwweight gss) 3 (wI 5) (some 100))).applyTable 0 (to0 (.pwweight gss) 3 (wI 5) (some 100)) = .ok u) ∧
    (toS (to0 (.pwweight gss) 1025 (wI 5) (some 100))).applyTable 0 (to0 (.pwweight gss) 1025 (wI 5) (some 100)) = .error 1 ∧
    TableReady (toS (to0 (.pwquota gss) 3 (List.replicate 64 0) (some 100))) 0 (to0 (.pwquota gss) 3 (List.replicate 64 0) (some 100)) ∧
    (∃ u, (toS (to0 (.pwquota gss) 3 (List.replicate 64 0) (some 100))).applyTable 0 (to0 (.pwquota gss) 3 (List.replicate 64 0) (some 100)) = .ok u) ∧
    (let t := { to0 (.pwquota gss) 3 (List.replicate 64 0) (some 100) with applied := true, saves := [2] }
     HasRunner (toS t) 0 ∧ ((toS t).rn 0).tabop = some t ∧ (toS t).mem.reqs = [] ∧ ((toS t).rn 0).stopReq = false ∧ t.need ≤ t.img.length ∧
       t.bad = false) :=
  ⟨ready_of rfl (by decide +kernel) (by decide) rfl, by decide +kernel, ok_of (by decide +kernel), err_of (by decide +kernel),
    ready_of rfl (by decide +kernel) (by decide) rfl, ok_of (by decide +kernel), hr (by decide +kernel), by decide +kernel⟩
/-- Images at the ends of their ranges: owners 1024 and 1025, weights 1 and 65535 with PMAX 7, a reserved bit; quanta 0 and 10000; a rotation
with a key index free, and one while a sweep runs. -/
theorem wit_TableImages :
    (∀ v ∈ [1, 65535 + 7 * 2 ^ 32], v < 2 ^ 128 ∧ bits v 16 16 = 0 ∧ bits v 35 93 = 0 ∧ bits v 0 16 ≠ 0) ∧
    (∀ v ∈ [0, 2 ^ 12 + 10000 * 2 ^ 96], bits v 0 2 = 0 ∧ bits v 14 82 = 0 ∧ bits v 96 32 ≤ 10000 ∧ v.testBit 13 = false ∧ bits v 2 10 = 0) ∧
    (let v := 2 ^ 512 - 2 ^ 256 + 512 * 2 ^ 112 + 256 * 2 ^ 96 + 4096 * 2 ^ 80 + 256 * 2 ^ 64 + 2
     resv v [(128, 128), (105, 7), (93, 3), (73, 7), (3, 61), (0, 1)] = false ∧ bits v 1 2 ≠ 3 ∧ (quotaImg v).maxrun ≤ 256 ∧
       (quotaImg v).maxlease ≤ 256 ∧
       (quotaImg v).keymax ≤ 4096 ∧ (quotaImg v).qslot ≤ 512 ∧ (quotaImg v).mode = .fixed ∧
       ∀ p ≤ 1024, p ≠ 3 → (State.reset.tabs.quotaOf p).mode = .fixed → (State.reset.tabs.quotaOf p).rmask &&& (quotaImg v).rmask = 0) ∧
    resv (1 + 2 ^ 16) [(35, 93), (16, 16)] = true ∧
    ((W.tabs.tkey 0).sweep = false ∧ (List.range 4096).find? (fun i => (aget W.tabs.keys i).isNone) = some 0 ∧
      (W.tabs.keys.filter fun q => q.2.owner == 0).length < (W.tabs.quotaOf 0).keymax) ∧
    (let s := { W with tabs := { Tables.reset with tkeys := [(3, { curgen := false, sweep := true, mem0 := none, mem1 := none, sealIx := none, rotcnt := 0, sealctr := 0, ctxn := 0 })] } }
     (s.tabs.tkey 3).sweep = true) := by decide +kernel
/-- Pleat 15 made smaller and owned, or not: the unit of all 384 channels is 3·2^19 bytes. -/
def plImg (own : Nat) : Nat := 1 + 3 * 2 ^ 21 * 2 ^ 128 + own * 2 ^ 192 + 4 * 2 ^ 208 + 0xFFF * 2 ^ 212 + 0xFFFFFFFF * 2 ^ 224
theorem wit_pleatImages :
    (∀ own ∈ [0x7FF, 0, 1024],
      let p := pleatImg (plImg own)
      resv (plImg own) [(203, 5), (184, 8), (120, 8), (1, 63)] = false ∧ (plImg own).testBit 0 = true ∧ (p.owner ≤ 1024 ∨ p.owner = 0x7FF) ∧
        p.Fits ∧ (∀ z ∈ W.tabs.pleats, z.1 = 15) ∧ W.tabs.basesOf 15 p = some [] ∧ W.tabs.leaves = [] ∧ (W.tabs.allocPleat 15 p).isSome = true) ∧
    ((plImg 3 - 1).testBit 0 = false ∧ resv (plImg 3 - 1) [(203, 5), (184, 8), (120, 8), (1, 63)] = false) ∧
    (let t := { Tables.reset with leaves := [{ owner := 3, va := 0x100000, size := 0x10000, pa := 0x300000, so := false, p := true, w := true, r := true, gen := false, swept := 0 }] }
     ∃ q, aget t.pleats 15 = some q ∧ ∃ e ∈ t.leaves, meets e.pa e.size q.pbase q.len = true) ∧
    (∀ own ∈ [0x7FF, 1024],
      let v := own * 2 ^ 64 + 2 ^ 62 + 1
      bits v 75 53 = 0 ∧ bits v 64 11 = own ∧ (∀ k < 64, v.testBit k = true → k % 8 ≠ 7) ∧
        ∀ z ∈ W.tabs.pleats, 383 ∈ z.2.chans → z.2.owner = 0x7FF ∨ z.2.owner = own) :=
  ⟨by unfold Pleat.Fits; decide +kernel, by decide +kernel, ⟨_, rfl, _, List.mem_singleton.mpr rfl, by decide +kernel⟩, by decide +kernel⟩
/-- A lease of 2 MiB from peer 2, and the entries it meets. -/
def leV (role state : Nat) : Nat :=
  role + 4 * state + 2 ^ 32 + 2 * 2 ^ 48 + (if role = 1 then farBase else 0) * 2 ^ 64 + 2 ^ 21 * 2 ^ 128 + 1000 * 2 ^ 320
def leT (l : List (Nat × Lease)) : State :=
  { W with bnd := { W.bnd with rigal := [{ peer := 2, m := 5, ports := 1, step := 4, initiator := true, isOpen := true, flits := 0, flitsIn := 0,
                                           rekeying := false, script := [], secret := [], keys := [], at_ := 0 }] }
           tabs := { Tables.reset with leases := l, pleats := [(1, { pleatImg (plImg 0) with bases := [] })] } }
theorem wit_leaseImages :
    (∀ role ∈ [1, 2], ∀ st ∈ [0, 1, 2], resv (leV role st) [(352, 32), (248, 8), (184, 8), (120, 8), (15, 17)] = false ∧
      leaseBad (leV role st) = false ∧
      bits (leV role st) 2 2 = st ∧ (leaseImg (leV role st)).lessor = (role == 2)) ∧
    (∀ role ∈ [1, 2],
      let e := leaseImg (leV role 1)
      let s := leT []
      s.trusted e.peer = true ∧ (e.lessor = true → s.tabs.inPleats e.owner e.lbase e.len = true ∧ s.tabs.anyMapped e.lbase e.len = false) ∧
        (s.tabs.leases.filter fun z => z.2.owner == e.owner).length + 1 ≤ (s.tabs.quotaOf e.owner).maxlease) ∧
    (∀ role ∈ [1, 2],
      let c := leaseImg (leV role 1)
      aget (leT [(4, c)]).tabs.leases 4 = some c ∧ c.revoking = false ∧ c.same (leaseImg (leV role 2)) = true ∧
        c.same (leaseImg (leV (3 - role) 2)) = false ∧ (leT [(4, c)]).tabs.anyMapped c.lbase c.len = false) ∧
    (leaseImg (leV 1 2)).revoking = true := by decide +kernel
/-- Keys of each kind for owner 3, none loaded before, and a key to clear. -/
theorem wit_keyImages :
    (∀ kind ∈ [1, 2, 3], ∀ g ∈ [0, 1],
      let img : List Byte := [3, 0, BitVec.ofNat 8 kind, BitVec.ofNat 8 g, if kind = 3 then 9 else 0, 0, 0, 0] ++ List.replicate 56 0
      let s := { W with tabs := { Tables.reset with
        ktk := some 5, quota := [(3, { rmask := 1, qslot := 4, maxlease := 4, keymax := 1, maxrun := 4, mode := .shared })] } }
      fieldLe img 6 2 = 0 ∧ fieldLe img 48 16 = 0 ∧ fieldLe img 0 2 = 3 ∧ fieldLe img 2 1 = kind ∧ fieldLe img 3 1 = g ∧
        (kind = 3 ∨ fieldLe img 4 2 = 0) ∧ aget s.tabs.keys 4095 = none ∧ (s.tabs.tkey 3).mem0 = none ∧ (s.tabs.tkey 3).mem1 = none ∧
        (s.tabs.tkey 3).sealIx = none ∧ (s.tabs.keys.filter fun q => q.2.owner == 3).length + 1 ≤ (s.tabs.quotaOf 3).keymax ∧ s.tabs.ktk = some 5) ∧
    (let img : List Byte := [3, 0] ++ List.replicate 62 0
     fieldLe img 2 1 = 0 ∧ fieldLe img 0 2 = 3 ∧ leNat ((img.drop 8).take 40) = 0 ∧
       ∀ q ∈ [KeyKind.mem, .seal], ∃ e, aget [(2, ({ key := 5, modelid := 0, owner := 3, gen := false, kind := q } : KeyE))] 2 = some e ∧
         e.kind = q) :=
  ⟨by decide +kernel, by decide +kernel, by decide +kernel, by decide +kernel, fun _ _ => ⟨_, rfl, rfl⟩⟩
/-- A TDEF of Basin tile 200 at 0x8000: four rows of 128 bytes of f32; and one of format code 31. -/
def tdImg (f : Byte) : List Byte := [0, 0x80, 0, 0, 0, 0, 0, 0, 0x80, 0, 3, f] ++ List.replicate 20 0
theorem wit_Tdef :
    (∃ e, (toS (to0 (.tdef gss) 200 (tdImg 9) none)).tileMade 0 (tw 200) (tdImg 9) = .ok e) ∧
    (toS (to0 (.tdef gss) 200 (tdImg 31) none)).tileMade 0 (tw 200) (tdImg 31) = .error 2 ∧
    (∀ f ∈ [9, 31], TableReady (toS (to0 (.tdef gss) 200 (tdImg f) none)) 0 (to0 (.tdef gss) 200 (tdImg f) none) ∧
      (to0 (.tdef gss) 200 (tdImg f) none).tile ((toS (to0 (.tdef gss) 200 (tdImg f) none)).rn 0) = some (tw 200)) :=
  ⟨ok_of (by decide +kernel), err_of (by decide +kernel), fun f hf => by
    simp only [List.mem_cons, List.not_mem_nil, or_false] at hf
    rcases hf with rfl | rfl <;> exact ⟨ready_of rfl (by decide +kernel) (by decide) rfl, by decide +kernel⟩⟩

/-- A heat of owner 3, its queue, and a state with a squad of runner 0. -/
def obj0 : Obj :=
  { codeA := [], codeC := [], tabA := [], tabC := [], entryA := 0, entryC := 0, vecA := none, vecC := none, data := [], shapes := [], tub := none,
    vat := none, exts := [], nrun := 1, h := false }
def heat0 : Heat :=
  { id := 7, owner := 3, queue := 3 * 1024, token := 0, pkt := pkt0, obj := obj0, nsq := 1, csw := 0, slip := 0, dies := 15, arg := 0, ranges := [],
    shapes := [], wbind := none, level := 0, paused := false, stale := false, audit := false, ended := none, detail := 0, xaddr := 0 }
def fwS (f : Fw → Fw) (g : Runner → Runner) : State := { Y g with fw := f { W.fw with squads := [sq [0]], heats := [heat0] }, bnd := { W.bnd with released := true } }
theorem wit_RunnersLeave :
    (let s := fwS (fun w => { w with squads := [{ sq [0] with state := .saving }] }) fun x => { x with preempt := true }
     HasRunner s 0 ∧ s.squadOf (s.rn 0) = some { sq [0] with state := .saving } ∧ (s.rn 0).preempt = true ∧ (s.rn 0).ackm = 0 ∧
       ∀ it ∈ [AckItem.a, .c, .press, .sprinter, .relay], s.ackReady 0 it = true) ∧
    (let s := fwS (fun w => { w with squads := [{ sq [0] with state := .saving }] }) fun x => { x with preempt := true, ackm := 2 }
     ∀ it ∈ [AckItem.va, .vb], s.ackReady 0 it = true) ∧
    (let s := fwS (fun w => { w with squads := [{ sq [0] with state := .saving }], saving := [{ run := 0, due := 100, base := 0x40000000, split := none }] }) fun x => { x with ackm := 0x7F }
     s.fw.saving.find? (fun e => e.run == 0) = some { run := 0, due := 100, base := 0x40000000, split := none } ∧
       s.squadOf (s.rn 0) = some { sq [0] with state := .saving } ∧
       s.fw.saving.filter (fun e => e.run != 0) = [] ∧ s.heat (sq [0]).heat = some heat0 ∧ heat0.ended = none) ∧
    (∀ d ∈ [100, 101],
      let s := fwS (fun w => { w with releasing := [(0, d)] }) id
      s.fw.releasing.find? (fun e => e.1 == 0) = some (0, d) ∧ s.cycle = 100) ∧
    (let s := { (fwS id fun x => { x with squad := none }) with cycle := usec 200 }
     s.bnd.released = true ∧ s.idle 0 = true ∧ (s.rn 0).gated = false ∧ (s.rn 0).idleAt + usec 200 ≤ s.cycle) ∧
    (let s := fwS (fun w => { w with tests := [0] }) fun x => { x with squad := none, withdrawn := true }
     HasRunner s 0 ∧ s.fw.tests.contains 0 = true ∧ s.squadOf (s.rn 0) = none) :=
  ⟨⟨hr (by decide +kernel), by decide +kernel⟩, by decide +kernel, by decide +kernel, by decide +kernel,
    by decide +kernel, hr (by decide +kernel), by decide +kernel⟩
/-- Owner 0 with a ready squad, and without one. -/
theorem wit_SchedulingRounds :
    (let s := { fwS (fun w => { w with squads := [{ sq [] with owner := 0, nrun := 1, state := .ready }], heats := [{ heat0 with owner := 0 }] }) id with cycle := usec 10 }
     s.bnd.released = true ∧ s.cycle % usec 10 = 0 ∧ (s.tabs.ownersOf 0x7FF).Nodup ∧ 0 ∈ s.readyOwners 0x7FF 0 ∧ 0 ∉ s.readyOwners 0x7FF 1 ∧
       0 ∈ s.tabs.ownersOf 0x7FF) ∧ usec 10000 % usec 10000 = 0 ∧ W.cycle % usec 10000 ≠ 0 ∧ W.cycle % usec 10 ≠ 0 := by decide +kernel
/-- A queue of function 3 with a packet in its ring, in slot 5 of die 1. -/
def d0 : QDesc :=
  { rbase := 0x100000, rsize := 4, prio := 0, die := 1, cmode := false, ecount := 0, esize := 0, etime := 1, rptr := 0, evbase := 0, ewptr := 0, econ := 0, vector := 1 }
def q0 : Queue :=
  { func := 3, qid := 0, d := d0, token := 0, read := 0, bell := 1, bellAt := 0, bellIn := 1, slot := some 133, parked := none, pend := [], blk := none,
    npSince := none, late := [], evW := 0, eovf := 0, unsig := 0, firstUnsig := none, stopped := false, serial := 0 }
def leaf0 : Leaf := { owner := 3, va := 0x100000, size := 0x10000, pa := 0x300000, so := false, p := true, w := true, r := true, gen := false, swept := 0 }
def fn (tdi : Tdi) : Func :=
  { n := 3, enabled := true, cqdesc := List.replicate 64 0, cqen := false, stop := false, tdi := tdi, msix := [(28, 0)], pba := [1], bells := [] }
def qS (now : Nat) (f : Queue → Queue) (g : Fw → Fw) : State :=
  { Y id with
    cycle := now
    bnd := { W.bnd with released := true, funcs := [(3, fn .unlocked)] }
    tabs := { Tables.reset with leaves := [leaf0] }
    fw := g { W.fw with queues := [(qKey 3 0, f q0)] } }
def wl : Pkt := { pkt0 with queue := qKey 3 0, func := 3, opc := 0x0D, body := natLe 8 0x100000 ++ natLe 8 0x108000 ++ natLe 8 4096 ++ natLe 16 0 }
def cmdOf (p : Pkt) (steps : Nat) : Cmd := { cmd0 [] with pkt := p, steps := steps }
def le0 (lessor revoking : Bool) (dl : Nat) : Lease :=
  { notice := 5, deadline := dl, rbase := 0, len := 4096, lbase := 0x300000, peer := 2, ports := 1, owner := 3, revoking := revoking, lessor := lessor, seqNo := 0,
    applied := [], noPorts := false, unanswered := [], resv := [] }
def leS (e : Lease) : State := { Y id with cycle := 14000, tabs := { Tables.reset with leases := [(4, e)], leaves := [leaf0] } }
theorem wit_FirmwareVisits :
    (let s := qS (3584 + 28 * 5) id id
     s.bnd.released = true ∧ slotBegins s.cycle 5 = true ∧ s.inSlot (1 * 128 + 5) = some q0 ∧ s.queue (qKey 3 0) = some q0 ∧ s.acceptable q0 = true) ∧
    (let s := qS (3584 + 28 * 5) (fun q => { q with stopped := true }) id
     s.inSlot (1 * 128 + 5) = some { q0 with stopped := true } ∧ s.acceptable { q0 with stopped := true } = false) ∧
    (∀ c ∈ [10 + usec 64, 10 + usec 64 - 1],
      let s := qS c (fun q => { q with npSince := some 10, blk := some wl }) id
      s.queue (qKey 3 0) = some { q0 with npSince := some 10, blk := some wl } ∧ s.cycle = c ∧ q0.slot.isSome = true ∧
        isPfCtl q0.func q0.qid = false) ∧
    (let s := qS 100 id fun w => { w with queues := [(qKey 0 0, { q0 with func := 0 })] }
     s.queue (qKey 0 0) = some { q0 with func := 0 } ∧ isPfCtl 0 0 = true) ∧
    (let s := qS 17 id fun w => { w with cmds := [{ cmdOf wl 0 with id := 4, pkt := { wl with acc := 9 } }, cmdOf wl 0] }
     s.bnd.released = true ∧ s.cycle % 28 = 17) ∧ (qS 100 id id).cycle % 28 ≠ 17 ∧
    (let s := qS 100 id fun w => { w with cmds := [cmdOf wl 0] }
     s.fw.cmds = [cmdOf wl 0] ∧ wl.opc = 0x0D ∧ 0 < wsetChunks wl ∧ s.present 3 (fld wl 24 8 + 4112 * 0) 4112 = true) ∧
    (let s := qS 17 id fun w => { w with clearing := [(0x300000, 256)] }
     s.bnd.released = true ∧ s.cycle % 28 = 17 ∧ s.fw.clearing = [(0x300000, 256)] ∧ s.fw.scrubs = []) ∧
    (let s := qS (50 + usec 1) (fun q => { q with d := { d0 with ecount := 4 }, firstUnsig := some 50 }) id
     s.queue (qKey 3 0) = some { q0 with d := { d0 with ecount := 4 }, firstUnsig := some 50 } ∧ 50 + usec 1 ≤ s.cycle ∧
       ((s.func 3).msixByte (16 * 1 + 12)).getLsbD 0 = false) ∧
    (∀ l ∈ [true, false],
      let s := leS (le0 l true 1000)
      aget s.tabs.leases 4 = some (le0 l true 1000) ∧ 1000 ≤ nowNs s.cycle ∧ pclass 0x300000 ≠ .host ∧ s.mem.phys.wf ∧ s.fw.heats = [] ∧
        s.fw.squads = [] ∧
        ∀ f ∈ s.tabs.leaves, 0 < f.size) ∧
    nowNs 14000 < 10 ^ 6 :=
  by decide +kernel

/-! ### Witnesses: packets and commands -/

def z8 : List Byte := natLe 8 0
def pkt (opc : Nat) (body : List Byte) : Pkt := { pkt0 with queue := qKey 3 0, func := 3, opc := opc, body := body }
/-- Owner 3 with one page at 0x100000 whose bytes are given, a memory key and work in its queue. -/
def mS (bytes : List Byte) (f : Fw → Fw) (g : Tables → Tables) : State :=
  { qS 100 id f with
    mem := { MemSys.reset with phys := Memory.write [] 0x300000 bytes }
    tabs := g { Tables.reset with
      leaves := [leaf0]
      quota := [(3, { rmask := 1, qslot := 4, maxlease := 4, keymax := 4, maxrun := 4, mode := .fixed })]
      tkeys := [(3, { curgen := false, sweep := false, mem0 := some 0, mem1 := none, sealIx := none, rotcnt := 0, sealctr := 0, ctxn := 0 })] } }
/-- WAIT for the word at 0x100000 to be above 4 (COND 3); BARRIER_PKT on two words. -/
def waitP : Pkt := pkt 2 (natLe 8 0x100000 ++ natLe 8 4 ++ [3] ++ List.replicate 23 0)
theorem wit_SimplePackets :
    (mS [] id id).queue (pkt 0 []).queue = some q0 ∧ (mS [] id id).queue waitP.queue = some q0 ∧
    (let s := mS (natLe 8 5) (fun w => { w with queues := [(qKey 3 0, { q0 with blk := some waitP })] }) id
     s.queue (qKey 3 0) = some { q0 with blk := some waitP } ∧ s.waitPresent waitP = true ∧
       ∀ w ∈ waitWords waitP, w.2 (s.fwNat waitP.func w.1 8) = true) ∧
    waitP.opc = 2 ∧ fld waitP 40 1 = 3 ∧
    (let p := { pkt 0 [] with cwaddr := 0x100010 }
     q0.late = [] ∧ (mS [] id id).storable p = true ∧ p.flags.getLsbD 1 = false ∧ q0.d.cmode = false) ∧
    (mS [] id id).storable { pkt 0 [] with cwaddr := 0x200000 } = false ∧
    (W.queue (pkt 0 []).queue = none ∧ W.storable { pkt 0 [] with cwaddr := 0x200000 } = false) ∧
    ((mS [] id id).fwSpans 3 0x10FFF8 8 = some [(some leaf0, 0x30FFF8, 8)] ∧ pclass 0x30FFF8 = .hbm ∧ 0x30FFF8 % 256 + 8 ≤ 256) ∧
    (∀ t ∈ [Tdi.run, .unlocked],
      let s := { mS [] id fun z => { z with leaves := [{ leaf0 with pa := hostBase }] } with bnd := { W.bnd with funcs := [(3, fn t)] } }
      s.fwSpans 3 0x10FFF8 8 = some [(some { leaf0 with pa := hostBase }, hostBase + 0xFFF8, 8)] ∧ pclass (hostBase + 0xFFF8) = .host ∧
        s.hostShut 3 = (t == .unlocked)) := by decide +kernel
/-- A small object: one bundle of each stream, one runner. -/
def objBytes : List Byte :=
  [0x53, 0x4B, 0x4F, 0, 1, 0, 0, 0, 0, 0, 0, 0, 3, 0, 0, 0] ++ natLe 8 64 ++ natLe 8 0 ++ natLe 8 208 ++ List.replicate 24 0 ++
  ([1, 0, 0, 0, 0xFF, 0, 0, 0] ++ natLe 8 160 ++ natLe 8 16 ++ z8) ++ ([2, 0, 0, 0, 0xFF, 0, 0, 0] ++ natLe 8 176 ++ natLe 8 16 ++ z8) ++
  ([8, 0, 0, 0, 0xFF, 0, 0, 0] ++ natLe 8 192 ++ natLe 8 8 ++ z8) ++ List.replicate 48 0
def launchP (flags : Byte) : Pkt := { pkt 1 (natLe 8 0x100000 ++ z8 ++ natLe 8 0x108000 ++ [1, 0, flags, 0, 0, 0, 0, 0] ++ z8) with serial := 9 }
theorem wit_LaunchMakesAHeat :
    (mS objBytes id id).fw.scrubs.contains 3 = false ∧ (∃ h, (mS objBytes id id).launchHeat (launchP 0) = .ok h) ∧
    (∃ e, (mS [] id id).launchHeat (launchP 0) = .error e) ∧ (mS objBytes (fun w => { w with scrubs := [3] }) id).fw.scrubs.contains 3 = true ∧
    (fld (launchP 0x20) 50 1).testBit 5 = true ∧ ¬((launchP 0x20).func = 0 ∧ (launchP 0x20).qid = 0) ∧ (fld (launchP 0) 50 1).testBit 5 = false ∧
    (W.tabs.quotaInForce 3).mode = .none ∧ (W.squadsOf heat0).length = 1 :=
  ⟨by decide +kernel, ok_of (by decide +kernel), ⟨.objectRefused, by decide +kernel⟩, by decide +kernel⟩
/-- MAP of two pages of pleat 15, UNMAP and MIGRATE of the page, reset and closing of the queue, CTXSAVE, WSETLOAD, VFSTOP. -/
def memP (opc : Nat) (va len : Nat) : Pkt := pkt opc (natLe 8 va ++ natLe 8 len ++ [0, 15, 7, 0, 0xFF, 0xFF] ++ List.replicate 18 0)
def resetP : Pkt := pkt 0x0A ([0, 0, 0xFF, 0xFF] ++ List.replicate 36 0)
def closeP : Pkt := pkt 0x13 (List.replicate 40 0)
def saveP : Pkt := pkt 0x0B (natLe 8 7 ++ natLe 8 0x101000 ++ natLe 4 4 ++ List.replicate 20 0)
theorem wit_LongCommandsBegin :
    (let s := mS [] id id
     let p := memP 5 0x200000 0x2000
     (∀ l ∈ s.tabs.leaves, 0 < l.size) ∧ (∀ c ∈ s.fw.cmds, c.id < s.seq) ∧ s.fw.cmds = [] ∧ s.tierRange p = .ok (0, hbmBytes) ∧
       s.mapPages p (0, hbmBytes) = some [0, 4096] ∧ s.cmdLeaves p = [] ∧ (∀ q ∈ s.mem.reqs, q.id = 0) ∧
       (∀ a ∈ [0, 4096], pclass a = .hbm ∧ s.chanOf a ≠ none) ∧ ∀ c < 16, s.chanOf (256 * c) ≠ none ∧ s.chanOf (4096 + 256 * c + 255) ≠ none) ∧
    (let p := { pkt 5 (natLe 8 0x200000 ++ natLe 8 0x2000 ++ [3, 0, 7, 0, 0xFF, 0xFF] ++ natLe 8 0 ++ List.replicate 10 0) with func := 0, queue := qKey 0 0 }
     let s := { mS [] id id with fw := { W.fw with queues := [(qKey 0 0, { q0 with func := 0 })] } }
     (∀ l ∈ s.tabs.leaves, 0 < l.size) ∧ s.fw.cmds = [] ∧ s.mem.reqs = [] ∧ s.tierRange p = .ok (hostBase, hostBase + 0x2000) ∧
       s.mapPages p (hostBase, hostBase + 0x2000) = some [hostBase, hostBase + 4096] ∧ s.cmdLeaves p = [] ∧
       ∀ a ∈ [hostBase, hostBase + 4096], pclass a = .host) ∧
    (let s := mS [] id id
     let p := memP 6 0x100000 0x10000
     s.cmdLeaves p = [leaf0] ∧ partIn p leaf0 = false ∧ s.tierRange (memP 7 0x100000 0x10000) = .ok (0, hbmBytes) ∧
       placeRuns 0 hbmBytes (leafRuns (s.cmdLeaves (memP 7 0x100000 0x10000))) s.usedPages = some [(0, 0x10000)]) ∧
    ((mS [] id id).queue (resetTarget resetP)).isSome = true ∧ ((mS [] id id).queue (resetTarget closeP)).isSome = true ∧
      W.queue (resetTarget resetP) = none ∧
    fld resetP 24 2 ≤ 1023 ∧ fld closeP 24 2 ≤ 1023 ∧ 1023 < fld (pkt 0x0A ([0, 4, 0xFF, 0xFF] ++ List.replicate 36 0)) 24 2 ∧
    (let s := mS [] (fun w => { w with heats := [heat0], squads := [sq [0]] }) id
     s.ctxHeat saveP = .ok heat0 ∧ (s.tabs.tkey 3).ctxn < 2 ^ 64 - 1 ∧ (s.fw.squads.map (·.id)).Nodup) ∧
    (let s := mS [] id fun t => { t with keys := [(2, { key := 5, modelid := 0, owner := 3, gen := false, kind := .model })] }
     s.tabs.keys.find? (fun e => e.2.owner == wl.func && e.2.kind == .model && e.2.modelid == fld wl 48 2) =
         some (2, { key := 5, modelid := 0, owner := 3, gen := false, kind := .model }) ∧
       s.wsetBusy wl.func (fld wl 48 2) (fld wl 50 1 == 1) = false ∧ (s.tabs.wsets.filter fun w => w.owner == wl.func).length < 64 ∧ s.fw.cmds = []) ∧
    (mS [] id id).tabs.keys.find? (fun e => e.2.owner == wl.func && e.2.kind == .model && e.2.modelid == fld wl 48 2) = none ∧
    (mS [5] id id).mem.phys.wf = true ∧ pclass 0x300000 ≠ .host ∧ 0x300000 < 0x300000 + pageSize 0 := by decide +kernel
/-- Commands at work that may go on. -/
def going (c : Cmd) (f : Fw → Fw) (g : Tables → Tables) : State := mS [] (fun w => f { w with cmds := [c] }) g
theorem wit_LongCommandsEnd :
    (let c := { cmdOf (memP 6 0x100000 0x10000) 1 with due := 100 }
     GoesOn (going c id id) 1 c ∧ c.due ≤ (going c id id).cycle) ∧
    (let c := { cmdOf (memP 7 0x100000 0x10000) 1 with due := 60, pages := [(0, 0x10000)] }
     let s := { going c id id with cycle := 60 }
     GoesOn s 1 c ∧ c.due ≤ s.cycle ∧ c.acks = [] ∧ s.cmdLeaves c.pkt = [leaf0] ∧ c.pages = [(0, leaf0.size)]) ∧
    (∀ b ∈ [false, true],
      let c := { cmdOf (memP 7 0x100000 0x10000) 2 with due := 60, pages := [(0, 0x10000)] }
      let s := { going c id id with mem := { MemSys.reset with reqs := if b then [rq (.fw 1 3) none] else [] } }
      GoesOn s 1 c ∧ c.due ≤ s.cycle ∧ s.cmdLeaves c.pkt = [leaf0] ∧ (leafRuns (s.cmdLeaves c.pkt)).flatten ≠ [] ∧ c.pages ≠ [] ∧ s.tagBusy 1 = b) ∧
    (∀ b ∈ [false, true],
      let c := { cmdOf (memP 5 0x200000 0x2000) 2 with due := 100, pages := [(0, 4096), (4096, 4096)] }
      let s := { going c id id with mem := { MemSys.reset with reqs := if b then [rq (.fw 1 3) none] else [] } }
      GoesOn s 1 c ∧ c.acks = [] ∧ c.due ≤ s.cycle ∧ s.tagBusy 1 = b) ∧
    (let c := { cmdOf (memP 5 0x100000 0x10000) 1 with acks := [2] }
     GoesOn (going c id id) 1 c) := by unfold GoesOn; decide +kernel
theorem wit_queuesEnd :
    (let c := { cmdOf resetP 0 with due := 101 }
     let s := going c id id
     GoesOn s 1 c ∧ s.fw.heats = [] ∧ s.fw.releasing = [] ∧ s.cycle < c.due ∧ s.writesOut (resetTarget c.pkt) = false ∧
       s.queue (resetTarget c.pkt) = some q0) ∧
    (let c := { cmdOf closeP 0 with due := 101 }
     let s := going c id id
     GoesOn s 1 c ∧ s.cycle < c.due ∧ s.writesOut (resetTarget c.pkt) = false ∧ s.queue (resetTarget c.pkt) = some q0) ∧
    (∀ p ∈ [resetP, closeP],
      let c := { cmdOf p 0 with due := 101 }
      let s := going c (fun w => { w with heats := [heat0] }) id
      GoesOn s 1 c ∧ s.cycle < c.due ∧ ∃ h ∈ s.fw.heats, h.queue = resetTarget c.pkt) ∧
    (let c := { cmdOf { pkt 0x13 (List.replicate 40 0) with queue := 2 ^ 40 } 0 with queued := true }
     let d := { cmdOf (pkt 0x13 [1]) 0 with id := 2 }
     let s := going c (fun w => { w with cmds := [c, d] }) id
     GoesOn s 1 c ∧ (∃ d ∈ s.fw.cmds, d.id ≠ 1 ∧ d.pkt.opc = 0x13 ∧ d.pkt.func = c.pkt.func) ∧ GoesOn (going c id id) 1 c ∧
       (∀ d ∈ (going c id id).fw.cmds, d.id ≠ 1 → ¬(d.pkt.opc = 0x13 ∧ d.pkt.func = c.pkt.func)) ∧ c.pkt.queue ≠ resetTarget c.pkt ∧
       (going c id id).queue (resetTarget c.pkt) = some q0) := by unfold GoesOn; decide +kernel
theorem wit_othersEnd :
    (let c := cmdOf saveP 0
     GoesOn (going c id id) 1 c ∧ (going c id id).fw.squads = [] ∧ ((going c id id).savedOf 7).length ≤ fld c.pkt 40 4) ∧
    (let c := { cmdOf (pkt 0x14 []) 0 with acks := [2 ^ 16] }
     let s := { going c id id with runners := [{ w1 with squad := none }] }
     GoesOn s 1 c ∧ s.fw.releasing = [] ∧ ∀ a ∈ c.acks, (s.rn (a - 2 ^ 16)).squad = none) ∧
    (let c := { cmdOf (pkt 0x21 [5, 0]) 0 with due := 200 }
     GoesOn (going c id id) 1 c ∧ (going c id id).cycle < c.due ∧ ∀ d ∈ (going c id id).fw.cmds, d.pkt.queue ≠ qKey (fld c.pkt 24 2) 0) ∧
    (let c := cmdOf wl 1
     (going c id id).fw.cmds = [c] ∧ wsetChunks c.pkt ≤ c.steps ∧ (going c id id).present 3 (fld c.pkt 32 8) (fld c.pkt 40 8) = true) ∧
    (∀ d ∈ [99, 100],
      let c := { cmdOf (pkt 0x10 (List.replicate 40 0)) 0 with due := d }
      GoesOn (going c id id) 1 c ∧ (going c id id).cycle = 100) := by unfold GoesOn; decide +kernel
def partP (ix : List Byte) : Pkt := { pkt0 with opc := 0x20, body := [2, 0] ++ ix ++ [0, 0, 0, 0] ++ natLe 8 hostBase ++ List.replicate 24 0 }
/-- PART with its image, behind a lease of the PF and by itself; a quota whose pre-emptions are over, or not. -/
theorem wit_partsEnd :
    (let c := { cmdOf (partP [3, 0]) 0 with queued := true, img := natLe 16 5 }
     let s := going c (fun w => { w with cmds := [{ cmdOf (pkt 0x08 []) 0 with id := 0 }, c] }) id
     GoesOn s 1 c ∧ fld c.pkt 24 1 ≠ 3 ∧ s.writeBlocked 1 none = true) ∧
    (let c := { cmdOf (partP [3, 0]) 0 with queued := true, img := natLe 16 5 }
     let s := going c id id
     GoesOn s 1 c ∧ fld c.pkt 24 1 ≠ 3 ∧ fld c.pkt 24 1 ≠ 0 ∧ s.writeBlocked 1 none = false ∧
       ∃ u, s.putTable (fld c.pkt 24 1) (fld c.pkt 26 2) c.img (fld c.pkt 32 8 % 16 == 0) false = .ok u) ∧
    (let c := cmdOf { partP [3, 0] with body := [0, 0, 3] ++ List.replicate 37 0 } 0
     GoesOn (going c id id) 1 c ∧ fld c.pkt 24 1 = 0) := by
  refine ⟨?_, ⟨?_, by decide +kernel, by decide +kernel, by decide +kernel, ok_of (by decide +kernel)⟩, ?_⟩ <;> unfold GoesOn <;> decide +kernel

/-- A write set's model, with set 1 loaded and set 0 not. -/
def wm0 : WModel := { owner := 3, model := 0, s0 := { base := 0, len := 0, loaded := false }, s1 := { base := 0x101000, len := 4096, loaded := true }, cur := false }
def swP (k : Byte) : Pkt := pkt 0x0E ([0, 0, k] ++ List.replicate 37 0)
def hostS (b : List Byte) (f : Boundary → Boundary) (g : Tables → Tables) : State :=
  { W with mem := { MemSys.reset with phys := Memory.write [] hostBase b }, bnd := f W.bnd, tabs := g Tables.reset }
/-- A lease image: a window of the far tier of 2 MiB from peer 2, ports 1, notice 1000. -/
def leImg : Nat := 5 + 2 ^ 32 + 2 * 2 ^ 48 + 2 ^ 44 * 2 ^ 64 + 2 ^ 21 * 2 ^ 128 + 1000 * 2 ^ 320
/-- The lease itself, ACTIVE, and the image that begins its revocation. -/
def leAct (t : Tables) : Tables := { t with leases := [(4, { leaseImg leImg with revoking := false })] }
def leP : Pkt := { pkt0 with opc := 8, body := natLe 8 hostBase ++ [4, 0] ++ List.replicate 30 0 }
def rg (step : Nat) (ini opn : Bool) (m : BitVec 256) : Rigal := { peer := 2, m := m, ports := 1, step := step, initiator := ini, isOpen := opn, flits := 3, flitsIn := 0, rekeying := false, script := [], secret := [], keys := [], at_ := 0 }
def qd : List Byte := natLe 8 hostBase ++ [4, 0, 1, 0, 0, 0, 0, 0] ++ natLe 8 (hostBase + 8) ++ List.replicate 8 0 ++ natLe 8 (hostBase + 16) ++ natLe 8 (hostBase + 32) ++ [1, 0] ++ List.replicate 14 0
theorem wit_ShortCommands :
    (let s := mS [] id fun t => { t with wsets := [wm0] }
     s.tabs.wmodel 3 (fld (swP 1) 24 2) = some wm0 ∧ (wm0.set (fld (swP 1) 26 1 == 1)).loaded = true ∧
       (wm0.set (fld (swP 0) 26 1 == 1)).loaded = false) ∧
    (let p := { pkt0 with body := [0, 0, 0, 0, 9, 0] ++ List.replicate 34 0 }
     p.func = 0 ∧ fld p 28 2 ≠ 0xFFFF) ∧
    (let p := { pkt0 with opc := 0x12, body := natLe 8 hostBase ++ [3, 0] ++ List.replicate 30 0 }
     let s := hostS qd id id
     s.queue (qKey 0 (fld p 32 2)) = none ∧ s.descRefused 0 (s.fwRead 0 (fld p 24 8) 64) = none) ∧
    ((mS [] id id).queue (qKey 3 (fld closeP 32 2))).isSome = true ∧
    (let s := mS [] (fun w => { w with heats := [{ heat0 with paused := true }] }) id
     s.ctxHeat saveP = .ok { heat0 with paused := true } ∧ fieldLe (s.fwRead 3 (fld saveP 32 8) 16) 0 4 = 0 ∧
       s.mapped 3 (fld saveP 32 8) 16 false = true) ∧
    (let s := mS [] (fun w => { w with heats := [{ heat0 with owner := 4 }] }) id
     s.ctxHeat saveP = .error .notPermitted) ∧
    (let p := pkt 0x14 (natLe 8 1 ++ List.replicate 32 0)
     ((mS [] id id).tabs.quotaInForce 3).mode = .fixed ∧
       lentMask (fld p 32 1) (BitVec.ofNat 64 (fld p 24 8)) &&& ~~~((mS [] id id).tabs.quotaInForce 3).rmask = 0) ∧
    (W.tabs.quotaInForce 3).mode ≠ .fixed ∧ (mS [] id id).fw.cmds = [] :=
  ⟨by decide +kernel, by decide +kernel, by decide +kernel, by decide +kernel, by decide +kernel, by decide +kernel, by decide +kernel,
    by decide +kernel,
    by decide +kernel⟩
/-- LEASE: an image that revokes, one that asks its peer, one behind a SCRUB; REVOKE by the PF and by another function. -/
theorem wit_leasePackets :
    (let s := (hostS (natLe 48 (leImg + 4)) id leAct).fwSees 0 (fld leP 24 8) 48
     s.writeBlocked s.seq none = false ∧
       s.asksPeer (fld leP 32 2) (leNat (s.fwRead 0 (fld leP 24 8) 48)) (fld leP 24 8 % 16 == 0) = false) ∧
    (let s := hostS (natLe 48 leImg) (fun b => { b with rigal := [rg 4 true true 5] }) id
     let z := s.fwSees 0 (fld leP 24 8) 48
     z.writeBlocked z.seq none = false ∧ leP.func = 0 ∧
       z.asksPeer (fld leP 32 2) (leNat (s.fwRead 0 (fld leP 24 8) 48)) (fld leP 24 8 % 16 == 0) = true) ∧
    (let s := { hostS (natLe 48 leImg) id id with fw := { W.fw with scrubs := [3] } }
     let z := s.fwSees 0 (fld leP 24 8) 48
     z.writeBlocked z.seq none = true) ∧
    (let p := pkt 9 ([4, 0] ++ List.replicate 38 0)
     aget (leS (le0 true false 0)).tabs.leases (fld p 24 2) = some (le0 true false 0) ∧ p.func = 3 ∧ (le0 true false 0).owner = 3 ∧
       ((leS (le0 true false 0)).tabs.leases.map (·.1)).Nodup) :=
  ⟨by decide +kernel, by decide +kernel, by decide +kernel, by decide +kernel⟩
/-- PART of a weight, and of a quota, alone and behind a SCRUB. -/
theorem wit_partPackets :
    (∀ k ∈ [0, 2],
      let p := { partP [0, 0] with body := (partP [0, 0]).body.set 0 (BitVec.ofNat 8 k) }
      let s := hostS (List.replicate 64 0) id id
      let z := s.fwSees p.func (fld p 32 8) (imageLen (fld p 24 1))
      let y := { s with fw := { W.fw with scrubs := [3] } }.fwSees p.func (fld p 32 8) (imageLen (fld p 24 1))
      fld p 24 1 = k ∧ z.writeBlocked z.seq none = false ∧ y.writeBlocked y.seq none = true) ∧
    fld (partP [0, 0]) 24 1 = 2 ∧ imageLen (fld (partP [0, 0]) 24 1) = 16 := by decide +kernel
theorem wit_partQuota :
    let p := { partP [0, 0] with body := (partP [0, 0]).body.set 0 0 }
    let s := hostS (List.replicate 64 0) id id
    let z := s.fwSees p.func (fld p 32 8) (imageLen 0)
    fld p 24 1 = 0 ∧ ∃ u, z.putQuota (fld p 26 2) (leNat (s.fwRead p.func (fld p 32 8) (imageLen 0))) (fld p 32 8 % 16 == 0) = .ok u :=
  ⟨by decide +kernel, ok_of (by decide +kernel)⟩
theorem wit_ShortCommands2 :
    (let s := hostS (natLe 48 (leImg + 4)) id leAct
     ∃ u, (s.fwSees 0 (fld leP 24 8) 48).putLease (fld leP 32 2) (leNat (s.fwRead 0 (fld leP 24 8) 48)) (fld leP 24 8 % 16 == 0) false = .ok u) ∧
    (∃ u, ((hostS [] id id).fwSees 0 (fld (partP [0, 0]) 32 8) 16).putTable 2 (fld (partP [0, 0]) 26 2) ((hostS [] id id).fwRead 0 (fld (partP [0, 0]) 32 8) 16) true false = .ok u) ∧
    ((hostS [] id id).fwSees 0 (fld (partP [0x80, 1]) 32 8) 16).putTable 2 (fld (partP [0x80, 1]) 26 2) ((hostS [] id id).fwRead 0 (fld (partP [0x80, 1]) 32 8) 16) true false = .error 1 :=
  ⟨ok_of (by decide +kernel), ok_of (by decide +kernel), err_of (by decide +kernel)⟩
/-- Function 3, enabled, in each interface state; its control queue off and on. -/
def fS (z : Func) : State := { qS 100 id id with bnd := { W.bnd with funcs := [(3, z)], released := true } }
theorem wit_FunctionRegisters :
    (((fS (fn .run)).func 3).enabled = true ∧ (W.func 3).enabled = false ∧ (W.func 0).enabled = true) ∧
    (let s := { fS { fn .unlocked with cqdesc := qd } with fw := W.fw }
     (s.func 3).cqen = false ∧ s.bnd.released = true ∧ s.queue (qKey 3 0) = none ∧ s.descRefused 3 (s.func 3).cqdesc = none) ∧
    (fS (fn .unlocked)).descRefused 3 ((fS (fn .unlocked)).func 3).cqdesc = some .badPacket ∧
    (let s := { fS { fn .unlocked with cqen := true } with fw := { W.fw with queues := [(qKey 3 0, q0), (qKey 3 9, { q0 with qid := 9 })] } }
     (s.func 3).cqen = true ∧ s.queue (qKey 3 0) = some q0 ∧ q0.func = 3 ∧ q0.qid = 0 ∧ s.queue (qKey 3 9) = some { q0 with qid := 9 }) ∧
    (let s := { fS (fn .run) with bnd := { W.bnd with refused := some 5 } }
     s.bnd.refused ≠ none) ∧ (fS (fn .run)).bnd.refused = none ∧
    (((fS (fn .locked)).func 3).tdi = .locked ∧ lockHit 3 0x3F 1 = true ∧ lockHit 3 0x83FF 1 = true) ∧
    (((fS (fn .unlocked)).func 3).tdi = .unlocked ∧ 1 < vectorsOf 3 ∧ ((fS (fn .unlocked)).func 3).pba.contains 1 = true) :=
  ⟨by decide +kernel, by decide +kernel, by decide +kernel, by decide +kernel, by decide +kernel, by decide +kernel, by decide +kernel,
    by decide +kernel⟩
/-- Images that verify whatever the hash is, and one whose signature does not. -/
def img (ok : Bool) : BootImage := { bytes := [1], digest := Config.shake256 [1], svn := 5, raise := true, sigOk := ok }
def rd0 (flow : Nat) : Readings :=
  { cluster := [420, 300], stack := [], railBad := [], power := 0, hub := 0, lpddr := [], coreV := [], hubV := [], process := [], flow := flow }
theorem wit_BootAndMonitors :
    (let s := { W with bnd := { W.bnd with minSvn := 5 } }
     [img true, img true, img true].find? (imageBad s.bnd.minSvn) = none ∧
       [img true, img false, img true].find? (imageBad s.bnd.minSvn) = some (img false)) ∧
    (W.bnd.released = false ∧ (fS (fn .run)).bnd.released = true) ∧
    (let s := { fwS (fun w => { w with powerOver := some 50 }) id with cycle := 50 + usec 10000 }
     s.fw.powerOver = some 50 ∧ 50 + usec 10000 ≤ s.cycle ∧ (s.cycle - 50) % usec 1000 = 0 ∧ s.fw.squads = [sq [0]] ∧ (sq [0]).state = .running ∧
       (s.fw.squads.map (·.id)).Nodup) ∧
    (let s := { fwS (fun w => { w with powerOver := some 50 }) id with cycle := 50 + usec 10000 - 1 }
     s.fw.powerOver = some 50 ∧ s.cycle < 50 + usec 10000) ∧
    (let s := { fS (fn .run) with fw := { W.fw with flowLost := true } }
     s.bnd.released = true ∧ s.fw.flowLost = true ∧ (rd0 9).flow < 10 ∧ ¬(rd0 10).flow < 10 ∧ (rd0 9).cluster.getD 0 0 = 420 ∧
       (rd0 9).cluster.getD 1 0 < 360) :=
  ⟨by simp [img, imageBad], by decide +kernel, by decide +kernel, by decide +kernel, by decide +kernel⟩
/-- A stored pass of runner 0: one K-block of an MMA. -/
def ps : Pass := { id := 1, run := 0, heat := 7, owner := 3, pc := 0, cmd := pc0 mmaI none, ops := [], banks := [], sig := 0, due := 100, first := none, kill := false }
def auS (f : Fw → Fw) : State := { qS 100 id f with runners := [w1, Runner.reset 0x100, Runner.reset 0x101] }
theorem wit_AuditReplays :
    (let s := auS fun w => { w with store := [(0, [ps])] }
     (s.auditors 0).contains 1 = true ∧ HasRunner s (auditNum 0 1) ∧ s.fw.tests.contains (auditNum 0 1) = false ∧ s.fw.replays = [] ∧
       agetD s.fw.store 0 [] = [ps]) ∧
    (((auS fun w => { w with retired := [0x101] }).auditors 0).contains 1 = false ∧ agetD (auS id).fw.store 0 [] = []) ∧
    (let y : Pass := { ps with first := some (0x100, 5) }
     let s := auS fun w => { w with retired := [0x101], store := [(0, [y])], heats := [heat0] }
     agetD s.fw.store 0 [] = [y] ∧ (∀ j ∈ s.auditors 0, auditNum 0 j = 0x100) ∧ (s.auditors 0) = [0] ∧ heat0 ∈ s.fw.heats ∧ heat0.id = y.heat ∧
       y.kill = false ∧ { y with kill := true }.kill = true) ∧
    (∀ d ∈ [100, 101],
      let s := auS fun w => { w with replays := [((0, 1), { ps with due := d })], store := [(0, [ps])], retired := [0x100] }
      aget s.fw.replays (0, 1) = some { ps with due := d } ∧ s.fw.squads = [] ∧ s.fw.heats = [] ∧ ps.run ≠ auditNum 0 1 ∧ s.cur.run ≠ auditNum 0 1 ∧
        ∀ j ∈ s.auditors 0, j = 1) :=
  ⟨⟨by decide +kernel, hr (by decide +kernel), by decide +kernel⟩, by decide +kernel, by decide +kernel, by decide +kernel⟩

/-! ### Witnesses: links, sessions, bundles, steps -/

def msg (f : Option Nat) (i : Option Nat) (ok : Bool) : SpdmMsg := { func := f, session := i, algOk := ok, body := [] }
/-- Function 3 in an interface state, with a secured session 1 and a session 2 not finished, and IDE stream 6. -/
def tS (t : Tdi) (sec : Bool) : State :=
  { qS 100 id id with bnd := { W.bnd with funcs := [(3, fn t)], spdm := [{ id := 1, func := some 3, fin := true }, { id := 2, func := some 3, fin := false }, { id := 4, func := some 0, fin := true }],
                                          negotiated := [3], ide := [{ n := 6, first := 1, last := 3, secure := sec }] } }
def km (a : IdeAct) (n f l : Nat) : IdeKm := { session := 4, stream := n, act := a, first := f, last := l }
theorem wit_InterfacesAndSessions :
    (∀ t ∈ [Tdi.unlocked, .locked, .run, .error], (tS t true).tdiOf (msg (some 3) (some 1) true) = some 3 ∧ ((tS t true).func 3).tdi = t) ∧
    ((tS .unlocked true).ideOf 3).isSome = true ∧ (tS .unlocked false).ideOf 3 = none ∧ (tS .run true).tdiOf (msg (some 3) (some 2) true) = none ∧
    (let s := tS .unlocked true
     (km .program 255 4 4).stream ≤ 255 ∧ ∀ z ∈ s.bnd.ide, z.secure = true → ¬(z.first ≤ 4 ∧ 4 ≤ z.last)) ∧
    (let z : IdeStream := { n := 6, first := 1, last := 3, secure := true }
     z ∈ (tS .run true).bnd.ide ∧ z.first ≤ (km .program 7 3 9).last ∧ (km .program 7 3 9).first ≤ z.last ∧
       (tS .run true).bnd.ide.find? (fun z => z.n == (km .goSecure 6 1 3).stream) = some z ∧ (tS .run true).bnd.ide = [z] ∧
       3 ∈ (tS .run true).bnd.funcs.map (·.1) ∧ ((tS .run true).func 3).tdi = .run ∧ (tS .run true).bnd.ide.find? (fun y => y.n == 9) = none) ∧
    (tS .run true).boxOpen (msg (some 3) none true) = true ∧ (tS .run true).boxOpen (msg none none false) = true ∧
      (tS .run true).boxOpen (msg (some 4) none true) = false ∧
    Negotiated (tS .run true) (msg (some 3) none true) ∧ (tS .run true).bnd.negotiated.contains (boxKey (msg none none true)) = false ∧
    (tS .run true).session (msg (some 3) (some 2) true) = some { id := 2, func := some 3, fin := false } ∧
    (tS .run true).session (msg (some 3) (some 1) true) = some { id := 1, func := some 3, fin := true } :=
  ⟨by decide +kernel, by decide +kernel, by decide +kernel, by decide +kernel, by decide +kernel, by decide +kernel, by decide +kernel,
    by decide +kernel,
    by decide +kernel, ⟨by decide +kernel, by decide +kernel⟩, by decide +kernel, by decide +kernel, by decide +kernel⟩
/-- Keys come in session 4 of the PF and in no other, and not after a refusal; the next ranges of stream 6 lie beside its first; the interface's
own unmap waits for acknowledgements or not; requests for the measurements of each index. -/
theorem wit_keyManagement :
    (∀ a ∈ [IdeAct.program, .goSecure, .retire], KeysOpen (tS .run true) (km a 6 4 9) = true) ∧
      KeysOpen (tS .run true) { km .retire 6 1 3 with session := 1 } = false ∧
    KeysOpen { tS .run true with bnd := { (tS .run true).bnd with refused := some 5 } } (km .retire 6 1 3) = false ∧
    (let z : IdeStream := { n := 6, first := 1, last := 3, secure := true }
     (tS .run true).bnd.ide = [z] ∧ z.last < (km .program 6 4 9).first ∧ (km .program 6 0 0).last < z.first ∧ (km .program 6 4 9).stream ≤ 255) ∧
    (∀ l ∈ [[], [0]],
      let c := { cmdOf (ownPkt 0x101 3 0) 0 with acks := l, due := 0 }
      let s := { tS .unlocked true with fw := { W.fw with cmds := [c] } }
      GoesOn s c.id c ∧ c.pkt.opc = 0x101 ∧ c.acks = l) ∧
    ∀ n ∈ [0, 1, 4, 5, 12, 13, 0xFF], ∀ sg ∈ [0, 1],
      let m := { msg (some 3) none true with body := [sg, BitVec.ofNat 8 n] }
      Negotiated (tS .run true) m ∧ fieldLe m.body 1 1 = n ∧ (fieldLe m.body 0 1 % 2 = 1 ↔ sg = 1) := by
  unfold GoesOn Negotiated; decide +kernel
/-- A module with MODID 1, links to peer 2, the peer's digest 5 accepted or not. -/
def pS (r : List Rigal) (acc : List Byte) : State := { W with bnd := { W.bnd with modid := 1, rigal := r, rgacc := acc, released := true } }
/-- A lessor whose entry 4 has ports 0, in session or not. -/
def llS (up : BitVec 16) (e : Lease) : State := { leS e with bnd := { W.bnd with portUp := up } }
/-- A read of request n that waits for its reply. -/
def fm (n : Nat) : FarMsg :=
  { req := n, port := some 0, line := 0, seqNo := 3, write := false, data := [], addr := farBase / 64,
    want := { owner := 3, gen := false, major := 0, minor := 0, failed := false, ecc := false } }
def rm (ok : Bool) : RigalMsg := { port := 0, modid := 2, m := 5, ok := ok, body := [] }
def lreq (write : Bool) (n line : Nat) : LeaseReq := { port := 0, entry := 4, line := line, write := write, seqNo := n, data := List.replicate 64 1 }
/-- A request of a table operation's image in the host window. -/
def hq : Req := { rq (.table 0) none with chan := none, pa := hostBase, va := 0x10000, len := 2, data := [] }
def hS (q : Req) : State := { toS (to0 (.pwweight gss) 3 [] none) with cycle := 2000, mem := { MemSys.reset with reqs := [q] } }
theorem wit_PeersAndLinks :
    (let s := pS [] []
     s.bnd.released = true ∧ W.bnd.released = false ∧ 2 ≠ s.bnd.modid.toNat ∧ s.bnd.modid ≠ 0 ∧ s.rigalOn 15 = none ∧ s.rigalWith 2 = none ∧
       s.bnd.portUp.getLsbD 15 = false ∧ s.mem.reqs = []) ∧
    (let s := pS [rg 4 true true 5] []
     s.rigalOn 15 = none ∧ s.rigalWith 2 = some (rg 4 true true 5) ∧ s.rigalOn 0 = some (rg 4 true true 5) ∧ (s.bnd.rigal.map (·.peer)).Nodup) ∧
    W.bnd.modid = 0 ∧
    (∀ n ∈ [1, 2, 3], ∀ ini ∈ [true, false],
      let s := pS [rg n ini false 5] (natLe 32 5)
      s.rigalOn (rm true).port = some (rg n ini false 5) ∧ (rm true).modid = (rg n ini false 5).peer ∧ (s.bnd.rigal.map (·.peer)).Nodup ∧
        s.accepts 5 = true) ∧
    (pS [rg 3 true false 5] []).accepts 5 = false ∧ aget (leS (le0 true false 0)).tabs.leases 4 = some (le0 true false 0) :=
  ⟨by decide +kernel, by decide +kernel, by decide +kernel, by decide +kernel, by decide +kernel, by decide +kernel⟩
def leA : Lease := { le0 true false 0 with applied := [(63, 7)] }
theorem wit_leaseTraffic :
    (aget (llS 1 leA).tabs.leases 4 = some leA ∧ (leA.ports &&& (llS 1 leA).bnd.portUp).getLsbD 0 = true) ∧
    (aget (llS 0 leA).tabs.leases 4 = some leA ∧ (leA.ports &&& (llS 0 leA).bnd.portUp).getLsbD 0 = false) ∧
    64 * (lreq true 8 67).line + 64 ≤ leA.len + leA.len / 15 ∧ leA.len + leA.len / 15 < 64 * (lreq true 8 68).line + 64 ∧
    aget leA.applied (lreq true 7 63).line = some 7 ∧ aget leA.applied (lreq true 7 64).line = none ∧ (lreq false 7 63).write = false :=
  ⟨by decide +kernel, by decide +kernel, by decide +kernel, by decide +kernel, by decide +kernel, by decide +kernel, rfl⟩
theorem wit_imageRunner : HasRunner (hS hq) 0 := ⟨_, .head _, rfl⟩
theorem wit_imageReads :
    (∀ a ∈ [hostBase, farBase],
      let q := { hq with pa := a }
      let s := { hS q with bnd := { W.bnd with portUp := 1 } }
      s.mem.reqs = [q] ∧ s.bnd.portUp.getLsbD 0 = true ∧ s.bnd.portUp.getLsbD 1 = false ∧ s.farVerifies q.id [1, 2] = true ∧ q.write = false ∧
        (pclass a = .host ∨ pclass a = .far ∧ q.elig + 1196 ≤ s.cycle) ∧ ([1, 2] : List Byte).length = q.len ∧ s.mem.phys.wf = true ∧
        (s.rn 0).tabop = some (to0 (.pwweight gss) 3 [] none) ∧ q.va = (to0 (.pwweight gss) 3 [] none).s2 ∧ (s.physRead q.pa q.len).2 = false ∧
        s.tableReadRace 0 q = none) := by decide +kernel
/-- A far read of a table operation, whose reply lacks its tag. -/
def farQ : Req := { hq with pa := farBase, els := [(farBase, 2)] }
def farS : State :=
  { hS farQ with bnd := { W.bnd with portUp := 1 }, tabs := { Tables.reset with leases := [(4, { le0 false false 0 with unanswered := [fm farQ.id] })] } }
theorem wit_farReply : farS.mem.reqs = [farQ] ∧ farS.bnd.portUp.getLsbD 0 = true ∧ farS.farVerifies farQ.id [] = false ∧ farQ.write = false ∧
    pclass farQ.pa = .far ∧ farQ.els = [(farQ.pa, farQ.len)] ∧ 0 < farQ.len ∧ farQ.elig + 1196 ≤ farS.cycle ∧ farS.tableReadRace 0 farQ = none ∧
    (farS.rn 0).tabop = some (to0 (.pwweight gss) 3 [] none) ∧ (farS.tabs.leases.map (·.1)).Nodup :=
  ⟨rfl, by decide +kernel, by decide +kernel, rfl, by decide +kernel, rfl, by decide +kernel, by decide +kernel, by decide +kernel,
    by decide +kernel, by decide +kernel⟩

/-- A slot after the bundle has stopped, one that names register 20 of a file of 16 predicates, slots with false guards, and one whose
guard is in flight to its last cycle in exposed mode. -/
def nf : Guard := { neg := true, p := 0 }
theorem wit_SlotsThatDoNotExecute :
    (let s := { W with cur := { W.cur with st := .stopped } }
     s.cur.st ≠ .ok ∧ (instrUse s.me (.add (r3 .c))).isSome = true) ∧
    ((instrUse W.me (.mgclaim { g := gt, d := 20 })).bind (·.bad)).isSome = true ∧
    MeetsFalse (.add { r3 .c with g := nf }) W ∧ MeetsFalse (.br { sl := .c, g := nf, off := 1 }) W ∧
    (let s := W.leg fun l => { l with c := l.c.withHnd true }
     MeetsFalse (.rft { sl := .c, g := nf }) s ∧ (s.me.st .c).hnd = true) :=
  ⟨by decide +kernel, by decide +kernel, false_of (by decide +kernel), false_of (by decide +kernel), false_of (by decide +kernel), by decide +kernel⟩
def earlyB (i : Instr) (s : State) : Bool :=
  match instrUse s.me i with
  | some u => u.bad.isNone && !s.guardOf u && (s.earlyOf u false).isSome
  | none => false
theorem early_of {i : Instr} {s : State} (h : earlyB i s = true) :
    ∃ u d, instrUse s.me i = some u ∧ u.bad = none ∧ s.guardOf u = false ∧ s.earlyOf u false = some d := by
  unfold earlyB at h
  split at h
  · rename_i u hu
    simp only [Bool.and_eq_true, Option.isNone_iff_eq_none, Bool.not_eq_true'] at h
    obtain ⟨d, hd⟩ := Option.isSome_iff_exists.mp h.2
    exact ⟨u, d, hu, h.1.1, h.1.2, hd⟩
  · cases h
/-- Exposed mode, a predicate in flight that the false guard reads early. -/
theorem wit_early :
    let s := W.with fun x => { x with
      leg := { x.leg with c := { x.leg.c with sw := 0x44 } }
      cx := { x.cx with pend := [{ Pend.of (.p 1) 0 with land := 120, issue := 99, bound := 21 }] } }
    ∃ u d, instrUse s.me (.add { r3 .c with g := { neg := false, p := 1 } }) = some u ∧ u.bad = none ∧ s.guardOf u = false ∧
      s.earlyOf u false = some d :=
  early_of (by decide +kernel)
/-- An operation whose guard is true and whose first operand is in flight. -/
def earlyReadB (i : Instr) (s : State) : Bool :=
  s.cur.st == .ok && match instrUse s.me i with
    | some u => u.bad.isNone && s.guardOf u && (s.earlyOf u true).isSome
    | none => false
theorem earlyRead_of {i : Instr} {s : State} (h : earlyReadB i s = true) :
    ∃ u d, s.cur.st = .ok ∧ instrUse s.me i = some u ∧ u.bad = none ∧ s.guardOf u = true ∧ s.earlyOf u true = some d := by
  unfold earlyReadB at h
  obtain ⟨h0, h⟩ := Bool.and_eq_true_iff.mp h
  split at h
  · rename_i u hu
    simp only [Bool.and_eq_true, Option.isNone_iff_eq_none] at h
    obtain ⟨d, hd⟩ := Option.isSome_iff_exists.mp h.2
    exact ⟨u, d, beq_iff_eq.mp h0, hu, h.1.1, h.1.2, hd⟩
  · cases h
/-- Registers g1, a1, p1 and VA1 in flight from the cycle before. -/
def flying (d : Dst) : Pend := { Pend.of d 0 with land := 120, issue := 99, bound := 21 }
def earlyS : State := W.with fun x => { x with
  leg := { x.leg with c := { x.leg.c with sw := 0x44 }, s := { x.leg.s with sw := 0x44 } }
  cx := { x.cx with pend := [flying (.g 1), flying (.p 1), flying (.va 1)] }
  ax := { x.ax with pend := [flying (.a 1)] } }
/-- An operation of each family. -/
def earlyOps : List Instr := [
    Instr.add (r3 .c), .mul (r3 .c), .mov (r2 .c), .addi { sl := .c, g := gt, d := 3, s1 := 1, imm := 0xFFF },
    .sel { sl := .c, g := gt, d := 3, s1 := 1, s2 := 2, q := 1 }, .cmp { sl := .c, g := gt, d := 3, s1 := 1, s2 := 2, cc := .eq, w32 := false },
    .pand { r3 .c with d := 3, s1 := 1, s2 := 2 }, .brc { sl := .c, g := gt, s1 := 1, cond := .eqz, off := 1 }, .loopset { sl := .c, g := gt, s1 := 1, ds := 1 },
    .xtovVa { g := gt, d := 31, s1 := 1, e := 15 }, .atox { g := gt, d := 31, s1 := 1 }, .csrw { g := gt, s1 := 1, n := 0 }, .pushc { g := gt, s1 := 1 },
    .vpushSdq { v := .va, g := gt, s1 := 1 }, .vadd (v3 .s8), .vsel { v4 with v := .va },
    .vcmp { v := .va, g := gt, d := 3, s1 := 1, t := 2, cc := .eq, w := .w1024, ty := .f32 }, .vperm (vp .s8)]
theorem wit_earlyReads : ∀ i ∈ earlyOps,
    ∃ u d, earlyS.cur.st = .ok ∧ instrUse earlyS.me i = some u ∧ u.bad = none ∧ earlyS.guardOf u = true ∧ earlyS.earlyOf u true = some d :=
  fun i hi => earlyRead_of (List.all_eq_true.mp (by decide +kernel : (earlyOps.all fun i => earlyReadB i earlyS) = true) i hi)
def nopAt (k : BitVec 2) : Except Illegal Instr := .ok (.nop { sl := .a, pos := k, g := gt })
theorem wit_BundleChecks :
    (needsH (.keyld gss) = true ∧ W.me.atH = false ∧ [nopAt 0, nopAt 1, nopAt 2, .ok (.keyld gss)][3]? = some (.ok (.keyld gss))) ∧
    ([nopAt 0, .error .minor, nopAt 2, nopAt 3] : List (Except Illegal Instr))[1]? = some (.error .minor) ∧
    (W.me.st .c).hnd = false ∧ ((W.me.st .a).inDelay = false ∧ needsH (.nop { sl := .a, pos := 0, g := gt }) = false ∧
      isRft (.nop { sl := .a, pos := 0, g := gt }) = false ∧
      vecWidth (.vadd { v3 .s8 with w := .w512 }) + vecWidth (.vadd (v3 .s8)) = 1536) ∧
    bundleErr W.me .c [.ok (.add (r3 .c)), .ok (.vadd (v3 .s8)), .ok (.vadd { v3 .s8 with v := .vb }), .ok (.add (r3 .c))] false = some (2, 5) ∧
    (W.me.st .c).reentry = none ∧ (∀ n ∈ [gt, nf], ((instrUse W.me (.rft { sl := .c, g := n })).any fun u => W.me.guardsSettled .c [u]) = true) ∧
    W.strayRft .c [.ok (.rft { sl := .c, g := gt })] = some true ∧ W.strayRft .c [.ok (.rft { sl := .c, g := nf })] = some false ∧
    (∃ i, needsH i = true ∧ isMark i = false) ∧ legMark (.add (r3 .c)) = false :=
  ⟨by decide +kernel, by decide +kernel, by decide +kernel, by decide +kernel, by decide +kernel, by decide +kernel, by decide +kernel,
    by decide +kernel,
    by decide +kernel, ⟨.keyld gss, by decide +kernel⟩, by decide +kernel⟩

/-- A slice at 0x40 without and with a pending branch; the last delay slot of a branch and of an RFT. -/
def brS (cur own : Option Br) (h : Option Tsh) : State :=
  { W.leg (fun l => { l with c := { l.c with pc := 0x40, br := own, tsh := h, sw := 6, xpc := 0x80, ifq := [{ r := gp 100 false, d := 3 }] } }) with
    cur := { W.cur with pc := 0x40, br := cur } }
def br1 (n : Nat) (rft : Bool) : Br := { target := some 0x100, left := n, rft := rft }
def tsh0 : Tsh := { exp := true, guards := 7, br := some (br1 2 false), marked := false }
theorem wit_BundlesInOrder :
    (HasRunner (brS none none none) 0 ∧ ((brS none none none).me.st .c).done = false ∧ (brS none none none).cur.br = none ∧
      ((brS none none none).me.st .c).br = none) ∧
    (HasRunner (brS (some (br1 3 false)) none none) 0 ∧ (brS (some (br1 3 false)) none none).cur.br = some (br1 3 false)) ∧
    (∀ n ∈ [3, 1], (((brS none (some (br1 n false)) none).me.st .c).br = some (br1 n false))) ∧ (br1 3 false).left = 1 + 2 ∧ (br1 1 false).left = 1 ∧
    (let s := brS none (some (br1 1 true)) (some tsh0)
     (s.me.st .c).br = some (br1 1 true) ∧ (br1 1 true).rft = true ∧ (s.me.st .c).tsh = some tsh0 ∧ s.cur.reent = false) ∧
    ((reinject [{ r := gp 100 false, d := 3 }] 101).isEmpty = false) :=
  ⟨⟨hr (by decide +kernel), by decide +kernel⟩, ⟨hr (by decide +kernel), by decide +kernel⟩, by decide +kernel, rfl, rfl,
    by decide +kernel, by decide +kernel⟩
/-- A slice with a handler; the other slice in its handler; no handler, in a heat of the module. -/
def trS (v : Option Word) (other : Bool) : State :=
  fwS id fun x => { x with cx := { x.cx with vector := v }, leg := { x.leg with s := x.leg.s.withHnd other } }
/-- The A slice's trap was taken in this cycle. -/
def trP : PTrap := { cause := 9, detail := 0, slot := 0, resume := 1, xaddr := 0, freeze := false }
def trC : State := fwS id fun x => { x with
  cx := { x.cx with vector := some 0x400 }, ax := { x.ax with taken := some (100, trP, Strm.reset) }, leg := { x.leg with s := x.leg.s.withHnd true } }
theorem wit_TrapEntry :
    (∀ o ∈ [false, true], HasRunner (trS (some 0x400) o) 0 ∧ (((trS (some 0x400) o).rn 0).st .c).hnd = false ∧
      (((trS (some 0x400) o).rn 0).st .c).done = false ∧
      (((trS (some 0x400) o).rn 0).sx .c).vector = some 0x400 ∧ (((trS (some 0x400) o).rn 0).st (otherSlice .c)).hnd = o) ∧
    (HasRunner (trS none false) 0 ∧ (((trS none false).rn 0).sx .c).vector = none ∧ heat0 ∈ (trS none false).fw.heats ∧
      heat0.id = ((trS none false).rn 0).heatid ∧ heat0.ended = none) ∧
    (HasRunner trC 0 ∧ (trC.rn 0).ax.taken = some (trC.cycle, trP, Strm.reset) ∧ (trC.rn 0).leg.s.hnd = true ∧ Strm.reset.hnd = false ∧
      (trC.rn 0).leg.c.hnd = false ∧ (trC.rn 0).leg.c.done = false ∧ (trC.rn 0).cx.vector = some 0x400) ∧
    (∀ z, (trS (some 0x400) true |>.rn 0).ax.taken = some z → z.1 ≠ (trS (some 0x400) true).cycle) ∧
    ((captureIfq [gp 110 false] 100).isEmpty = false) :=
  ⟨fun o ho => by
      simp only [List.mem_cons, List.not_mem_nil, or_false] at ho
      rcases ho with rfl | rfl <;> exact ⟨hr (by decide +kernel), by decide +kernel⟩,
    ⟨hr (by decide +kernel), by decide +kernel⟩, ⟨hr (by decide +kernel), by decide +kernel⟩, fun z h => (Option.some_ne_none z h.symm).elim,
    by decide +kernel⟩
/-- A runner rewound for cause 2 for the third time, with a sound Fold and with one that holds an error. -/
def rwS : State := fwS id fun x => { x with rwcnt := 2, rwcause := 2 }
def rwF : State := fwS id fun x => { x with fold := { x.fold with ue := true } }
theorem wit_RewindsAreCounted :
    HasRunner rwS 0 ∧ (rwS.rn 0).fold.ue = false ∧ (rwF.rn 0).fold.ue = true ∧ heat0 ∈ rwF.fw.heats ∧ heat0.id = (rwF.rn 0).heatid ∧
    3 ≤ ((rwS.rewind 0 2 []).rn 0).rwcnt ∧ heat0 ∈ rwS.fw.heats ∧ heat0.id = (rwS.rn 0).heatid ∧ heat0.ended = none ∧
    nextIs (exec (.notPresentHoldRelease 0) rwS) (fun _ => true) = true ∧ nextIs (exec (.rewindReentry 0) rwS) (fun _ => true) = true :=
  ⟨hr (by decide +kernel), by decide +kernel⟩

/-- The word of ADD g3, g1, g2 where the first step fetches it: a bundle that issues, decodes and meets no check. -/
def fetched : State := { (State.reset.withFetchWord 32 0x08061100) with agenda := [] }
def addBundle : List Instr := [.add (r3 .c), .nop { sl := .c, pos := 1, g := gt }, .nop { sl := .c, pos := 2, g := gt }, .nop { sl := .c, pos := 3, g := gt }]
def opened : State := fetched.openBundle 0 .c
def goesB (s : State) (sl : Slice) (l : List Instr) : Bool :=
  let ds : List (Except Illegal Instr) := l.map .ok
  let us := usesFrom s.me ds 0
  let on := us.filter fun u => (s.withGuards us).guardOf u
  s.cur.st == .ok && !s.cur.reent && (s.me.st sl).reentry.isNone && (l.all fun i => !isHeaderOp i) && s.strayRft sl ds == some false && (bundleErr s.me sl ds false).isNone &&
  s.me.guardsSettled sl us && s.me.unlocked sl on && s.me.queuesReady sl on && (firstHold exec (fun z => z == .wait || z == .bound) (s.withGuards us) ds).isNone &&
  (firstHold exec (fun z => z == .whole) (s.withGuards us) ds).isNone && (firstHold exec (fun z => z == .np) (s.withGuards us) ds).isNone
theorem goes_of {s : State} {sl : Slice} {l : List Instr} (h : goesB s sl l = true) : BundleGoes s sl l := by
  simp only [goesB, Bool.and_eq_true, beq_iff_eq, Bool.not_eq_true', Option.isNone_iff_eq_none, List.all_eq_true] at h
  obtain ⟨⟨⟨⟨⟨⟨⟨⟨⟨⟨⟨h1, h2⟩, h3⟩, h4⟩, h5⟩, h6⟩, h7⟩, h8⟩, h9⟩, h10⟩, h11⟩, h12⟩ := h
  exact ⟨h1, h2, h3, h4, h5, h6, h7, h8, h9, h10, h11, h12⟩
def fetchB (s : State) (l : List Instr) : Bool :=
  match s.fetch 0 .c s.cur.pc with
  | .ok b s1 => (decide (decodeBundle .c b = l.map .ok)) && goesB s1 .c l
  | _ => false
theorem wit_Step :
    (State.reset.withFetchWord 32 0x08061100).agenda = [.issue 0 .c] ∧ opened.mayIssue (opened.rn 0) .c = true ∧ ((opened.rn 0).sx .c).trap = none ∧
    W.queuesSound W.cur.run = true ∧
    (∃ b s1, opened.fetch 0 .c opened.cur.pc = .ok b s1 ∧ decodeBundle .c b = addBundle.map .ok ∧ BundleGoes s1 .c addBundle) := by
  have h : fetchB opened addBundle = true := by decide +kernel
  refine ⟨by decide +kernel, by decide +kernel, by decide +kernel, by decide +kernel, ?_⟩
  unfold fetchB at h
  split at h
  · rename_i b s1 hf
    obtain ⟨h1, h2⟩ := Bool.and_eq_true_iff.mp h
    exact ⟨b, s1, hf, of_decide_eq_true h1, goes_of h2⟩
  · cases h
theorem wit_Step_marks :
    legMark (.leg (hd .c)) = true ∧ nextIs (exec (.leg (hd .c)) W) (fun u => u.cur.st == .ok) = true ∧
    nextIs (exec (.add (r3 .c)) W) (fun _ => true) = true ∧ tableClass 0x08061100 = some (.c, 0) ∧
    decodeSlot .c 0 none 0x08061100 = .ok (.add (r3 .c)) := by decide +kernel
theorem wit_Encode : (Instr.add (r3 .c)).wellFormed = true ∧
    encode (.add (r3 .c)) = some { sl := .c, pos := 0, ext := none, word := 0x08061100 } := by decide +kernel
/-- Reset meets both invariants, and steps. -/
theorem wit_Invariants : State.reset.mem.phys.wf = true ∧ State.reset.MemoriesWf ∧ State.reset.runners.map (fun x => x.num) = runnerNums ∧
    nextIs (step State.reset) (fun _ => true) = true :=
  ⟨rfl, ⟨rfl, by decide +kernel, by decide +kernel, by decide +kernel, by decide +kernel⟩, by decide +kernel, rfl⟩

/-! ### Single steps whose results the manual gives -/

/-- What a slot's one result in flight is after it: its destination and its low 64 bits. -/
def lastRes (o : Out) (sl : Slice) : Option (Dst × Word) :=
  match o with
  | .next t => ((t.me.sx sl).pend.getLast?).map fun p => (p.dst, p.val.setWidth 64)
  | _ => none
def Wg (x y : Word) : State := W.leg fun l => { l with g := vset (vset l.g 1 x) 2 y }
/-- MUL of 6 and 7 (the trap example of chapter 14), wrapping sums, the division corners of R129, shifts of 63 and of a count above it (R128). -/
theorem test_scalar :
    lastRes (exec (.mul { r3 .c with d := 5 }) (Wg 6 7)) .c = some (.g 5, 42) ∧
    lastRes (exec (.add (r3 .c)) (Wg 0xFFFFFFFFFFFFFFFF 2)) .c = some (.g 3, 1) ∧
    lastRes (exec (.sub (r3 .c)) (Wg 0 1)) .c = some (.g 3, 0xFFFFFFFFFFFFFFFF) ∧
    lastRes (exec (.sar (r3 .c)) (Wg 0x8000000000000000 63)) .c = some (.g 3, 0xFFFFFFFFFFFFFFFF) ∧
    lastRes (exec (.shl (r3 .c)) (Wg 1 64)) .c = some (.g 3, 1) ∧
    lastRes (exec (.mulh (r3 .c)) (Wg 0xFFFFFFFFFFFFFFFF 2)) .c = some (.g 3, 0xFFFFFFFFFFFFFFFF) ∧
    lastRes (exec (.mulhz (r3 .c)) (Wg 0xFFFFFFFFFFFFFFFF 2)) .c = some (.g 3, 1) ∧
    lastRes (exec (.minz (r3 .c)) (Wg 0xFFFFFFFFFFFFFFFF 2)) .c = some (.g 3, 2) ∧
    lastRes (exec (.min (r3 .c)) (Wg 0xFFFFFFFFFFFFFFFF 2)) .c = some (.g 3, 0xFFFFFFFFFFFFFFFF) ∧
    lastRes (exec (.bswap (r2 .c)) (Wg 0x0102030405060708 0)) .c = some (.g 3, 0x0807060504030201) ∧
    lastRes (exec (.addi { sl := .c, g := gt, d := 3, s1 := 1, imm := 0xFFF }) (Wg 5 0)) .c = some (.g 3, 4) := by decide +kernel
/-- VCVT of 0x3FC0C000 to bf16 under RNE, and its residual (the example of R103). -/
theorem test_convert :
    (convert .f32 .bf16 .rne false 0 0x3FC0C000).v = 0x3FC1 ∧
    residual .f32 .bf16 0x3FC0C000 (convert .f32 .bf16 .rne false 0 0x3FC0C000) = 0xBB000000 ∧
    (convert .f32 .bf16 .sr false 1 0x3FC06000).v = 0x3FC0 ∧ (convert .f32 .bf16 .sr false 5 0x3FC06000).v = 0x3FC1 := by decide +kernel
/-- VRED.add.f32 over 2^24 and seven ones: the pairwise tree gives 0x4B800003 (the example of R110). -/
theorem test_reduce :
    let s := W.leg fun l =>
      { l with va := { l.va with d := vset l.va.d 1 (BitVec.ofNat 1024 ((List.range 8).foldl (fun n k => n + (if k = 0 then 0x4B800000 else 0x3F800000) * 2 ^ (32 * k)) 0)) } }
    lastRes (exec (.vred { v := .va, g := gt, d := 3, s1 := 1, t := 3, op := .add, w := .w256, ty := .f32, rm := .rne }) s) .c = some (.va 3, 0x4B800003) := by
  decide +kernel
/-- The quantisation example of R171: scale 0x78 and fields 0x7C, 0xF4, 0x38, 0x00; under RUP the last is 0x01. -/
def qs : State := W.leg fun l =>
  { l with va := { l.va with d := vset l.va.d 1 (BitVec.ofNat 1024 (0x40400000 + 0xBFC00000 * 2 ^ 32 + 0x3C000000 * 2 ^ 64 + 0x37000000 * 2 ^ 96)) } }
def qnt (rm : Rm) : Option (Word × Word) :=
  match exec (.vqnt { v := .va, g := gt, d := 2, s1 := 1, t := 3, fmt := .qe4m3, w := .w1024, ty := .f32, rm := rm }) qs with
  | .next t => match t.me.cx.pend with | [a, b] => some (a.val.setWidth 64, b.val.setWidth 64) | _ => none
  | _ => none
theorem test_quantise : qnt .rne = some (0x0038F47C, 0x78) ∧ qnt .rup = some (0x0138F47C, 0x78) := by decide +kernel
/-- LFSR 0x2468ACE1 steps to 0x92145673 (04), SEL 0x2468A010 to 0x12345008 (16). -/
theorem test_lfsr : lfsrStep 0x2468ACE1 = 0x92145673 ∧ lfsrStep 0x2468A010 = 0x12345008 := by decide +kernel
/-- The K-block sums of the example of R108: 2^24 + 1 + 1 in one block is exact; 2^24 + 1 in a block ties to 2^24. -/
def one : FV := .num false 1 0
def big : FV := .num false 1 24
theorem test_block :
    (cellOp 0 .f32 0 (blockOf 0 [big, one, one] [one, one, one])).v = 0x4B800001 ∧
      (cellOp 0 .f32 0 (blockOf 0 [big, one] [one, one])).v = 0x4B800000 ∧
    (cellOp 0 .f32 0x4B800000 (blockOf 0 [one] [one])).v = 0x4B800000 := by decide +kernel
/-- LOOPSET with a trip count of 4 and one drain stage (the example of R119): lc 5, lfc 4, both bases 0, p8 set. -/
theorem test_loopset :
    (match exec (.loopset { sl := .c, g := gt, s1 := 7, ds := 1 }) (W.g 7 4) with
     | .next t => (t.me.cx.pend.map fun p => p.val)
     | _ => []) = [loopVal 5 4 0 0 1 0xFF] := by decide +kernel
/-- TRAP 5 of the C slice with a handler (the example of chapter 14): RESUME 1, the code in DETAIL, HND, and the MUL issued one cycle before
captured with D = 2. -/
def tp : State := W.with fun x => { x with
  leg := { x.leg with c := { x.leg.c with sw := 4, pc := 0x10 } }
  cx := { x.cx with vector := some 0x400, pend := [{ Pend.of (.g 5) 42 with issue := 99, bound := 3, land := 102 }] } }
theorem test_trap :
    nextIs (exec (.trap { sl := .c, g := gt, code := 5 }) { tp with cur := { tp.cur with pc := 0x10 } }) (fun t =>
      t.me.leg.c.xpc == 0x10 && t.me.leg.c.resume == 1 && t.me.leg.c.hnd && t.me.leg.c.pc == 0x400 && (t.me.leg.c.ifq.map (·.d)) == [2] &&
        t.me.leg.xcause == 0x0000000500000009) = true := by decide +kernel
/-- The least significant byte of a word lies lowest in memory (R89), and a byte written back to 0 is not listed. -/
theorem test_memory : (Memory.write [] 0x10 (natLe 4 0x01020304)).get 0x10 = 4 ∧ (Memory.write [] 0x10 (natLe 4 0x01020304)).get 0x13 = 1 ∧
    Memory.write (Memory.write [] 0x10 (natLe 4 0x01020304)) 0x10 (natLe 4 0) = [] := by decide +kernel
/-- The first step after reset with ADD g3, g1, g2 placed puts its result in flight, and the pc moves 16 bytes on. -/
theorem test_step : nextIs (step (State.reset.withFetchWord 32 0x08061100)) (fun t =>
    ((t.rn 0).cx.pend.map (·.dst)) == [.g 3] && (t.rn 0).leg.c.pc == (State.reset.withFetchWord 32 0x08061100).me.leg.c.pc + 16) = true := by decide +kernel

end Sys2Proof.Tests
end

namespace Sys2Proof.Machine

/-! ### Renaming of predicates (R118) -/

/-- R118 in numbers: p0 to p7 are fixed, p8 to p15 rotate among themselves. -/
theorem Strm.pphys_toNat (t : Strm) (i : BitVec 4) :
    (t.pphys i).toNat = if i.toNat < 8 then i.toNat else 8 + (i.toNat - 8 + t.prot.toNat) % 8 := by
  unfold Strm.pphys
  split
  · rfl
  · rw [BitVec.toNat_ofNat]; omega

theorem Strm.pphys_injective (t : Strm) : Function.Injective t.pphys := by
  intro i j h
  have h' := congrArg BitVec.toNat h
  rw [t.pphys_toNat, t.pphys_toNat] at h'
  apply BitVec.eq_of_toNat_eq
  split at h' <;> split at h' <;> omega

/-- p0 does not rotate, and no other name reaches physical predicate 0. -/
theorem Strm.pphys_toNat_eq_zero (t : Strm) (i : BitVec 4) : (t.pphys i).toNat = 0 ↔ i.toNat = 0 := by
  rw [t.pphys_toNat]
  split <;> omega

/-- The physical predicate, as a number, of the logical predicate j: bit j of PFILE or APFILE stands for it. -/
def Strm.pbit (t : Strm) (j : Nat) : Nat := (t.pphys (BitVec.ofNat 4 j)).toNat

theorem Strm.pbit_lt (t : Strm) (j : Nat) : t.pbit j < 16 := (t.pphys _).isLt

theorem Strm.pbit_inj (t : Strm) {i j : Nat} (hi : i < 16) (hj : j < 16) : t.pbit i = t.pbit j ↔ i = j := by
  rw [Strm.pbit, Strm.pbit, BitVec.toNat_inj, t.pphys_injective.eq_iff, ← BitVec.toNat_inj, BitVec.toNat_ofNat, BitVec.toNat_ofNat]
  omega

theorem Strm.pbit_ne_zero (t : Strm) {j : Nat} (h0 : j ≠ 0) (hj : j < 16) : t.pbit j ≠ 0 := by
  rw [Strm.pbit, ne_eq, t.pphys_toNat_eq_zero, BitVec.toNat_ofNat]
  omega

/-! ### Reading PFILE and APFILE (R125) -/

/-- The number whose bit j, for j below n, is b j. -/
def bitSum (b : Nat → Bool) (n : Nat) : Nat := (List.range n).foldl (fun a j => if b j then a + 2 ^ j else a) 0

theorem bitSum_succ (b : Nat → Bool) (n : Nat) : bitSum b (n + 1) = if b n then bitSum b n + 2 ^ n else bitSum b n := by
  simp [bitSum, List.range_succ]

theorem bitSum_lt (b : Nat → Bool) (n : Nat) : bitSum b n < 2 ^ n := by
  induction n with
  | zero => simp [bitSum]
  | succ n ih =>
    rw [bitSum_succ, Nat.pow_succ]
    split <;> omega

theorem testBit_bitSum (b : Nat → Bool) {j n : Nat} (h : j < n) : (bitSum b n).testBit j = b j := by
  induction n with
  | zero => omega
  | succ n ih =>
    rw [bitSum_succ]
    obtain hj | rfl := Nat.lt_succ_iff_lt_or_eq.mp h
    · split
      · rw [Nat.add_comm, Nat.testBit_two_pow_add_gt hj, ih hj]
      · exact ih hj
    · have top : (bitSum b j).testBit j = false := Nat.testBit_lt_two_pow (bitSum_lt b j)
      split
      next hb => rw [Nat.add_comm, Nat.testBit_two_pow_add_eq, top, hb]; rfl
      next hb => simpa [top] using hb

theorem Strm.pfile_eq_bitSum (t : Strm) : t.pfile = bitSum (fun j => j == 0 || t.preds.getLsbD (t.pbit j)) 16 := rfl

/-- What a read of PFILE or APFILE gives: one for p0, and each logical predicate under the base in force. -/
theorem Strm.getLsbD_pfile (t : Strm) {j : Nat} (hj : j < 16) :
    (BitVec.ofNat 64 t.pfile).getLsbD j = (j == 0 || t.preds.getLsbD (t.pbit j)) := by
  rw [BitVec.getLsbD_ofNat, t.pfile_eq_bitSum, testBit_bitSum _ hj]
  simp [show j < 64 by omega]

/-! ### Writing PFILE and APFILE (R125) -/

/-- One physical predicate replaced. -/
def setPred (p : BitVec 16) (k : Nat) (b : Bool) : BitVec 16 := if b then p ||| (1#16 <<< k) else p &&& ~~~(1#16 <<< k)

theorem getLsbD_setPred_self (p : BitVec 16) {k : Nat} (hk : k < 16) (b : Bool) : (setPred p k b).getLsbD k = b := by
  cases b <;> simp [setPred, hk]

theorem getLsbD_setPred_ne (p : BitVec 16) {k i : Nat} (h : i ≠ k) (b : Bool) : (setPred p k b).getLsbD i = p.getLsbD i := by
  have far : (1#16 <<< k).getLsbD i = false := by
    obtain off | off := Nat.lt_or_gt_of_ne h
    · simp [off]
    · simp [Nat.sub_ne_zero_of_lt off]
  cases b with
  | true => simp only [setPred, if_true, BitVec.getLsbD_or, far, Bool.or_false]
  | false =>
    simp only [setPred, Bool.false_eq_true, if_false, BitVec.getLsbD_and, BitVec.getLsbD_not, far]
    simpa using p.lt_of_getLsbD

/-- The predicates after a write of v to one bit j of PFILE or APFILE; the write to bit 0 has no effect. -/
def Strm.writePbit (t : Strm) (v : Nat) (p : BitVec 16) (j : Nat) : BitVec 16 :=
  if j == 0 then p else setPred p (t.pbit j) (v.testBit j)

theorem Strm.withPfile_preds (t : Strm) (v : Nat) : (t.withPfile v).preds = (List.range 16).foldl (t.writePbit v) t.preds := rfl

theorem Strm.getLsbD_foldl_writePbit_of_ne (t : Strm) (v k : Nat) (l : List Nat) (p : BitVec 16) (h : ∀ j ∈ l, j ≠ 0 → k ≠ t.pbit j) :
    (l.foldl (t.writePbit v) p).getLsbD k = p.getLsbD k := by
  induction l generalizing p with
  | nil => rfl
  | cons x xs ih =>
    rw [List.foldl_cons, ih _ fun j hj => h j (List.mem_cons_of_mem _ hj), Strm.writePbit]
    by_cases hx : x = 0
    · simp [hx]
    · simpa [hx] using getLsbD_setPred_ne p (h x List.mem_cons_self hx) _

/-- The physical predicate of a bit that is written takes that bit's value: no later bit of the list names it again. -/
theorem Strm.getLsbD_foldl_writePbit_of_mem (t : Strm) (v : Nat) {j : Nat} (hj : j ≠ 0) (l : List Nat) (p : BitVec 16)
    (hl : ∀ x ∈ l, x < 16) (nd : l.Nodup) (hm : j ∈ l) : (l.foldl (t.writePbit v) p).getLsbD (t.pbit j) = v.testBit j := by
  induction l generalizing p with
  | nil => cases hm
  | cons x xs ih =>
    obtain ⟨hx, nd⟩ := List.nodup_cons.mp nd
    have hxs : ∀ y ∈ xs, y < 16 := fun y hy => hl y (List.mem_cons_of_mem _ hy)
    rw [List.foldl_cons]
    obtain rfl | hm := List.mem_cons.mp hm
    · have other : ∀ y ∈ xs, y ≠ 0 → t.pbit j ≠ t.pbit y := fun y hy _ h =>
        hx ((t.pbit_inj (hl j List.mem_cons_self) (hxs y hy)).mp h ▸ hy)
      rw [t.getLsbD_foldl_writePbit_of_ne v _ xs _ other]
      simpa [Strm.writePbit, hj] using getLsbD_setPred_self p (t.pbit_lt j) _
    · exact ih _ hxs nd hm

/-- A write to PFILE or APFILE sets each logical predicate but p0, under the base in force. -/
theorem Strm.withPfile_preds_pbit (t : Strm) (v : Nat) {j : Nat} (h0 : j ≠ 0) (hj : j < 16) :
    (t.withPfile v).preds.getLsbD (t.pbit j) = v.testBit j := by
  rw [t.withPfile_preds]
  exact t.getLsbD_foldl_writePbit_of_mem v h0 _ _ (fun _ => List.mem_range.mp) List.nodup_range (List.mem_range.mpr hj)

theorem Strm.withPfile_preds_zero (t : Strm) (v : Nat) : (t.withPfile v).preds.getLsbD 0 = t.preds.getLsbD 0 := by
  rw [t.withPfile_preds]
  exact t.getLsbD_foldl_writePbit_of_ne v 0 _ _ fun j hj h0 => (t.pbit_ne_zero h0 (List.mem_range.mp hj)).symm

theorem Strm.withPfile_congr (t : Strm) {v w : Nat} (h : ∀ j, 1 ≤ j → v.testBit j = w.testBit j) : t.withPfile v = t.withPfile w := by
  have step : t.writePbit v = t.writePbit w := by
    funext p j
    by_cases hj : j = 0
    · simp [Strm.writePbit, hj]
    · simp [Strm.writePbit, h j (Nat.one_le_iff_ne_zero.mpr hj)]
  have hp : (t.withPfile v).preds = (t.withPfile w).preds := by rw [t.withPfile_preds, t.withPfile_preds, step]
  exact congrArg (fun p => { t with preds := p }) hp

/-! ### The system registers 0x006 and 0x007 -/

theorem Runner.csr_pfile (x : Runner) : x.csr 0x006 = BitVec.ofNat 64 x.leg.c.pfile := rfl
theorem Runner.csr_apfile (x : Runner) : x.csr 0x007 = BitVec.ofNat 64 x.leg.s.pfile := rfl
theorem Runner.setCsr_pfile (x : Runner) (v : Word) : x.setCsr 0x006 v = x.modSt .c fun t => t.withPfile v.toNat := rfl
theorem Runner.setCsr_apfile (x : Runner) (v : Word) : x.setCsr 0x007 v = x.modSt .a fun t => t.withPfile v.toNat := rfl
theorem Runner.setCsr_pfile_c (x : Runner) (v : Word) : (x.setCsr 0x006 v).leg.c = x.leg.c.withPfile v.toNat := rfl
theorem Runner.setCsr_apfile_s (x : Runner) (v : Word) : (x.setCsr 0x007 v).leg.s = x.leg.s.withPfile v.toNat := rfl

end Sys2Proof.Machine

namespace Sys2Proof.Proofs
open Sys2Proof.Machine

/-- Settles O52: a read gathers the physical predicates of the sixteen names; a write meets each of them once, since renaming is injective, and
never physical predicate 0. -/
theorem predicateFiles : Obligations.PredicateFiles := by
  unfold Obligations.PredicateFiles
  refine ⟨fun x j hj => ?_, fun x v j h1 hj => ?_, fun x v w h => ?_, fun x v => ?_⟩
  · rw [x.csr_pfile, x.csr_apfile]
    exact ⟨x.leg.c.getLsbD_pfile hj, x.leg.s.getLsbD_pfile hj⟩
  · have h0 : j ≠ 0 := Nat.one_le_iff_ne_zero.mp h1
    rw [x.setCsr_pfile_c, x.setCsr_apfile_s, ← BitVec.testBit_toNat]
    exact ⟨x.leg.c.withPfile_preds_pbit _ h0 hj, x.leg.s.withPfile_preds_pbit _ h0 hj⟩
  · have same (t : Strm) : t.withPfile v.toNat = t.withPfile w.toNat :=
      t.withPfile_congr fun j hj => by simpa [BitVec.testBit_toNat] using h j hj
    simp only [x.setCsr_pfile, x.setCsr_apfile, same, and_self]
  · rw [x.setCsr_pfile_c, x.setCsr_apfile_s]
    exact ⟨x.leg.c.withPfile_preds_zero _, x.leg.s.withPfile_preds_zero _⟩

end Sys2Proof.Proofs

namespace Sys2Proof.Machine

/-! ### What the count of rewinds rests on (R372)

RWCNT, RWCAUSE, the Fold and the heat of each runner, with the cycle and the heats of the module. Few operations touch any of it: for each of
those that a rewind or a leg boundary uses, one lemma says that it leaves this view as it is. -/

/-- The part of a runner that a rewind counts by, restores from and ends. -/
structure RewindPart where
  num : Nat
  rwcnt : Nat
  rwcause : Nat
  fold : Fold
  heatid : Word

/-- That part of a runner. -/
def Runner.rewindPart (x : Runner) : RewindPart :=
  { num := x.num, rwcnt := x.rwcnt, rwcause := x.rwcause, fold := x.fold, heatid := x.heatid }

/-- The parts of all runners. -/
def State.rewindParts (s : State) : List RewindPart := s.runners.map Runner.rewindPart

/-- What of a state a rewind looks at: the parts of its runners, its cycle and its heats. -/
structure RewindView where
  parts : List RewindPart
  cycle : Nat
  heats : List Heat

/-- The view of a state. -/
def State.rewindView (s : State) : RewindView := { parts := s.rewindParts, cycle := s.cycle, heats := s.fw.heats }

theorem rewindParts_of_view {s t : State} (h : t.rewindView = s.rewindView) : t.rewindParts = s.rewindParts :=
  congrArg RewindView.parts h
theorem cycle_of_view {s t : State} (h : t.rewindView = s.rewindView) : t.cycle = s.cycle := congrArg RewindView.cycle h
theorem heats_of_view {s t : State} (h : t.rewindView = s.rewindView) : t.fw.heats = s.fw.heats := congrArg RewindView.heats h

theorem rewindPart_rn (s : State) (r : Nat) :
    (s.rn r).rewindPart = (s.rewindParts.find? fun p => p.num == r).getD (Runner.reset r).rewindPart := by
  rw [State.rewindParts, List.find?_map, Option.getD_map]
  rfl

theorem rewindPart_rn_of_parts {s t : State} (h : t.rewindParts = s.rewindParts) (r : Nat) :
    (t.rn r).rewindPart = (s.rn r).rewindPart := by
  rw [rewindPart_rn, rewindPart_rn, h]

theorem rwcnt_rn_of_parts {s t : State} (h : t.rewindParts = s.rewindParts) (r : Nat) : (t.rn r).rwcnt = (s.rn r).rwcnt :=
  congrArg RewindPart.rwcnt (rewindPart_rn_of_parts h r)

theorem hasRunner_iff_parts (s : State) (r : Nat) : HasRunner s r ↔ ∃ p ∈ s.rewindParts, p.num = r := by
  simp [HasRunner, State.rewindParts, Runner.rewindPart]

theorem hasRunner_of_parts {s t : State} (h : t.rewindParts = s.rewindParts) (r : Nat) : HasRunner t r ↔ HasRunner s r := by
  rw [hasRunner_iff_parts, hasRunner_iff_parts, h]

/-- The part of runner r changed. -/
def RewindView.modPart (v : RewindView) (r : Nat) (g : RewindPart → RewindPart) : RewindView :=
  { v with parts := v.parts.map fun p => if p.num == r then g p else p }

/-- A change of one runner is seen by what it does to the runner's part. -/
theorem rewindView_modR_eq_modPart (s : State) (r : Nat) {f : Runner → Runner} (g : RewindPart → RewindPart)
    (hf : ∀ x, (f x).rewindPart = g x.rewindPart) : (s.modR r f).rewindView = s.rewindView.modPart r g := by
  have parts : (s.modR r f).rewindParts = (s.rewindView.modPart r g).parts := by
    simp only [State.rewindParts, State.rewindView, RewindView.modPart, State.modR_runners, List.map_map]
    refine List.map_congr_left fun x _ => ?_
    simp only [Function.comp_apply, ← hf]
    exact apply_ite Runner.rewindPart ..
  simp [State.rewindView, parts, RewindView.modPart]

theorem rewindView_modR (s : State) (r : Nat) {f : Runner → Runner} (hf : ∀ x, (f x).rewindPart = x.rewindPart) :
    (s.modR r f).rewindView = s.rewindView := by
  simp [rewindView_modR_eq_modPart s r id hf, RewindView.modPart]

theorem rewindParts_modR (s : State) (r : Nat) {f : Runner → Runner} (hf : ∀ x, (f x).rewindPart = x.rewindPart) :
    (s.modR r f).rewindParts = s.rewindParts :=
  rewindParts_of_view (rewindView_modR s r hf)

theorem rwcnt_rn_modR (s : State) (r : Nat) {f : Runner → Runner} (hf : ∀ x, (f x).rewindPart = x.rewindPart) :
    ((s.modR r f).rn r).rwcnt = (s.rn r).rwcnt :=
  rwcnt_rn_of_parts (rewindParts_modR s r hf) r

/-- Whatever each step of a fold leaves as it is, the fold does. -/
theorem rewindView_foldl {α : Type} {f : State → α → State} (h : ∀ s a, (f s a).rewindView = s.rewindView) (l : List α) (s : State) :
    (l.foldl f s).rewindView = s.rewindView := by
  rw [← List.foldl_hom State.rewindView (g₂ := fun v _ => v) fun s a => (h s a).symm, List.foldl_fixed]

/-! ### Operations that leave the view as it is -/

@[simp] theorem State.modMem_rewindView (s : State) (f : MemSys → MemSys) : (s.modMem f).rewindView = s.rewindView := rfl
@[simp] theorem State.event_rewindView (s : State) (o : Word) (k : Nat) (a b : Word) : (s.event o k a b).rewindView = s.rewindView := rfl
@[simp] theorem State.send_rewindView (s : State) (m : OutMsg) : (s.send m).rewindView = s.rewindView := rfl
@[simp] theorem State.answered_rewindView (s : State) (i : Nat) (a : LinkAns) : (s.answered i a).rewindView = s.rewindView := rfl
@[simp] theorem State.record_rewindView (s : State) (x : Runner) (g : Granule) (w st : Bool) (a : BitVec 20) :
    (s.record x g w st a).rewindView = s.rewindView := rfl
@[simp] theorem State.addReq_rewindView (s : State) (r : Nat) (els : List (Nat × Nat × List Byte)) (va : Word) (w : Bool) (e : Nat)
    (u : ReqFor) (m : Bool) : (s.addReq r els va w e u m).rewindView = s.rewindView := rfl
@[simp] theorem State.modHam_rewindView (s : State) (r i : Nat) (f : HamE → HamE) : (s.modHam r i f).rewindView = s.rewindView :=
  rewindView_modR s r fun _ => rfl
@[simp] theorem State.delHam_rewindView (s : State) (r i : Nat) : (s.delHam r i).rewindView = s.rewindView :=
  rewindView_modR s r fun _ => rfl

@[simp] theorem State.recordAll_rewindView (s : State) (x : Runner) (gs : List Granule) (w st : Bool) (a : BitVec 20) :
    (s.recordAll x gs w st a).rewindView = s.rewindView :=
  rewindView_foldl (fun _ _ => State.record_rewindView ..) gs s

@[simp] theorem State.logErr_rewindView (s : State) (arr i : Nat) (e : LogE) : (s.logErr arr i e).rewindView = s.rewindView := by
  simp only [State.logErr, apply_ite State.rewindView, State.event_rewindView, State.modMem_rewindView, ite_self]

@[simp] theorem State.logWords_rewindView (s : State) (r : Nat) (fs : List FailW) : (s.logWords r fs).rewindView = s.rewindView :=
  rewindView_foldl (fun s _ => s.logErr_rewindView ..) fs s

@[simp] theorem State.wroteAll_rewindView (s : State) (r arr i : Nat) (l : List (Nat × Nat)) :
    (s.wroteAll r arr i l).rewindView = s.rewindView := by
  simp [State.wroteAll]

@[simp] theorem State.wrote_rewindView (s : State) (r arr i a n : Nat) : (s.wrote r arr i a n).rewindView = s.rewindView :=
  s.wroteAll_rewindView ..

@[simp] theorem State.setTile_rewindView (s : State) (r : Nat) (t : TileId) (v : Option Tile) : (s.setTile r t v).rewindView = s.rewindView := by
  unfold State.setTile
  dsimp only
  split
  · exact rewindView_modR s r fun _ => rfl
  · rfl
  · rfl

@[simp] theorem State.modTile_rewindView (s : State) (r : Nat) (t : TileId) (f : Tile → Tile) : (s.modTile r t f).rewindView = s.rewindView := by
  unfold State.modTile
  split
  · simp
  · rfl

@[simp] theorem State.undoTile_rewindView (s : State) (r : Nat) (u : TileUndo) : (s.undoTile r u).rewindView = s.rewindView := by
  unfold State.undoTile
  split
  · simp
  · simp

@[simp] theorem State.setLine_rewindView (s : State) (o : Nat) (g : Bool) (ln : Nat) (w : Bool) : (s.setLine o g ln w).rewindView = s.rewindView := by
  unfold State.setLine
  split
  · rfl
  · dsimp only
    split
    · simp [State.reencrypt]
    · simp

@[simp] theorem State.touchLine_rewindView (s : State) (o ln : Nat) (w : Bool) : (s.touchLine o ln w).rewindView = s.rewindView := by
  unfold State.touchLine State.putLine
  split
  · rfl
  · simp [State.countPath]

@[simp] theorem State.spWrites_rewindView (s : State) (r : Nat) (l : Lvl) (ps : List (Nat × List Byte)) :
    (s.spWrites r l ps).rewindView = s.rewindView := by
  unfold State.spWrites
  dsimp only
  split
  · exact Eq.trans (rewindView_modR _ r fun _ => rfl) (State.wroteAll_rewindView ..)
  · simp
  · rw [State.modMem_rewindView, rewindView_foldl fun _ _ => State.touchLine_rewindView .., State.wroteAll_rewindView]

@[simp] theorem State.queueFar_rewindView (s : State) (i : Nat) (ms : List FarMsg) : (s.queueFar i ms).rewindView = s.rewindView := by
  obtain ⟨hcycle, hrunners, -, hfw, -⟩ := queueFar_keeps s i ms
  simp [State.rewindView, State.rewindParts, hcycle, hrunners, hfw]

@[simp] theorem State.sendFar_rewindView (s : State) (i o : Nat) (els : List (Nat × Nat × List Byte)) (w : Bool) (gs : List Granule) :
    (s.sendFar i o els w gs).rewindView = s.rewindView := by
  unfold State.sendFar
  split
  · simp
  · rfl

@[simp] theorem State.sendHost_rewindView (s : State) (i o : Nat) (els : List (Nat × Nat × List Byte)) (op : HostOp) :
    (s.sendHost i o els op).rewindView = s.rewindView := by
  have sent := rewindView_foldl (f := fun s p => s.send (.host i o (p.1 - hostBase) p.2.1 op p.2.2)) (fun _ _ => State.send_rewindView ..) els s
  unfold State.sendHost
  split
  · simp
  · dsimp only
    split
    · simp [sent]
    · exact sent

@[simp] theorem State.post_rewindView (s : State) (r : Nat) (els : List (Nat × Nat × List Byte)) (va : Word) (w : Bool) (e : Nat) (u : ReqFor)
    (a : Option (HostOp × List Byte)) : (s.post r els va w e u a).rewindView = s.rewindView := by
  unfold State.post
  dsimp only
  split
  · simp
  · split
    · simp
    · simp
  · simp

/-! ### The Hamper drained: a heat may end, but the count stays (R341, R367) -/

@[simp] theorem Runner.halt_rewindPart (x : Runner) : x.halt.rewindPart = x.rewindPart := rfl

@[simp] theorem Runner.modLeg_rewindPart (x : Runner) (f : Leg → Leg) : (x.modLeg f).rewindPart = x.rewindPart := rfl
@[simp] theorem Runner.record_rewindPart (x : Runner) (p : PTrap) (sl : Slice) : (x.record p sl).rewindPart = x.rewindPart :=
  x.modLeg_rewindPart _

@[simp] theorem State.endHeat_rewindParts (s : State) (who : Option Nat) (i st xa : Word) (d : Nat) :
    (s.endHeat who i st xa d).rewindParts = s.rewindParts := by
  simp only [State.endHeat, State.rewindParts, List.map_map]
  refine List.map_congr_left fun x _ => ?_
  simp only [Function.comp_apply, apply_ite Runner.rewindPart, x.halt_rewindPart, ite_self]

@[simp] theorem State.fatalTrap_rewindParts (s : State) (r : Nat) (sl : Slice) (p : PTrap) (pc : Word) :
    (s.fatalTrap r sl p pc).rewindParts = s.rewindParts := by
  rw [State.fatalTrap, State.endHeat_rewindParts]
  exact rewindParts_modR s r fun x => x.record_rewindPart p sl

@[simp] theorem State.raceA_rewindParts (s : State) (r d : Nat) (xa : Word) : (s.raceA r d xa).rewindParts = s.rewindParts := by
  unfold State.raceA
  dsimp only
  split
  · simp
  · split
    · rfl
    · exact rewindParts_modR s r fun _ => rfl

@[simp] theorem State.holdHam_rewindParts (s : State) (r d : Nat) (xa : Word) : (s.holdHam r d xa).rewindParts = s.rewindParts := by
  rw [State.holdHam, State.raceA_rewindParts]
  exact rewindParts_modR s r fun _ => rfl

@[simp] theorem State.startStore_rewindParts (s : State) (r : Nat) (h : HamE) : (s.startStore r h).rewindParts = s.rewindParts := by
  unfold State.startStore
  dsimp only
  split
  · rfl
  split
  · simp
  apply rewindParts_of_view
  rw [apply_ite State.rewindView, State.delHam_rewindView, rewindView_foldl fun _ _ => State.post_rewindView .., State.modHam_rewindView,
    ite_self, rewindView_foldl fun _ _ => State.recordAll_rewindView .., rewindView_foldl]
  intro t l
  split
  · rfl
  · simp

@[simp] theorem State.drain_rewindParts (s : State) (r n : Nat) : (s.drain r n).rewindParts = s.rewindParts := by
  induction n generalizing s with
  | zero => rfl
  | succ n ih =>
    unfold State.drain
    split
    · rfl
    split
    · rfl
    split
    · split
      · rw [ih]
        exact rewindParts_modR s r fun _ => rfl
      · rfl
    split
    · rfl
    dsimp only
    split
    · simp
    · rw [ih, State.startStore_rewindParts]

@[simp] theorem State.drainHamper_rewindParts (s : State) (r : Nat) : (s.drainHamper r).rewindParts = s.rewindParts := by
  have drained : (if (s.rn r).ackm.getLsbD 0 then s else s.drain r 80).rewindParts = s.rewindParts := by
    split
    · rfl
    · simp
  unfold State.drainHamper
  dsimp only
  generalize (if (s.rn r).ackm.getLsbD 0 then s else s.drain r 80) = t at drained ⊢
  split
  · exact Eq.trans (rewindParts_modR _ r fun _ => rfl) ((State.fatalTrap_rewindParts ..).trans drained)
  · exact drained

/-- A leg boundary clears RWCNT (R367). -/
theorem rwcnt_boundary {s : State} {r : Nat} (hr : HasRunner s r) (ex : Bool) (who : Option Slice) :
    ((s.boundary r ex who).rn r).rwcnt = 0 := by
  unfold State.boundary
  dsimp only
  rw [rwcnt_rn_of_parts (State.drainHamper_rewindParts ..), rn_modR_same]
  · exact fun _ h => h
  · exact hr

/-! ### A rewind (R370-R372) -/

/-- A rewind for cause c counted (R372). -/
def RewindPart.counted (p : RewindPart) (c : Nat) : RewindPart :=
  { p with rwcnt := if p.rwcause = c then p.rwcnt + 1 else 1, rwcause := c }

/-- A runner with such a rewind counted and nothing else changed. -/
def countRewind (c : Nat) (x : Runner) : Runner :=
  { x with rwcnt := if x.rwcause = c then x.rwcnt + 1 else 1, rwcause := c }

theorem Runner.stopSlice_rewindPart (x : Runner) (sl : Slice) (now : Nat) : (x.stopSlice sl now).rewindPart = x.rewindPart := by
  cases sl <;> rfl

theorem Runner.restop_rewindPart (x : Runner) (now : Nat) : (x.restop now).rewindPart = x.rewindPart := by
  unfold Runner.restop
  simp only [apply_ite Runner.rewindPart, Runner.stopSlice_rewindPart, ite_self]

/-- Of its part a rewind changes the count alone: the Fold stays for the next rewind. -/
theorem Runner.restop_rewound_rewindPart (x : Runner) (c now at_ n : Nat) (np : List Nat) :
    ((x.rewound c now at_ np).restop n).rewindPart = x.rewindPart.counted c :=
  Runner.restop_rewindPart ..

/-- What a rewind does: the runner is restored and the rewind counted; then the heat ends for an error in the Fold, or for the count or SHDW, or
else the runner waits to issue again (R371, R372, R381). -/
theorem rewind_cases (s : State) (r c : Nat) (np : List Nat) :
    ∃ t : State, t.rewindView = (s.modR r (countRewind c)).rewindView ∧
      s.rewind r c np = if (t.rn r).fold.ue then t.hardFault r .c (t.rn r).leg.c.pc 2
        else if 3 ≤ (t.rn r).rwcnt || (t.rn r).press.shdw != 0 then t.hardFault r .c (t.rn r).leg.c.pc c else t := by
  refine ⟨_, ?_, rfl⟩
  rw [State.modMem_rewindView, rewindView_foldl fun _ _ => State.wrote_rewindView ..,
    rewindView_modR_eq_modPart _ r (RewindPart.counted · c) fun _ => Runner.restop_rewound_rewindPart ..,
    rewindView_foldl fun _ _ => State.undoTile_rewindView .., rewindView_modR_eq_modPart s r (RewindPart.counted · c) fun _ => rfl]
  rfl

/-- What a rewind counted says of the runner. -/
theorem counted_of_view {s t : State} {r c : Nat} (hr : HasRunner s r) (view : t.rewindView = (s.modR r (countRewind c)).rewindView) :
    HasRunner t r ∧ (t.rn r).rewindPart = (s.rn r).rewindPart.counted c ∧ t.cycle = s.cycle ∧ t.fw.heats = s.fw.heats := by
  have parts := rewindParts_of_view view
  have num (x : Runner) (h : x.num = r) : (countRewind c x).num = r := h
  refine ⟨(hasRunner_of_parts parts r).mpr ((hasRunner_modR s r r _ num).mpr hr), ?_, (cycle_of_view view).trans (State.modR_cycle ..),
    (heats_of_view view).trans (congrArg Fw.heats (State.modR_fw ..))⟩
  rw [rewindPart_rn_of_parts parts, rn_modR_same s r _ num hr]
  rfl

/-! ### HARD_FAULT (R358, R372) -/

theorem bits_statusWord_status (st c : Nat) (a : Bool) (run : Nat) (pc : Word) (d : Nat) :
    bits (statusWord st c a run pc d).toNat 0 8 = st % 256 := by
  simp only [bits, statusWord, BitVec.toNat_ofNat]
  split <;> omega

theorem bits_statusWord_cause (st c : Nat) (a : Bool) (run : Nat) (pc : Word) (d : Nat) :
    bits (statusWord st c a run pc d).toNat 8 8 = c % 256 := by
  simp only [bits, statusWord, BitVec.toNat_ofNat]
  split <;> omega

/-- A change of all runners that keeps their numbers is seen in each. -/
theorem rn_map_runners {s t : State} {r : Nat} {f : Runner → Runner} (ht : t.runners = s.runners.map f) (hf : ∀ x, (f x).num = x.num)
    (hr : HasRunner s r) : t.rn r = f (s.rn r) := by
  obtain ⟨x, hx⟩ : ∃ x, s.runners.find? (fun x => x.num == r) = some x :=
    Option.isSome_iff_exists.mp (List.find?_isSome.mpr (by simpa [HasRunner] using hr))
  simp [State.rn, ht, List.find?_map, hf, hx]

/-- The runner whose event ends its heat stops at once. -/
theorem rn_endHeat {s : State} {r : Nat} (hr : HasRunner s r) {i : Word} (hi : (s.rn r).heatid = i) (st xa : Word) (d : Nat) :
    (s.endHeat (some r) i st xa d).rn r = (s.rn r).halt := by
  rw [rn_map_runners (s := s) rfl _ hr]
  · simp [hi, rn_num]
  · intro x
    split
    · rfl
    · rfl

/-- A heat that has not ended takes the status of the event that ends it. -/
theorem mem_heats_endHeat {s : State} {h : Heat} (hm : h ∈ s.fw.heats) (he : h.ended = none) (who : Option Nat) (st xa : Word) (d : Nat) :
    { h with ended := some (st, s.cycle), xaddr := xa, detail := d } ∈ (s.endHeat who h.id st xa d).fw.heats :=
  List.mem_map.mpr ⟨h, hm, by simp [he]⟩

theorem Runner.record_num (x : Runner) (p : PTrap) (sl : Slice) : (x.record p sl).num = x.num := x.modLeg_num _

theorem rn_hardFault {s : State} {r : Nat} (hr : HasRunner s r) (sl : Slice) (pc : Word) (c : Nat) :
    (s.hardFault r sl pc c).rn r = ((s.rn r).record (PTrap.mk' 0x24 c 0) sl).halt := by
  have num (x : Runner) (h : x.num = r) : (x.record (PTrap.mk' 0x24 c 0) sl).num = r := (x.record_num ..).trans h
  have recorded := rn_modR_same s r _ num hr
  have heatid := congrArg RewindPart.heatid ((s.rn r).record_rewindPart (PTrap.mk' 0x24 c 0) sl)
  rw [State.hardFault, rn_endHeat ((hasRunner_modR s r r _ num).mpr hr) (recorded ▸ heatid), recorded]

@[simp] theorem State.hardFault_rewindParts (s : State) (r : Nat) (sl : Slice) (pc : Word) (c : Nat) :
    (s.hardFault r sl pc c).rewindParts = s.rewindParts := by
  rw [State.hardFault, State.endHeat_rewindParts]
  exact rewindParts_modR s r fun x => x.record_rewindPart _ sl

/-- HARD_FAULT of cause c has ended heat h in cycle n, and its runner r has stopped: it does not issue again. -/
def HardFaulted (t : State) (r : Nat) (h : Heat) (c n : Nat) : Prop :=
  (t.rn r).rewind = none ∧ (t.rn r).stopReq = true ∧ ∃ g ∈ t.fw.heats, g.id = h.id ∧
    g.detail = c ∧ ∃ st, g.ended = some (st, n) ∧ bits st.toNat 0 8 = 0x0C ∧ bits st.toNat 8 8 = 0x24

theorem hardFaulted_hardFault {s : State} {r : Nat} (hr : HasRunner s r) (sl : Slice) (pc : Word) (c : Nat) {h : Heat}
    (hm : h ∈ s.fw.heats) (hid : h.id = (s.rn r).heatid) (he : h.ended = none) : HardFaulted (s.hardFault r sl pc c) r h c s.cycle := by
  have ended : { h with ended := some (statusWord 0x0C 0x24 (sl == .a) r pc 0, s.cycle), xaddr := 0, detail := c } ∈
      (s.hardFault r sl pc c).fw.heats := by
    rw [State.hardFault, ← hid]
    exact mem_heats_endHeat (s := s.modR r _) hm he ..
  rw [HardFaulted, rn_hardFault hr]
  exact ⟨rfl, rfl, _, ended, rfl, rfl, _, rfl, bits_statusWord_status .., bits_statusWord_cause ..⟩

/-! ### The count, and the end that it brings (R370, R372) -/

theorem rewindPart_rewind {s : State} {r : Nat} (hr : HasRunner s r) (c : Nat) (np : List Nat) :
    ((s.rewind r c np).rn r).rewindPart = (s.rn r).rewindPart.counted c := by
  obtain ⟨t, view, branches⟩ := rewind_cases s r c np
  have parts : (s.rewind r c np).rewindParts = t.rewindParts := by
    simp only [branches, apply_ite State.rewindParts, State.hardFault_rewindParts, ite_self]
  exact (rewindPart_rn_of_parts parts r).trans (counted_of_view hr view).2.1

/-- When a rewind ends the heat: for an uncorrectable error in the Fold, and otherwise at the third rewind for its cause. -/
theorem hardFaulted_rewind {s : State} {r : Nat} (hr : HasRunner s r) (c : Nat) (np : List Nat) {h : Heat} (hm : h ∈ s.fw.heats)
    (hid : h.id = (s.rn r).heatid) (he : h.ended = none) :
    ((s.rn r).fold.ue = true → HardFaulted (s.rewind r c np) r h 2 s.cycle) ∧
    ((s.rn r).fold.ue = false → 3 ≤ ((s.rewind r c np).rn r).rwcnt → HardFaulted (s.rewind r c np) r h c s.cycle) := by
  have after := rewindPart_rewind hr c np
  obtain ⟨t, view, branches⟩ := rewind_cases s r c np
  obtain ⟨tr, part, cycle, heats⟩ := counted_of_view hr view
  have ue : (t.rn r).fold.ue = (s.rn r).fold.ue := congrArg (fun p => p.fold.ue) part
  have cnt : (t.rn r).rwcnt = ((s.rewind r c np).rn r).rwcnt := congrArg RewindPart.rwcnt (part.trans after.symm)
  have faulted (d : Nat) : HardFaulted (t.hardFault r .c (t.rn r).leg.c.pc d) r h d s.cycle := by
    rw [← cycle]
    exact hardFaulted_hardFault tr .c _ d (heats ▸ hm) (hid.trans (congrArg RewindPart.heatid part).symm) he
  rw [← cnt, ← ue, branches]
  refine ⟨fun hue => ?_, fun hue hcnt => ?_⟩
  · rw [if_pos hue]
    exact faulted 2
  · rw [if_neg (by simp [hue]), if_pos (by simp [hcnt])]
    exact faulted c

/-! ### What does not count (R236, R371) -/

theorem rwcnt_notPresentHoldRelease {r : Nat} {s t : State} (h : exec (.notPresentHoldRelease r) s = .next t) :
    (t.rn r).rwcnt = (s.rn r).rwcnt := by
  cases h
  refine rwcnt_rn_modR s r fun x => ?_
  split
  · rfl
  · rfl

theorem rwcnt_rewindReentry {r : Nat} {s t : State} (h : exec (.rewindReentry r) s = .next t) : (t.rn r).rwcnt = (s.rn r).rwcnt := by
  change execRewindReentry r s = .next t at h
  unfold execRewindReentry at h
  extract_lets x at h
  split at h
  · extract_lets n late at h
    split at h
    · cases h
      rfl
    · cases h
      exact rwcnt_rn_modR s r fun _ => rfl
  · cases h
    rfl

end Sys2Proof.Machine

namespace Sys2Proof.Proofs
open Sys2Proof.Machine

/-- Settles O53: a rewind restores all of a runner but the count, which it raises; the end of the heat is decided on that count and on the Fold. -/
theorem rewindsAreCounted : Obligations.RewindsAreCounted := by
  unfold Obligations.RewindsAreCounted
  refine ⟨fun r c np s hr => ?_, fun r c np s h hr cnt hm hid he ue => ?_, fun r c np s h hr hm hid he ue => ?_,
    fun r s ex who hr => rwcnt_boundary hr ex who, fun r s t => rwcnt_notPresentHoldRelease, fun r s t => rwcnt_rewindReentry⟩
  · have part := rewindPart_rewind hr c np
    exact ⟨congrArg RewindPart.rwcause part, congrArg RewindPart.rwcnt part⟩
  · exact (hardFaulted_rewind hr c np hm hid he).2 ue cnt
  · exact (hardFaulted_rewind hr c np hm hid he).1 ue

end Sys2Proof.Proofs
